-- ==== Sys2Proof/Word.lean ====
section
/-! DEFINITION. Words of the X16 and the one sparse, canonical map every register file, memory and
table of the model is held in. -/
namespace Sys2Proof

/-- A scalar register's 64 bits (03 general registers). -/
abbrev Word := BitVec 64

/-- A vector register's 2,048 bytes (R55). -/
abbrev Vec := BitVec 16384

/-- A lane mask's 512 bits (R55). -/
abbrev Mask := BitVec 512

/-- A byte. -/
abbrev Byte := BitVec 8

/-- A sparse map from numbers to values: entries by strictly rising key, none equal to the default. -/
abbrev Store (α : Type) := List (Nat × α)

/-- The value at a key; an unlisted key reads as the default. [DESIGN CHOICE, log 2] -/
def Store.get {α : Type} (dflt : α) : Store α → Nat → α
  | [], _ => dflt
  | (k, v) :: rest, i => if i = k then v else Store.get dflt rest i

/-- Take out every entry of a key. -/
def Store.erase {α : Type} : Store α → Nat → Store α
  | [], _ => []
  | (k, v) :: rest, i => if i = k then Store.erase rest i else (k, v) :: Store.erase rest i

/-- Put an entry in its place by key. -/
def Store.insert {α : Type} : Store α → Nat → α → Store α
  | [], i, x => [(i, x)]
  | (k, v) :: rest, i, x => if i < k then (i, x) :: (k, v) :: rest else (k, v) :: Store.insert rest i x

/-- Write a value at a key, keeping the canonical form (writing the default removes the entry).
[DESIGN CHOICE, log 2] -/
def Store.set {α : Type} [DecidableEq α] (dflt : α) (m : Store α) (i : Nat) (x : α) : Store α :=
  if x = dflt then Store.erase m i else Store.insert (Store.erase m i) i x

/-- Every key of the map is above `lo`, keys rise strictly, and no value is the default. -/
def Store.wfFrom {α : Type} [DecidableEq α] (dflt : α) : Option Nat → Store α → Bool
  | _, [] => true
  | lo, (k, v) :: rest =>
    (match lo with | none => true | some l => decide (l < k)) && decide (v ≠ dflt)
      && Store.wfFrom dflt (some k) rest

/-- The canonical form. -/
def Store.wf {α : Type} [DecidableEq α] (dflt : α) (m : Store α) : Bool :=
  Store.wfFrom dflt none m

end Sys2Proof
end

