-- ==== Sys2Proof/Syntax.lean ====
section
/-! DEFINITION. The syntax: operand forms, and the one inductive with a constructor for every row of
spec/opcode_table.json. Rows 0-194 are slot instructions; rows 195-285 are the machine's own steps,
Brocade's, firmware's and the host's. -/
namespace Sys2Proof

/-- A source operand of an S slot, or a scalar operand of a V slot (R161, R221). -/
inductive SSrc where
  | reg (r : BitVec 6)
  | imm (i : BitVec 5)
  | latch (q : BitVec 3)
deriving DecidableEq, Repr

/-- A vector source operand of a V slot (R161). -/
inductive VSrc where
  | reg (r : BitVec 6)
  | imm (i : BitVec 5)
  | latch (q : BitVec 3)
  | port (j : BitVec 2)
deriving DecidableEq, Repr

/-- A source operand of an M slot (R161): no immediate. -/
inductive MSrc where
  | reg (r : BitVec 6)
  | latch (q : BitVec 3)
  | port (j : BitVec 2)
deriving DecidableEq, Repr

/-- The destination of `MDRAIN` (R168). -/
inductive MDst where
  | reg (r : BitVec 6)
  | port (y : BitVec 1)
deriving DecidableEq, Repr

/-- Vector element types (R167). -/
inductive VType where
  | f32 | bf16 | f16 | e4m3 | e5m2 | i32 | i16 | i8 | z32 | z16 | z8
deriving DecidableEq, Repr

/-- S slot, two sources (R163 general layout). -/
structure SArgs where
  p : BitVec 5
  ws : Bool
  d : BitVec 6
  a : SSrc
  b : SSrc
deriving DecidableEq, Repr

/-- S slot, one source. -/
structure SOne where
  p : BitVec 5
  ws : Bool
  d : BitVec 6
  a : SSrc
deriving DecidableEq, Repr

/-- S slot, `MOVI` and `MOVH`. -/
structure SImm where
  p : BitVec 5
  ws : Bool
  d : BitVec 6
  i : BitVec 14
deriving DecidableEq, Repr

/-- S slot, `CMP` and `FCMP`: destination predicate and condition. -/
structure SCmp where
  p : BitVec 5
  x : BitVec 4
  c : BitVec 3
  a : SSrc
  b : SSrc
deriving DecidableEq, Repr

/-- S slot, `FCVT`: a conversion code in place of source B (R202). -/
structure SCvt where
  p : BitVec 5
  ws : Bool
  d : BitVec 6
  a : SSrc
  c : BitVec 7
deriving DecidableEq, Repr

/-- S slot, `PAND`, `POR`, `PXOR` (R200). -/
structure SPred where
  p : BitVec 5
  x : BitVec 4
  ny : Bool
  y : BitVec 4
  nz : Bool
  z : BitVec 4
deriving DecidableEq, Repr

/-- S slot, a privileged opcode with two sources and no destination (R354-R358). -/
structure SPriv where
  p : BitVec 5
  a : SSrc
  b : SSrc
deriving DecidableEq, Repr

/-- S slot, one source and no destination (`FLGS`, `FLGC`, `CTXSV`, `CTXRS`, `LKMW`). -/
structure SSink where
  p : BitVec 5
  a : SSrc
deriving DecidableEq, Repr

/-- L slot, a package-memory access with a scaled offset (R165). -/
structure LMem where
  p : BitVec 5
  ws : Bool
  d : BitVec 6
  b : BitVec 6
  off : BitVec 6
  size : BitVec 2
  land : BitVec 7
  hint : Bool
deriving DecidableEq, Repr

/-- L slot, a scratchpad access with a 12-bit (scalar) offset (R265). -/
structure LSp where
  p : BitVec 5
  ws : Bool
  d : BitVec 6
  b : BitVec 6
  off : BitVec 12
  size : BitVec 2
  sp : Bool
deriving DecidableEq, Repr

/-- L slot, a whole-vector scratchpad access with a 14-bit offset (R265). -/
structure LVec where
  p : BitVec 5
  ws : Bool
  d : BitVec 6
  b : BitVec 6
  off : BitVec 14
  sp : Bool
deriving DecidableEq, Repr

/-- L slot, gather and scatter (R265). -/
structure LIdx where
  p : BitVec 5
  ws : Bool
  d : BitVec 6
  b : BitVec 6
  x : BitVec 6
  size : BitVec 2
  k : BitVec 3
  sp : Bool
deriving DecidableEq, Repr

/-- L slot, a strong access (R269). `op` holds [15:12] of `ATOM` and `RED`; `n` is `CAS`'s new-value
register; `arv` is `RED`'s arrival bit. -/
structure LStrong where
  p : BitVec 5
  ws : Bool
  d : BitVec 6
  addr : BitVec 6
  op : BitVec 4
  n : BitVec 6
  arv : Bool
  size : BitVec 2
  scope : BitVec 3
  order : BitVec 2
  hint : Bool
deriving DecidableEq, Repr

/-- L slot, a fence (R273). -/
structure LFence where
  p : BitVec 5
  scope : BitVec 3
  ro : Bool
deriving DecidableEq, Repr

/-- L slot, an engine operation (R276): two registers, a status register, a flag. -/
structure LEng where
  p : BitVec 5
  a : BitVec 6
  b : BitVec 6
  s : BitVec 6
  f : BitVec 5
  mode : BitVec 5
deriving DecidableEq, Repr

/-- L slot, a lock operation (R326). -/
structure LLock where
  p : BitVec 5
  a : BitVec 6
  s : BitVec 6
  f : BitVec 5
  mode : BitVec 3
deriving DecidableEq, Repr

/-- V slot, destination and two vector sources (R166, R221). -/
structure VArgs where
  p : BitVec 5
  k : BitVec 3
  ws : Bool
  d : BitVec 6
  a : VSrc
  b : VSrc
  ty : VType
deriving DecidableEq, Repr

/-- V slot, destination and one vector source. -/
structure VOne where
  p : BitVec 5
  k : BitVec 3
  ws : Bool
  d : BitVec 6
  a : VSrc
  ty : VType
deriving DecidableEq, Repr

/-- V slot, `VCMP` (R187): condition and destination mask. -/
structure VCmpArgs where
  p : BitVec 5
  k : BitVec 3
  ws : Bool
  c : BitVec 3
  d : BitVec 3
  a : VSrc
  b : VSrc
  ty : VType
deriving DecidableEq, Repr

/-- V slot, `VCVT` (R188): the type field is a pair code. -/
structure VCvtArgs where
  p : BitVec 5
  k : BitVec 3
  ws : Bool
  d : BitVec 6
  a : VSrc
  c : BitVec 5
deriving DecidableEq, Repr

/-- V slot, `VUNPK` (R235): the half. -/
structure VUnpkArgs where
  p : BitVec 5
  k : BitVec 3
  ws : Bool
  d : BitVec 6
  a : VSrc
  h : Bool
  ty : VType
deriving DecidableEq, Repr

/-- V slot, `VBCAST`: a scalar source. -/
structure VBcastArgs where
  p : BitVec 5
  k : BitVec 3
  ws : Bool
  d : BitVec 6
  a : SSrc
  ty : VType
deriving DecidableEq, Repr

/-- V slot, `VEXTS`: a vector source, a scalar index, a scalar destination. -/
structure VExtArgs where
  p : BitVec 5
  ws : Bool
  d : BitVec 6
  a : VSrc
  b : SSrc
  ty : VType
deriving DecidableEq, Repr

/-- V slot, `VINSS`: a scalar value, a scalar index, a vector destination. -/
structure VInsArgs where
  p : BitVec 5
  ws : Bool
  d : BitVec 6
  a : SSrc
  b : SSrc
  ty : VType
deriving DecidableEq, Repr

/-- V slot, `VOUT`: an output port. -/
structure VOutArgs where
  p : BitVec 5
  k : BitVec 3
  y : BitVec 1
  a : VSrc
  ty : VType
deriving DecidableEq, Repr

/-- V slot, mask instructions (R237). For `KNOT` and `KPOPC` the second source is unused (0). -/
structure KArgs where
  p : BitVec 5
  ws : Bool
  d : BitVec 6
  a : BitVec 3
  b : BitVec 3
deriving DecidableEq, Repr

/-- M slot (R168, R251): predicate, swap bit, shape register. -/
structure MArgs where
  p : BitVec 5
  sw : Bool
  r : BitVec 2
  row : BitVec 11
deriving DecidableEq, Repr

/-- T slot (R169): predicate, swap bit, shape register, destination, source, format field. -/
structure TArgs where
  p : BitVec 5
  sw : Bool
  r : BitVec 2
  d : BitVec 6
  s : BitVec 6
  fmt : BitVec 6
deriving DecidableEq, Repr

/-- X slot (R170, R285): `arg` is [13:8], a register, for the forms that name one. -/
structure XArgs where
  p : BitVec 5
  sw : Bool
  r : BitVec 2
  dim : BitVec 5
  ch : BitVec 6
  f : BitVec 5
  comb : BitVec 4
  arg : BitVec 6
  back : Bool
  bit : BitVec 5
deriving DecidableEq, Repr

/-- One end of an exchange (R289, R295, R302, R304): the rank, which instruction it posted, its channel's
parameters, and its block of `n` elements as it read it once, quantised where it entered Twill: the bytes that cross the
wire and the `STATUS` bits raised there, by index (R298-R301). `bit` of an `XBAR` is its swap bit. `bad`: a check made at
issue failed (R288). `fate`: 0, or the code that its loss gives the other end (8 ended without arriving, 9 fenced, 12 an
uncorrectable error). `seq` numbers the message among those of its pair of dies (R308); `taken`: this end has taken what
the other sent (R293). -/
structure RemoteEnd where
  rank : Nat
  opcode : Nat
  mask : Nat
  back : Bool
  comb : Nat
  bit : Nat
  fate : Nat
  efmt : Nat
  wire : Nat
  chComb : Nat
  kind : Nat
  weclen : BitVec 64
  bad : Bool
  n : Nat
  bytes : List (BitVec 8)
  flags : List (Nat × BitVec 10)
  seq : Nat
  taken : Bool
deriving DecidableEq, Repr

/-- A fan-out row that arrives from another package (R303): the package and the operation that sent it, the launch,
the socket it is for, its channel with the sender's parameters, the experts, the row of `n` elements as it crosses the
wire, the issue cycle and program counter of its bundle (R310), and its number in its pair of dies (R308). -/
structure RemoteRow where
  sender : Nat
  op : Nat
  launch : Nat
  sock : Nat
  ch : Nat
  efmt : Nat
  wire : Nat
  mask : Nat
  n : Nat
  bytes : List (BitVec 8)
  issue : Nat
  pc : Nat
  seq : Nat
deriving DecidableEq, Repr

/-- An identity flit that comes in on a port during bring-up (R409): the package id, the dimension, the id expected. -/
structure Ident where
  port : Nat
  pkg : Nat
  dim : Nat
  expect : Nat
deriving DecidableEq, Repr

/-- A port whose time to drain is over, and how many of the last blocks that left on it nothing has acknowledged (R408). -/
structure Drain where
  port : BitVec 5
  left : Nat
deriving DecidableEq, Repr

/-- Where an uncorrectable error is met (R401). -/
inductive ErrSite where
  | die (sock : Nat)
  | landing (id : Nat)
  | store (id : Nat)
  | release (sock line : Nat)
  | engine (id : Nat)
  | lineClean
  | lineDirty (line : Nat)
  | stack (n : Nat)
  | pageTable (id : Nat)
  | launchTable (id : Nat)
deriving DecidableEq, Repr

/-- The instructions and steps of the X16: one constructor per row of the opcode table. -/
inductive Instr where
  -- S slot (R181)
  | snop (p : BitVec 5)
  | add (x : SArgs)
  | sub (x : SArgs)
  | and (x : SArgs)
  | or (x : SArgs)
  | xor (x : SArgs)
  | andn (x : SArgs)
  | shl (x : SArgs)
  | shr (x : SArgs)
  | sra (x : SArgs)
  | rotr (x : SArgs)
  | mul (x : SArgs)
  | mulh (x : SArgs)
  | mulhz (x : SArgs)
  | div (x : SArgs)
  | divz (x : SArgs)
  | rem (x : SArgs)
  | remz (x : SArgs)
  | min (x : SArgs)
  | max (x : SArgs)
  | minz (x : SArgs)
  | maxz (x : SArgs)
  | cmp (x : SCmp)
  | sel (x : SArgs)
  | movi (x : SImm)
  | movh (x : SImm)
  | popc (x : SOne)
  | clz (x : SOne)
  | ctz (x : SOne)
  | brev (x : SOne)
  | gray (x : SOne)
  | igray (x : SOne)
  | ext (x : SArgs)
  | ins (x : SArgs)
  | fadd (x : SArgs)
  | fsub (x : SArgs)
  | fmul (x : SArgs)
  | fmin (x : SArgs)
  | fmax (x : SArgs)
  | fcmp (x : SCmp)
  | fcvt (x : SCvt)
  | pand (x : SPred)
  | por (x : SPred)
  | pxor (x : SPred)
  | srd (p : BitVec 5) (ws : Bool) (d : BitVec 6) (n : BitVec 12)
  | swr (p : BitVec 5) (s : BitVec 6) (n : BitVec 12)
  | shw (p : BitVec 5) (e : BitVec 2) (r : BitVec 2) (a : SSrc) (f : BitVec 4)
  | tidr (p : BitVec 5) (ws : Bool) (d : BitVec 6) (a : SSrc) (f : BitVec 5)
  | tidw (p : BitVec 5) (f : BitVec 5) (a : SSrc) (b : SSrc)
  | agw (p : BitVec 5) (n : BitVec 3) (a : SSrc) (f : BitVec 4)
  | flgs (x : SSink)
  | flgc (x : SSink)
  | partner (x : SOne)
  | krd (x : SOne)
  | kwrDiestateFence (x : SPriv)
  | kwrDiestateReset (x : SPriv)
  | kwrDiestateAdmit (x : SPriv)
  | kwrTqctl (x : SPriv)
  | kwrArrctr (x : SPriv)
  | kwrBarctl (x : SPriv)
  | tlbinv (x : SPriv)
  | ctxsv (x : SSink)
  | ctxrs (x : SSink)
  | lkmw (x : SSink)
  | rtbw (x : SPriv)
  -- C slot (R183)
  | cnop (p : BitVec 5)
  | br (p : BitVec 5) (o : BitVec 21)
  | jmp (p : BitVec 5) (r : BitVec 6)
  | call (p : BitVec 5) (o : BitVec 21)
  | ret (p : BitVec 5)
  | loop (p : BitVec 5) (r : BitVec 6) (stages : BitVec 3) (e : BitVec 12)
  | bloop (p : BitVec 5) (r : BitVec 6) (e : BitVec 12)
  | wait (p : BitVec 5) (r : BitVec 6) (all : Bool)
  | brf (p : BitVec 5) (f : BitVec 5) (sense : Bool) (o : BitVec 15)
  | brsw (p : BitVec 5) (a : BitVec 15)
  | ifence (p : BitVec 5)
  | trap (p : BitVec 5) (c : BitVec 16)
  | tret (p : BitVec 5)
  | halt (p : BitVec 5) (st : BitVec 16)
  | mwait (p : BitVec 5) (r : BitVec 6)
  | sleept (p : BitVec 5)
  | kcall (p : BitVec 5)
  | brkpt (p : BitVec 5)
  | eret (p : BitVec 5)
  | kstopKill (p : BitVec 5) (st : BitVec 16)
  | kstopFault (p : BitVec 5) (st : BitVec 16)
  | kstopDesched (p : BitVec 5) (st : BitVec 16)
  -- L slot (R184)
  | lnop (p : BitVec 5)
  | ld (x : LMem)
  | st (x : LMem)
  | ldro (x : LMem)
  | ldsp (x : LSp)
  | stsp (x : LSp)
  | vld (x : LVec)
  | vst (x : LVec)
  | vldx (x : LIdx)
  | vstx (x : LIdx)
  | atom (x : LStrong)
  | cas (x : LStrong)
  | red (x : LStrong)
  | heapins (x : LStrong)
  | fenceAcq (x : LFence)
  | fenceRel (x : LFence)
  | fenceAcqrel (x : LFence)
  | fenceSc (x : LFence)
  | fenceRo (p : BitVec 5)
  | mon (p : BitVec 5) (b : BitVec 6)
  | monOff (p : BitVec 5) (b : BitVec 6)
  | copy (p : BitVec 5) (b : BitVec 6)
  | take (x : LEng)
  | enqt (x : LEng)
  | enqtClose (x : LEng)
  | arrive (x : LEng)
  | arriveSet (x : LEng)
  | barinit (x : LEng)
  | bararv (x : LEng)
  | lktxn (x : LLock)
  | lkacq (x : LLock)
  | lkup (x : LLock)
  | lkdn (x : LLock)
  | lkrel (x : LLock)
  | lkrelAll (x : LLock)
  | lkabt (x : LLock)
  | lkqry (x : LLock)
  | enql (x : LEng)
  -- V slot (R186)
  | vnop (p : BitVec 5)
  | vadd (x : VArgs)
  | vsub (x : VArgs)
  | vmul (x : VArgs)
  | vfma (x : VArgs)
  | vfms (x : VArgs)
  | vmin (x : VArgs)
  | vmax (x : VArgs)
  | vabs (x : VOne)
  | vneg (x : VOne)
  | vand (x : VArgs)
  | vor (x : VArgs)
  | vxor (x : VArgs)
  | vshl (x : VArgs)
  | vshr (x : VArgs)
  | vsra (x : VArgs)
  | vcmp (x : VCmpArgs)
  | vsel (x : VArgs)
  | vmov (x : VOne)
  | vbcast (x : VBcastArgs)
  | viota (x : VArgs)
  | vexp2 (x : VOne)
  | vlog2 (x : VOne)
  | vrcp (x : VOne)
  | vrsq (x : VOne)
  | vrsum (x : VOne)
  | vrmax (x : VOne)
  | vrmin (x : VOne)
  | vargmax (x : VOne)
  | vscan (x : VOne)
  | vperm (x : VArgs)
  | vrotl (x : VArgs)
  | vcvt (x : VCvtArgs)
  | vpack (x : VArgs)
  | vunpk (x : VUnpkArgs)
  | vout (x : VOutArgs)
  | kand (x : KArgs)
  | kor (x : KArgs)
  | knot (x : KArgs)
  | kpopc (x : KArgs)
  | vexts (x : VExtArgs)
  | vinss (x : VInsArgs)
  | vmulh (x : VArgs)
  | vadds (x : VArgs)
  | vsubs (x : VArgs)
  -- M slot (R189)
  | mnop (p : BitVec 5)
  | mpush (x : MArgs) (src : MSrc)
  | mpushw (x : MArgs)
  | mswapw (x : MArgs)
  | mmul (x : MArgs) (src : MSrc)
  | macc (x : MArgs) (src : MSrc)
  | mdrain (x : MArgs) (dst : MDst)
  | mclr (x : MArgs)
  -- T slot (R189)
  | tnop (p : BitVec 5)
  | texp (x : TArgs)
  | tqnt (x : TArgs)
  | tcvt (x : TArgs)
  | ttrni (x : TArgs)
  | ttrno (x : TArgs)
  -- X slot (R189)
  | xnop (p : BitVec 5)
  | xch (x : XArgs)
  | xcb (x : XArgs)
  | xsib (x : XArgs)
  | xring (x : XArgs)
  | xsend (x : XArgs)
  | xrecv (x : XArgs)
  | xfan (x : XArgs)
  | xbar (x : XArgs)
  | xbarSwap (x : XArgs)
  | chw (x : XArgs)
  -- Steps of the stream of the acting die
  | landingDataArrival (id : Nat)
  | tepcWrite (v : BitVec 64)
  | portFetch (j : BitVec 2)
  | portVectorArrival (j : BitVec 2)
  | outputPortWrite (y : BitVec 1)
  -- Steps of the engines and of Brocade
  | copyStart (id : Nat) (n : Nat)
  | copyComplete (id : Nat)
  | engineCompletion (id : Nat)
  | takeDeliver (pair : BitVec 6)
  | wgraceExpiry (txn : BitVec 64)
  | exchangePairing (id : Nat) (far : List RemoteEnd)
  | exchangeComplete (id : Nat)
  | xfanArrival (id : Nat) (answer : Option (Nat × Nat)) (row : Option RemoteRow)
  | swapDecision (id : Nat) (farYes : Bool)
  | backlogStore (id : Nat)
  | linkDetour (id : Nat) (via via2 : Bool)
  | storeAcknowledge (id : Nat)
  | directoryRequest (id : Nat)
  | strongAccessPerform (id : Nat)
  | pageWalk (id : Nat)
  | frctlWrite (v : BitVec 64)
  | fransRetry (index : BitVec 16)
  | fransKill (index : BitVec 16)
  | fransAbort (index : BitVec 16)
  | migrationDone (bad : List Nat)
  | uncorrectableError (site : ErrSite)
  | launchEnqueue (packet : BitVec 1024) (origin : Nat) (time : BitVec 64)
  | agePromotion (id : Nat)
  | launchReadyReport (id : Nat) (far : Bool)
  | startTimeBroadcast (id : Nat) (t : BitVec 64)
  | gangStart (id : Nat) (absent : List Nat)
  | completionAction (id : Nat)
  -- Runtime calls (R350)
  -- Management commands and links (R412, R408)
  | portDrained (port : BitVec 5)
  | drainTimeout (d : Drain)
  | portGoDark (port : BitVec 5)
  | darkusExpiry (port : BitVec 5)
  | lanesTrained (port : BitVec 5)
  | trainingTimeout (port : BitVec 5)
  | identityFlit (port : BitVec 5) (pkg : BitVec 20) (dim : BitVec 5) (expect : BitVec 20)
  | verifyTimeout (port : BitVec 5)
  | linkErrorBudgetExceeded (port : BitVec 5)
  | timeSyncExchange (sender : Nat) (t1 t4 : BitVec 64) (bound est : BitVec 32)
  -- The host, firmware and power
  | bar2Access (write : Bool) (vf : Nat) (addr : BitVec 64) (data : List (BitVec 8)) (len : Nat)
  | functionLevelReset (fn : Nat)
  | powerOn (selfTest : Bool) (badStacks : BitVec 12) (badSockets : BitVec 16) (idents : List Ident) (sync : Option (BitVec 64 × BitVec 32))
  | mext (v : BitVec 64)
  | clockStepDown (cause : BitVec 3)
  | stackReadmission (stack : BitVec 4)
  | admissionComplete (sock : BitVec 4) (passed : Bool)
  -- Steps that carry nothing
  | resultLanding
  | freezeWatchdogExpiry
  | yieldBoundExpiry
  | waitBundle
  | yieldPoint
  | bundleBreakpoint
  | illfetch
  | literalFetch
  | refreshWindow
  | statRecordWrite
  | pushRowLand
  | planeSwap
  | accRowClear
  | beatUpdate
  | transposerBlockOutput
  | woundDelivery
  | releaseComplete
  | mwaitTimeout
  | faultRecordWrite
  | migrationStart
  | dieResetDone
  | launchSelect
  | saveComplete
  | kcEnqueue
  | kcYield
  | kcTqopen
  | kcBarreset
  | kcRegion
  | retopo
  | relight
  | partnew
  | partend
  | timeHold
  | flitReplay
  | attcmdGo
  | attestationReportDone
  | clockStepUp
  | thermalFence
  | correctedError
  | unassignedOpcode
  | emptyBundle
  | unassignedManagementOpcode
deriving DecidableEq, Repr

end Sys2Proof
end

