-- ==== Sys2Proof/Machine/Fp.lean ====
section
/-! DEFINITION. Number formats and arithmetic (chapter 04): exact values, rounding, conversions, the
transcendental algorithms. A value is exact: NaN, an infinity, or sign, magnitude and power of two. -/
namespace Sys2Proof.Machine

/-- An exact value: `fin neg m e` is (-1)^neg * m * 2^e; `fin true 0 _` is negative zero. -/
inductive FVal where
  | nan
  | inf (neg : Bool)
  | fin (neg : Bool) (m : Nat) (e : Int)
deriving DecidableEq, Repr

/-- The binary floating formats of R77. -/
inductive FFmt where
  | f32 | bf16 | f16 | e5m2 | e4m3
deriving DecidableEq, Repr

/-- Width, fraction bits and bias (R77). -/
def FFmt.width : FFmt → Nat
  | .f32 => 32 | .bf16 => 16 | .f16 => 16 | .e5m2 => 8 | .e4m3 => 8
def FFmt.frac : FFmt → Nat
  | .f32 => 23 | .bf16 => 7 | .f16 => 10 | .e5m2 => 2 | .e4m3 => 3
def FFmt.bias : FFmt → Nat
  | .f32 => 127 | .bf16 => 127 | .f16 => 15 | .e5m2 => 15 | .e4m3 => 7

/-- The canonical NaN, the largest finite pattern and the pattern of +infinity (R77; E4M3 has none). -/
def FFmt.nanPat : FFmt → Nat
  | .f32 => 0x7FC00000 | .bf16 => 0x7FC0 | .f16 => 0x7E00 | .e5m2 => 0x7E | .e4m3 => 0x7F
def FFmt.maxPat : FFmt → Nat
  | .f32 => 0x7F7FFFFF | .bf16 => 0x7F7F | .f16 => 0x7BFF | .e5m2 => 0x7B | .e4m3 => 0x7E
def FFmt.infPat : FFmt → Nat
  | .f32 => 0x7F800000 | .bf16 => 0x7F80 | .f16 => 0x7C00 | .e5m2 => 0x7C | .e4m3 => 0x7F

/-- The sign bit of a format. -/
def FFmt.signBit (f : FFmt) : Nat := 2 ^ (f.width - 1)

/-- The value of a pattern (R77). -/
def FFmt.dec (f : FFmt) (x : Nat) : FVal :=
  let s := x / f.signBit % 2 == 1
  let body := x % f.signBit
  let e := body / 2 ^ f.frac
  let m := body % 2 ^ f.frac
  if f = .e4m3 then
    if body = 0x7F then .nan
    else if e = 0 then .fin s m (1 - f.bias - f.frac : Int)
    else .fin s (2 ^ f.frac + m) (e - f.bias - f.frac : Int)
  else if f.infPat ≤ body then (if m = 0 then .inf s else .nan)
  else if e = 0 then .fin s m (1 - f.bias - f.frac : Int)
  else .fin s (2 ^ f.frac + m) (e - f.bias - f.frac : Int)

/-- The `STATUS` bits of R69 that arithmetic sets. -/
def fINV : BitVec 10 := 8#10
def fOVF : BitVec 10 := 16#10
def fUNF : BitVec 10 := 32#10
def fINX : BitVec 10 := 64#10
def fDZ : BitVec 10 := 128#10
def fSAT : BitVec 10 := 256#10

/-- A rounding rule (R86): the mode, coded as `FPMODE.RM`, and `NNAN`. -/
structure Rule where
  rm : Nat
  nnan : Bool
deriving DecidableEq, Repr

/-- RNE, saturating. -/
def Rule.fixed : Rule := ⟨0, false⟩

/-- Sign as a factor. -/
def signed (neg : Bool) (m : Nat) : Int := if neg then -(m : Int) else m

/-- Round m * 2^e to a multiple of 2^q: the multiple's count, and whether it is inexact (R85). -/
def quantize (rm : Nat) (neg : Bool) (m : Nat) (e q : Int) : Nat × Bool :=
  if q ≤ e then (m * 2 ^ (e - q).toNat, false)
  else
    let d := (q - e).toNat
    let n := m / 2 ^ d
    let r := m % 2 ^ d
    let half := 2 ^ (d - 1)
    let up := match rm with
      | 0 => half < r || (r == half && n % 2 == 1)
      | 1 => false
      | 2 => neg && r != 0
      | _ => !neg && r != 0
    (if up then n + 1 else n, r != 0)

/-- floor(log2) of a nonzero m * 2^e. -/
def flog2 (m : Nat) (e : Int) : Int := (Nat.log2 m : Int) + e

/-- The pattern with a sign. -/
def FFmt.withSign (f : FFmt) (neg : Bool) (body : Nat) : Nat := (if neg then f.signBit else 0) + body

/-- What an overflowed result delivers, and its flags (R87). [DEDUCED, log 27] -/
def FFmt.overflow (f : FFmt) (r : Rule) (neg : Bool) : Nat × BitVec 10 :=
  let toInf := match r.rm with
    | 0 => true
    | 1 => false
    | 2 => neg
    | _ => !neg
  if f = .f32 then (f.withSign neg (if toInf then f.infPat else f.maxPat), fOVF ||| fINX)
  else if !r.nnan then (f.withSign neg f.maxPat, fOVF ||| fINX ||| fSAT)
  else if f = .e4m3 then (if toInf then f.nanPat else f.withSign neg f.maxPat, fOVF ||| fINX)
  else (f.withSign neg (if toInf then f.infPat else f.maxPat), fOVF ||| fINX)

/-- Round an exact value of a wider format into a format: the pattern and the flags (R85-R89); an infinity
follows R87's rule for an infinite operand. -/
def FFmt.round (f : FFmt) (r : Rule) (v : FVal) : Nat × BitVec 10 :=
  match v with
  | .nan => (f.nanPat, 0#10)
  | .inf neg =>
    if f = .f32 then (f.withSign neg f.infPat, 0#10)
    else if !r.nnan then (f.withSign neg f.maxPat, fOVF ||| fINX ||| fSAT)
    else if f = .e4m3 then (f.nanPat, fOVF ||| fINX)
    else (f.withSign neg f.infPat, 0#10)
  | .fin neg m e =>
    if m = 0 then (f.withSign neg 0, 0#10)
    else
      let p : Int := f.frac
      let emin : Int := 1 - f.bias
      let top := flog2 m e
      let q := max top emin - p
      let (n, inx) := quantize r.rm neg m e q
      let body := if n < 2 ^ f.frac then n
        else (q + p + f.bias).toNat * 2 ^ f.frac + (n - 2 ^ f.frac)
      if f.maxPat < body then f.overflow r neg
      else
        let (n1, _) := quantize r.rm neg m e (top - p)
        let tiny := top < emin && !(top == emin - 1 && n1 == 2 ^ (f.frac + 1))
        (f.withSign neg body, (if inx then fINX else 0#10) ||| (if inx && tiny then fUNF else 0#10))

/-- The result of an operation in a format: an infinite one is delivered as it is where the format has
infinities, since nothing is narrowed (R77, R87, R224). [DEDUCED, log 40] -/
def FFmt.settle (f : FFmt) (r : Rule) (v : FVal) : Nat × BitVec 10 :=
  match v with
  | .inf neg => if f = .e4m3 then f.round r v else (f.withSign neg f.infPat, 0#10)
  | _ => f.round r v

/-- A format that covers the range of another: conversion to it narrows nothing (R87, R90). -/
def FFmt.covers (d s : FFmt) : Bool :=
  d == s || d == .f32 || (d == .bf16 && s != .f32) || (d == .f16 && (s == .e5m2 || s == .e4m3))

/-- rne(v, F32) as a value, and its flags. -/
def r32 (v : FVal) : FVal × BitVec 10 :=
  let (x, f) := FFmt.f32.round .fixed v
  (FFmt.f32.dec x, f)

/-- The intermediate steps of R100-R103 keep no flags. -/
def rn (v : FVal) : FVal := (r32 v).1

def FVal.neg : FVal → FVal
  | .nan => .nan
  | .inf s => .inf (!s)
  | .fin s m e => .fin (!s) m e

def FVal.isNan : FVal → Bool
  | .nan => true
  | _ => false

def FVal.isZero : FVal → Bool
  | .fin _ 0 _ => true
  | _ => false

def FVal.isNeg : FVal → Bool
  | .nan => false
  | .inf s => s
  | .fin s _ _ => s

/-- The exact sum; the sign of an exact zero under a mode (R89). -/
def FVal.add (rm : Nat) (a b : FVal) : FVal × BitVec 10 :=
  match a, b with
  | .nan, _ | _, .nan => (.nan, 0#10)
  | .inf s, .inf t => if s = t then (.inf s, 0#10) else (.nan, fINV)
  | .inf s, _ => (.inf s, 0#10)
  | _, .inf t => (.inf t, 0#10)
  | .fin s m e, .fin t n g =>
    let low := min e g
    let x := signed s (m * 2 ^ (e - low).toNat) + signed t (n * 2 ^ (g - low).toNat)
    if x = 0 then
      (.fin (if m = 0 ∧ n = 0 ∧ s = t then s else rm == 2) 0 0, 0#10)
    else (.fin (x < 0) x.natAbs low, 0#10)

/-- The exact product (R89). -/
def FVal.mul (a b : FVal) : FVal × BitVec 10 :=
  match a, b with
  | .nan, _ | _, .nan => (.nan, 0#10)
  | .inf s, .inf t => (.inf (s != t), 0#10)
  | .inf s, .fin t n _ => if n = 0 then (.nan, fINV) else (.inf (s != t), 0#10)
  | .fin s m _, .inf t => if m = 0 then (.nan, fINV) else (.inf (s != t), 0#10)
  | .fin s m e, .fin t n g => (.fin (s != t) (m * n) (e + g), 0#10)

/-- a * b + c, with one rounding left to do (R224). -/
def FVal.fma (rm : Nat) (a b c : FVal) : FVal × BitVec 10 :=
  let (p, f) := a.mul b
  if c.isNan then (.nan, 0#10)
  else let (x, g) := p.add rm c; (x, f ||| g)

/-- Scale by a power of two. -/
def FVal.scale (v : FVal) (n : Int) : FVal :=
  match v with
  | .fin s m e => .fin s m (e + n)
  | _ => v

/-- Order of non-NaN values: -1, 0, 1; -0 equals +0. -/
def FVal.cmp (a b : FVal) : Int :=
  match a, b with
  | .inf s, .inf t => if s = t then 0 else if s then -1 else 1
  | .inf s, _ => if s then -1 else 1
  | _, .inf t => if t then 1 else -1
  | .fin s m e, .fin t n g =>
    let low := min e g
    let x := signed s (m * 2 ^ (e - low).toNat) - signed t (n * 2 ^ (g - low).toNat)
    if x < 0 then -1 else if x = 0 then 0 else 1
  | _, _ => 0

/-- a < b with -0 < +0 (R88). -/
def FVal.below (a b : FVal) : Bool :=
  let c := a.cmp b
  c == -1 || (c == 0 && a.isZero && a.isNeg && !b.isNeg)

/-- Minimum and maximum of patterns (R88). -/
def FFmt.minPat (f : FFmt) (x y : Nat) : Nat :=
  let a := f.dec x
  let b := f.dec y
  if a.isNan ∧ b.isNan then f.nanPat else if a.isNan then y else if b.isNan then x
  else if b.below a then y else x

def FFmt.maxPatOf (f : FFmt) (x y : Nat) : Nat :=
  let a := f.dec x
  let b := f.dec y
  if a.isNan ∧ b.isNan then f.nanPat else if a.isNan then y else if b.isNan then x
  else if a.below b then y else x

/-- The six comparisons of R182 and R187, coded as R187; a NaN makes all false but `NE`. -/
def FVal.test (c : Nat) (a b : FVal) : Bool :=
  if a.isNan || b.isNan then c == 1
  else
    let x := a.cmp b
    match c with
    | 0 => x == 0
    | 1 => x != 0
    | 2 => x == -1
    | 3 => x != -1
    | 4 => x != 1
    | _ => x == 1

/-- An integer as a value. -/
def FVal.ofInt (i : Int) : FVal := .fin (i < 0) i.natAbs 0

/-- Clamp an integer to a range, setting `SAT` when it clamps (R92). -/
def clampInt (lo hi i : Int) : Int × BitVec 10 :=
  if i < lo then (lo, fSAT) else if hi < i then (hi, fSAT) else (i, 0#10)

/-- The range of an integer format of a width (R80). -/
def intLo (sgn : Bool) (w : Nat) : Int := if sgn then -(2 ^ (w - 1) : Int) else 0
def intHi (sgn : Bool) (w : Nat) : Int := if sgn then 2 ^ (w - 1) - 1 else 2 ^ w - 1

/-- A floating value to an integer format (R91): a clamped value sets `FPINV` and `SAT` and no `FPOVF`, and
`FPINX` where a fraction was rounded away. [DEDUCED, log 40] -/
def FVal.toInt (rm : Nat) (sgn : Bool) (w : Nat) (v : FVal) : Int × BitVec 10 :=
  match v with
  | .nan => (0, fINV ||| fSAT)
  | .inf neg => (if neg then intLo sgn w else intHi sgn w, fINV ||| fSAT)
  | .fin neg m e =>
    let (n, inx) := quantize rm neg m e 0
    let (i, f) := clampInt (intLo sgn w) (intHi sgn w) (signed neg n)
    (i, (if f = 0#10 then 0#10 else fINV ||| fSAT) ||| (if inx then fINX else 0#10))

/-- Conversion to E8M0 (R93). -/
def FVal.toE8M0 (v : FVal) : Nat × BitVec 10 :=
  match v with
  | .nan => (0xFF, 0#10)
  | .inf _ => (0xFE, fSAT ||| fOVF ||| fINX)
  | .fin _ m e =>
    if m = 0 then (0, fUNF ||| fINX)
    else
      let x := flog2 m e
      if x < -127 then (0, fSAT ||| fUNF ||| fINX)
      else (min 254 (x + 127).toNat, if m = 2 ^ Nat.log2 m then 0#10 else fINX)

/-- The value of an E8M0 byte (R78). -/
def e8m0 (b : Nat) : FVal := if b = 0xFF then .nan else .fin false 1 ((b : Int) - 127)

/-- The magnitude of an E2M1 code, in halves (R79). -/
def e2m1Halves (c : Nat) : Nat :=
  match c % 8 with
  | 0 => 0 | 1 => 1 | 2 => 2 | 3 => 3 | 4 => 4 | 5 => 6 | 6 => 8 | _ => 12

/-- The value of a code in a block whose spare is `sp`, before the scale (R82). -/
def e2m1 (sp c : Nat) : FVal :=
  if c = 8 then FFmt.e4m3.dec sp else .fin (8 ≤ c) (e2m1Halves c) (-1)

/-- `EXPT` of R99: 2^(j/64). -/
def tblExp : List Nat :=
  [0x3F800000, 0x3F8164D2, 0x3F82CD87, 0x3F843A29, 0x3F85AAC3, 0x3F871F62, 0x3F88980F, 0x3F8A14D5,
   0x3F8B95C2, 0x3F8D1ADF, 0x3F8EA43A, 0x3F9031DC, 0x3F91C3D3, 0x3F935A2B, 0x3F94F4F0, 0x3F96942D,
   0x3F9837F0, 0x3F99E046, 0x3F9B8D3A, 0x3F9D3EDA, 0x3F9EF532, 0x3FA0B051, 0x3FA27043, 0x3FA43516,
   0x3FA5FED7, 0x3FA7CD94, 0x3FA9A15B, 0x3FAB7A3A, 0x3FAD583F, 0x3FAF3B79, 0x3FB123F6, 0x3FB311C4,
   0x3FB504F3, 0x3FB6FD92, 0x3FB8FBAF, 0x3FBAFF5B, 0x3FBD08A4, 0x3FBF179A, 0x3FC12C4D, 0x3FC346CD,
   0x3FC5672A, 0x3FC78D75, 0x3FC9B9BE, 0x3FCBEC15, 0x3FCE248C, 0x3FD06334, 0x3FD2A81E, 0x3FD4F35B,
   0x3FD744FD, 0x3FD99D16, 0x3FDBFBB8, 0x3FDE60F5, 0x3FE0CCDF, 0x3FE33F89, 0x3FE5B907, 0x3FE8396A,
   0x3FEAC0C7, 0x3FED4F30, 0x3FEFE4BA, 0x3FF28177, 0x3FF5257D, 0x3FF7D0DF, 0x3FFA83B3, 0x3FFD3E0C]

/-- `LGR` of R99: 1 / (1 + (2j + 1)/128). -/
def tblLgr : List Nat :=
  [0x3F7E03F8, 0x3F7A232D, 0x3F76603E, 0x3F72B9D6, 0x3F6F2EB7, 0x3F6BBDB3, 0x3F6865AC, 0x3F652598,
   0x3F61FC78, 0x3F5EE95C, 0x3F5BEB62, 0x3F5901B2, 0x3F562B81, 0x3F53680D, 0x3F50B6A0, 0x3F4E168A,
   0x3F4B8728, 0x3F4907DA, 0x3F46980C, 0x3F443730, 0x3F41E4BC, 0x3F3FA030, 0x3F3D6910, 0x3F3B3EE7,
   0x3F392144, 0x3F370FBB, 0x3F3509E7, 0x3F330F63, 0x3F311FD4, 0x3F2F3ADE, 0x3F2D602B, 0x3F2B8F6A,
   0x3F29C84A, 0x3F280A81, 0x3F2655C4, 0x3F24A9CF, 0x3F23065E, 0x3F216B31, 0x3F1FD80A, 0x3F1E4CAD,
   0x3F1CC8E1, 0x3F1B4C70, 0x3F19D723, 0x3F1868C8, 0x3F17012E, 0x3F15A025, 0x3F144581, 0x3F12F114,
   0x3F11A2B4, 0x3F105A38, 0x3F0F177A, 0x3F0DDA52, 0x3F0CA29C, 0x3F0B7034, 0x3F0A42F8, 0x3F091AC7,
   0x3F07F781, 0x3F06D905, 0x3F05BF37, 0x3F04A9FA, 0x3F039930, 0x3F028CC0, 0x3F01848E, 0x3F008081]

/-- `LGT` of R99: -log2 of `LGR`. -/
def tblLgt : List Nat :=
  [0x3C37F28B, 0x3D08E68D, 0x3D626FCC, 0x3D9D5182, 0x3DC8C50D, 0x3DF3975C, 0x3E0EE690, 0x3E23B551,
   0x3E383A17, 0x3E4C76EA, 0x3E606DB6, 0x3E74205F, 0x3E83C856, 0x3E8D602E, 0x3E96D887, 0x3EA03234,
   0x3EA96DEF, 0x3EB28C80, 0x3EBB8E97, 0x3EC474E2, 0x3ECD4011, 0x3ED5F0C3, 0x3EDE8798, 0x3EE70525,
   0x3EEF69FF, 0x3EF7B6B5, 0x3EFFEBCB, 0x3F0404E8, 0x3F08089D, 0x3F0C0146, 0x3F0FEF1F, 0x3F13D260,
   0x3F17AB44, 0x3F1B79FF, 0x3F1F3ECA, 0x3F22F9D5, 0x3F26AB53, 0x3F2A5375, 0x3F2DF268, 0x3F31885D,
   0x3F35157E, 0x3F3899F4, 0x3F3C15EE, 0x3F3F8991, 0x3F42F506, 0x3F465873, 0x3F49B3FA, 0x3F4D07C5,
   0x3F5053F6, 0x3F5398AF, 0x3F56D60F, 0x3F5A0C3A, 0x3F5D3B4E, 0x3F60636B, 0x3F6384AF, 0x3F669F36,
   0x3F69B31C, 0x3F6CC084, 0x3F6FC782, 0x3F72C831, 0x3F75C2B1, 0x3F78B713, 0x3F7BA577, 0x3F7E8DF1]

/-- `RCPT` of R99: 1 / (1 + (2j + 1)/256). -/
def tblRcp : List Nat :=
  [0x3F7F00FF, 0x3F7D08E5, 0x3F7B1885, 0x3F792FB2, 0x3F774E40, 0x3F757404, 0x3F73A0D5, 0x3F71D48C,
   0x3F700F01, 0x3F6E500F, 0x3F6C9791, 0x3F6AE564, 0x3F693965, 0x3F679373, 0x3F65F36D, 0x3F645933,
   0x3F62C4A7, 0x3F6135AA, 0x3F5FAC1F, 0x3F5E27EB, 0x3F5CA8F1, 0x3F5B2F17, 0x3F59BA42, 0x3F584A5A,
   0x3F56DF44, 0x3F5578E9, 0x3F541733, 0x3F52BA08, 0x3F516154, 0x3F500D01, 0x3F4EBCF9, 0x3F4D7127,
   0x3F4C2978, 0x3F4AE5D8, 0x3F49A634, 0x3F486A79, 0x3F473294, 0x3F45FE74, 0x3F44CE08, 0x3F43A13E,
   0x3F427806, 0x3F415250, 0x3F40300C, 0x3F3F112B, 0x3F3DF59D, 0x3F3CDD53, 0x3F3BC841, 0x3F3AB656,
   0x3F39A786, 0x3F389BC3, 0x3F379301, 0x3F368D31, 0x3F358A48, 0x3F348A3A, 0x3F338CFA, 0x3F32927C,
   0x3F319AB6, 0x3F30A59B, 0x3F2FB322, 0x3F2EC33E, 0x3F2DD5E6, 0x3F2CEB10, 0x3F2C02B0, 0x3F2B1CBE] ++
  [0x3F2A392F, 0x3F2957FB, 0x3F287917, 0x3F279C7B, 0x3F26C21E, 0x3F25E9F7, 0x3F2513FD, 0x3F244029,
   0x3F236E72, 0x3F229ECF, 0x3F21D13A, 0x3F2105A9, 0x3F203C17, 0x3F1F747A, 0x3F1EAECD, 0x3F1DEB07,
   0x3F1D2922, 0x3F1C6917, 0x3F1BAADF, 0x3F1AEE73, 0x3F1A33CD, 0x3F197AE7, 0x3F18C3BB, 0x3F180E41,
   0x3F175A75, 0x3F16A850, 0x3F15F7CC, 0x3F1548E5, 0x3F149B93, 0x3F13EFD2, 0x3F13459C, 0x3F129CEC,
   0x3F11F5BD, 0x3F115009, 0x3F10ABCC, 0x3F100901, 0x3F0F67A2, 0x3F0EC7AB, 0x3F0E2918, 0x3F0D8BE3,
   0x3F0CF009, 0x3F0C5584, 0x3F0BBC51, 0x3F0B246B, 0x3F0A8DCD, 0x3F09F874, 0x3F09645C, 0x3F08D181,
   0x3F083FDE, 0x3F07AF70, 0x3F072033, 0x3F069223, 0x3F06053C, 0x3F05797C, 0x3F04EEDD, 0x3F04655E,
   0x3F03DCF9, 0x3F0355AD, 0x3F02CF75, 0x3F024A4E, 0x3F01C636, 0x3F014328, 0x3F00C122, 0x3F004020]

/-- `RSQT` of R99: 1 / sqrt(1 + (2j + 1)/128). -/
def tblRsq : List Nat :=
  [0x3F7F017E, 0x3F7D0D3E, 0x3F7B2452, 0x3F79464E, 0x3F7772CB, 0x3F75A969, 0x3F73E9CB, 0x3F723399,
   0x3F708681, 0x3F6EE232, 0x3F6D4660, 0x3F6BB2C5, 0x3F6A271A, 0x3F68A31D, 0x3F672691, 0x3F65B139,
   0x3F6442DB, 0x3F62DB41, 0x3F617A36, 0x3F601F87, 0x3F5ECB04, 0x3F5D7C7F, 0x3F5C33CC, 0x3F5AF0BF,
   0x3F59B330, 0x3F587AF7, 0x3F5747EE, 0x3F5619F2, 0x3F54F0DF, 0x3F53CC93, 0x3F52ACEE, 0x3F5191D1,
   0x3F507B1D, 0x3F4F68B6, 0x3F4E5A7F, 0x3F4D505E, 0x3F4C4A38, 0x3F4B47F4, 0x3F4A497A, 0x3F494EB3,
   0x3F485787, 0x3F4763E2, 0x3F4673AC, 0x3F4586D3, 0x3F449D42, 0x3F43B6E6, 0x3F42D3AD, 0x3F41F383,
   0x3F411659, 0x3F403C1C, 0x3F3F64BD, 0x3F3E902C, 0x3F3DBE58, 0x3F3CEF34, 0x3F3C22B1, 0x3F3B58C0,
   0x3F3A9154, 0x3F39CC60, 0x3F3909D6, 0x3F3849AA, 0x3F378BD0, 0x3F36D03D, 0x3F3616E4, 0x3F355FBA] ++
  [0x3F34AAB4, 0x3F33F7C9, 0x3F3346ED, 0x3F329816, 0x3F31EB3B, 0x3F314052, 0x3F309752, 0x3F2FF032,
   0x3F2F4AE9, 0x3F2EA76E, 0x3F2E05BA, 0x3F2D65C3, 0x3F2CC782, 0x3F2C2AF0, 0x3F2B9004, 0x3F2AF6B7,
   0x3F2A5F03, 0x3F29C8E0, 0x3F293446, 0x3F28A131, 0x3F280F98, 0x3F277F76, 0x3F26F0C4, 0x3F26637D,
   0x3F25D79A, 0x3F254D15, 0x3F24C3EA, 0x3F243C11, 0x3F23B587, 0x3F233045, 0x3F22AC46, 0x3F222985,
   0x3F21A7FE, 0x3F2127AC, 0x3F20A889, 0x3F202A91, 0x3F1FADC0, 0x3F1F3210, 0x3F1EB77F, 0x3F1E3E06,
   0x3F1DC5A3, 0x3F1D4E52, 0x3F1CD80D, 0x3F1C62D1, 0x3F1BEE9B, 0x3F1B7B67, 0x3F1B0930, 0x3F1A97F3,
   0x3F1A27AE, 0x3F19B85B, 0x3F1949F8, 0x3F18DC82, 0x3F186FF5, 0x3F18044E, 0x3F17998A, 0x3F172FA5,
   0x3F16C69E, 0x3F165E70, 0x3F15F718, 0x3F159095, 0x3F152AE3, 0x3F14C5FF, 0x3F1461E7, 0x3F13FE97] ++
  [0x3F139C0E, 0x3F133A49, 0x3F12D945, 0x3F127900, 0x3F121978, 0x3F11BAA9, 0x3F115C92, 0x3F10FF30,
   0x3F10A281, 0x3F104684, 0x3F0FEB35, 0x3F0F9092, 0x3F0F369A, 0x3F0EDD4A, 0x3F0E84A0, 0x3F0E2C9B,
   0x3F0DD538, 0x3F0D7E75, 0x3F0D2851, 0x3F0CD2C9, 0x3F0C7DDC, 0x3F0C2988, 0x3F0BD5CB, 0x3F0B82A4,
   0x3F0B3010, 0x3F0ADE0E, 0x3F0A8C9D, 0x3F0A3BBA, 0x3F09EB64, 0x3F099B9A, 0x3F094C59, 0x3F08FDA1,
   0x3F08AF6F, 0x3F0861C3, 0x3F08149B, 0x3F07C7F5, 0x3F077BD0, 0x3F07302A, 0x3F06E503, 0x3F069A58,
   0x3F065029, 0x3F060674, 0x3F05BD38, 0x3F057474, 0x3F052C25, 0x3F04E44C, 0x3F049CE7, 0x3F0455F4,
   0x3F040F72, 0x3F03C961, 0x3F0383BF, 0x3F033E8B, 0x3F02F9C3, 0x3F02B568, 0x3F027176, 0x3F022DEF,
   0x3F01EAD0, 0x3F01A818, 0x3F0165C6, 0x3F0123DA, 0x3F00E253, 0x3F00A12E, 0x3F00606D, 0x3F00200C]

/-- An F32 constant or table entry. -/
def f32v (x : Nat) : FVal := FFmt.f32.dec x

def tab (t : List Nat) (j : Nat) : FVal := f32v (t.getD j 0)

/-- Exact sums and products inside the algorithms, whose operands are finite. -/
def FVal.plus (a b : FVal) : FVal := (a.add 0 b).1
def FVal.times (a b : FVal) : FVal := (a.mul b).1

/-- floor of a finite value. -/
def FVal.floor : FVal → Int
  | .fin s m e => signed s (quantize 2 s m e 0).1
  | _ => 0

/-- R100. -/
def fexp2 (x : FVal) : Nat × BitVec 10 :=
  match x with
  | .nan => (FFmt.f32.nanPat, 0#10)
  | .inf neg => if neg then (0, 0#10) else (FFmt.f32.infPat, 0#10)
  | .fin _ _ _ =>
    if x.cmp (.ofInt (-150)) = -1 then (0, fUNF ||| fINX)
    else if x.cmp (.ofInt 128) ≠ -1 then (FFmt.f32.infPat, fOVF ||| fINX)
    else
      let n := x.floor
      let f := x.plus (.ofInt (-n))
      if f.isZero then FFmt.f32.round .fixed (.fin false 1 n)
      else
        let j := (f.scale 6).floor.toNat
        let t := f.plus ((FVal.ofInt (-(j : Int))).scale (-6))
        let p1 := rn ((f32v 0x3D635847).times t)
        let p2 := rn (p1.plus (f32v 0x3E75FDF0))
        let p3 := rn (p2.times t)
        let p4 := rn (p3.plus (f32v 0x3F317218))
        let p5 := rn (p4.times t)
        let e := tab tblExp j
        let y := rn (e.plus (rn (e.times p5)))
        let (r, g) := FFmt.f32.round .fixed (y.scale n)
        (r, g ||| fINX)

/-- A finite nonzero value as m * 2^e with 1 <= m < 2. -/
def mant (m : Nat) : FVal := .fin false m (-(Nat.log2 m : Int))

/-- R101. -/
def flog (x : FVal) : Nat × BitVec 10 :=
  match x with
  | .nan => (FFmt.f32.nanPat, 0#10)
  | .inf neg => if neg then (FFmt.f32.nanPat, fINV) else (FFmt.f32.infPat, 0#10)
  | .fin neg m0 e0 =>
    if m0 = 0 then (FFmt.f32.withSign true FFmt.f32.infPat, fDZ)
    else if neg then (FFmt.f32.nanPat, fINV)
    else
      let e := flog2 m0 e0
      let m := mant m0
      let u := m.plus (.ofInt (-1))
      if u.isZero then FFmt.f32.round .fixed (.ofInt e)
      else
        let j := (u.scale 6).floor.toNat
        let d := rn ((m.times (tab tblLgr j)).plus (.ofInt (-1)))
        let p1 := rn ((f32v 0xBEB8AA3B).times d)
        let p2 := rn (p1.plus (f32v 0x3EF6384F))
        let p3 := rn (p2.times d)
        let p4 := rn (p3.plus (f32v 0xBF38AA3B))
        let p5 := rn (p4.times d)
        let p6 := rn (p5.plus (f32v 0x3FB8AA3B))
        let p7 := rn (p6.times d)
        let (r, g) := FFmt.f32.round .fixed ((rn ((FVal.ofInt e).plus (tab tblLgt j))).plus p7)
        (r, g ||| fINX)

/-- A value with a sign put on it. -/
def FVal.signBy (neg : Bool) (v : FVal) : FVal := if neg then v.neg else v

/-- R102. -/
def frcp (x : FVal) : Nat × BitVec 10 :=
  match x with
  | .nan => (FFmt.f32.nanPat, 0#10)
  | .inf neg => (FFmt.f32.withSign neg 0, 0#10)
  | .fin neg m0 e0 =>
    if m0 = 0 then (FFmt.f32.withSign neg FFmt.f32.infPat, fDZ)
    else
      let e := flog2 m0 e0
      let m := mant m0
      let u := m.plus (.ofInt (-1))
      if u.isZero then FFmt.f32.round .fixed (.fin neg 1 (-e))
      else
        let j := (u.scale 7).floor.toNat
        let r := tab tblRcp j
        let d := rn ((FVal.ofInt 1).plus (m.times r).neg)
        let q1 := rn (d.times d)
        let q2 := rn (q1.plus d)
        let q3 := rn (q2.times d)
        let q4 := rn (q3.plus d)
        let y := rn (r.plus (rn (r.times q4)))
        let (x, g) := FFmt.f32.round .fixed ((y.scale (-e)).signBy neg)
        (x, g ||| fINX)

/-- R103. -/
def frsq (x : FVal) : Nat × BitVec 10 :=
  match x with
  | .nan => (FFmt.f32.nanPat, 0#10)
  | .inf neg => if neg then (FFmt.f32.nanPat, fINV) else (0, 0#10)
  | .fin neg m0 e0 =>
    if m0 = 0 then (FFmt.f32.withSign neg FFmt.f32.infPat, fDZ)
    else if neg then (FFmt.f32.nanPat, fINV)
    else
      let e := flog2 m0 e0
      let h := e / 2
      let w := FVal.fin false m0 (e0 - 2 * h)
      let u := w.plus (.ofInt (-1))
      if u.isZero then FFmt.f32.round .fixed (.fin false 1 (-h))
      else
        let j := (u.scale 6).floor.toNat
        let r := tab tblRsq j
        let d := rn ((FVal.ofInt 1).plus ((w.times r).times r).neg)
        let q1 := rn ((f32v 0x3EA00000).times d)
        let q2 := rn (q1.plus (f32v 0x3EC00000))
        let q3 := rn (q2.times d)
        let q4 := rn (q3.plus (f32v 0x3F000000))
        let q5 := rn (q4.times d)
        let y := rn (r.plus (rn (r.times q5)))
        let (x, g) := FFmt.f32.round .fixed (y.scale (-h))
        (x, g ||| fINX)

/-- The pair conversions of R188, R202 and R234, on the low bits of a source: destination pattern and
flags. -/
inductive Conv where
  | ff (src dst : FFmt)
  | fi (src : FFmt) (sgn : Bool) (w : Nat)
  | fIn (sgn : Bool) (w : Nat) (dst : FFmt)
  | ii (sgn : Bool) (w : Nat) (dsgn : Bool) (dw : Nat)
  | toE8
  | fromE8
deriving DecidableEq, Repr

/-- The integer a pattern of a width stands for. -/
def intOf (sgn : Bool) (w x : Nat) : Int :=
  let y := x % 2 ^ w
  if sgn ∧ 2 ^ (w - 1) ≤ y then (y : Int) - 2 ^ w else y

/-- The pattern of an integer in a width. -/
def patOf (w : Nat) (i : Int) : Nat := (i % 2 ^ w).toNat

/-- One conversion (R90-R93). -/
def Conv.run (c : Conv) (r : Rule) (x : Nat) : Nat × BitVec 10 :=
  match c with
  | .ff s d => (if d.covers s then d.settle else d.round) r (s.dec (x % 2 ^ s.width))
  | .fi s sgn w => let (i, f) := (s.dec (x % 2 ^ s.width)).toInt r.rm sgn w; (patOf w i, f)
  | .fIn sgn w d => d.round r (.ofInt (intOf sgn w x))
  | .ii sgn w dsgn dw =>
    let (i, f) := clampInt (intLo dsgn dw) (intHi dsgn dw) (intOf sgn w x); (patOf dw i, f)
  | .toE8 => (FFmt.f32.dec (x % 2 ^ 32)).toE8M0
  | .fromE8 => FFmt.f32.round r (e8m0 (x % 256))

/-- The pair codes of `VCVT` and `TCVT` (R188). -/
def vcvtPair (c : Nat) : Conv :=
  match c with
  | 0x00 => .ff .f32 .bf16 | 0x01 => .ff .f32 .f16 | 0x02 => .ff .f32 .e4m3 | 0x03 => .ff .f32 .e5m2
  | 0x04 => .ff .bf16 .f32 | 0x05 => .ff .f16 .f32 | 0x06 => .ff .e4m3 .f32 | 0x07 => .ff .e5m2 .f32
  | 0x08 => .ff .bf16 .f16 | 0x09 => .ff .f16 .bf16 | 0x0A => .ff .bf16 .e4m3 | 0x0B => .ff .bf16 .e5m2
  | 0x0C => .ff .e4m3 .bf16 | 0x0D => .ff .e5m2 .bf16 | 0x0E => .toE8 | 0x0F => .fromE8
  | 0x10 => .fi .f32 true 32 | 0x11 => .fIn true 32 .f32 | 0x12 => .fi .f32 false 32
  | 0x13 => .fIn false 32 .f32 | 0x14 => .ii true 32 true 16 | 0x15 => .ii true 32 true 8
  | 0x16 => .ii true 16 true 32 | 0x17 => .ii true 8 true 32 | 0x18 => .ii false 32 false 16
  | 0x19 => .ii false 32 false 8 | 0x1A => .ii false 16 false 32 | 0x1B => .ii false 8 false 32
  | 0x1C => .ii true 32 false 32 | 0x1D => .ii false 32 true 32 | _ => .ff .f16 .e4m3

/-- The conversion codes of `FCVT` (R202). -/
def fcvtPair (c : Nat) : Conv :=
  match c with
  | 0 => .fi .f32 true 64 | 1 => .fIn true 64 .f32 | 2 => .fi .f32 false 64 | 3 => .fIn false 64 .f32
  | 4 => .ff .f32 .bf16 | 5 => .ff .bf16 .f32 | 6 => .ff .f32 .f16 | 7 => .ff .f16 .f32
  | 8 => .toE8 | _ => .fromE8

/-- One F32 addition step of a reduction, a scan or a beat: RNE, saturating rules do not reach F32. -/
def addStep (x y : Nat) : Nat × BitVec 10 :=
  let (s, f) := (f32v x).add 0 (f32v y)
  let (r, g) := FFmt.f32.round .fixed s
  (r, f ||| g)

/-! The E2M1S quantiser (R84). -/

/-- |a - b| as a value. -/
def FVal.dist (a b : FVal) : FVal :=
  match a.plus b.neg with
  | .fin _ m e => .fin false m e
  | v => v

/-- The candidate codes of step 2, even codes before odd ones of the same distance. -/
def e2m1Codes : List Nat := [0, 2, 4, 6, 10, 12, 14, 1, 3, 5, 7, 9, 11, 13, 15]

/-- The nearest of the fifteen values: on a tie the code whose bit 0 is 0 (R84). -/
def nearestCode (y : FVal) : Nat :=
  e2m1Codes.foldl (fun best c =>
    if (y.dist (e2m1 0 c)).cmp (y.dist (e2m1 0 best)) = -1 then c else best) 0

/-- The block of 32 F32 values: codes, scale byte, spare byte, flags of each element (R84). The `FPINV` of a
block with a NaN or an infinity stands on each of its elements. [DEDUCED, log 40] -/
def quantBlock (xs : List FVal) : List Nat × Nat × Nat × List (BitVec 10) :=
  let bad := xs.any fun x => match x with
    | .fin _ _ _ => false
    | _ => true
  if bad then (xs.map fun _ => 0, 0xFF, 0x7F, xs.map fun _ => fINV)
  else
    let mx := xs.foldl (fun b x => if b.cmp (x.signBy x.isNeg) = -1 then x.signBy x.isNeg else b) (.fin false 0 0)
    match mx with
    | .fin _ m e =>
      if m = 0 then (xs.map fun _ => 0, 0, 0x80, xs.map fun _ => 0#10)
      else
        let ex : Int := max (-127) (min 127 (flog2 m e - 2))
        let ys := xs.map (·.scale (-ex))
        let qs := ys.map nearestCode
        let errs := (ys.zip qs).map fun p => p.1.dist (e2m1 0 p.2)
        let worst := errs.foldl (fun b x => if b.cmp x = -1 then x else b) (.fin false 0 0)
        let k := errs.findIdx fun x => x.cmp worst = 0
        let sp := if worst.isZero then 0x80
          else (FFmt.e4m3.round .fixed (ys.getD k (.fin false 0 0))).1
        let pick (y : FVal) (q : Nat) : Nat :=
          if (y.dist (FFmt.e4m3.dec sp)).cmp (y.dist (e2m1 0 q)) = -1 then 8 else q
        let codes := (ys.zip qs).map fun p => pick p.1 p.2
        let flags := (ys.zip codes).map fun p =>
          if (e2m1 sp p.2).cmp p.1 = 0 then 0#10 else fINX
        (codes, (ex + 127).toNat, sp, flags)
    | _ => (xs.map fun _ => 0, 0, 0x80, xs.map fun _ => 0#10)

end Sys2Proof.Machine
end

