-- ==== Sys2Proof/Config.lean ====
section
/-! DEFINITION. What the X16 fixes (the architected figures) and the free values: constants with no
body, of which nothing can be proved, standing for what the manual leaves open. -/
namespace Sys2Proof.Config

/-- Sockets that hold C-dies (R11). -/
def dies : Nat := 16

/-- Physical and logical dimensions the X16 wires (R1, R13). -/
def maxDim : Nat := 20

/-- One MiB, a scratchpad bank (R105). -/
def mib : Nat := 1048576

/-- Banks of the unified array (R105). -/
def arrayBanks : Nat := 40

/-- The largest scratchpad request, 36 MiB (R106). -/
def maxScratch : Nat := 0x2400000

/-- The weight store's size (R69, R111). -/
def wsSize : Nat := 0x0C000000

/-- One weight-store bank (R111). -/
def wsBank : Nat := 0x01800000

/-- The refresh period and window length in die cycles (R69, R71). -/
def refreshPeriod : Nat := 4096
def refreshLen : Nat := 64

/-- Entries of the landing buffer (R31). -/
def landEntries : Nat := 32

/-- Entries of the statistics queue (R73). -/
def statQueue : Nat := 64

/-- Cycles from a beat to its accumulator update (R189). -/
def beatLatency : Nat := 1030

/-- Cycles from the last row of a transposer block to its output (R245). -/
def transposeLatency : Nat := 33

/-- Die clock cycles from a port fetch to its vector's presence (R60). -/
def fetchLatency : Nat := 7

/-- Copies of one socket in progress at once (R123). -/
def copyInProgress : Nat := 8

/-- Lock entries of a package (R314). -/
def lockEntries : Nat := 262144

/-- Fault records outstanding at once (R392). -/
def faultRecords : Nat := 256

/-- Entries of one level of the launch queue (R367). -/
def launchEntries : Nat := 256

/-- Entries of a tile queue (R278). -/
def tileEntries : Nat := 1024

/-- The size of a context image (R379). -/
def ctxSize : Nat := 0x2D7E000

/-- The default compatibility matrix (R315). -/
def lockMatrix : BitVec 64 := 0x016167030B273FFF#64

/-- Nanoseconds of the start margin of R374. -/
def startMargin : Nat := 20000

/-- FREE VALUE: which of two values the spec allows is taken, at the n-th such choice (R217, R352,
R388): true takes the new one. [DESIGN CHOICE, log 3] -/
opaque choice : Nat → Bool

/-- FREE VALUE: which dirty line of a bank leaves the L1 when the n-th line comes in, if any (R109).
[DESIGN CHOICE, log 3] -/
opaque victim : Nat → Option Nat

/-- FREE VALUE: whether the read-only path answers the n-th `LDRO` from a line it already holds
(R114 allows either the held value or a later one). [DESIGN CHOICE, log 3] -/
opaque roHit : Nat → Bool

/-- FREE VALUE: the bytes of the context image whose arrangement R379 leaves to the image version.
[DESIGN CHOICE, log 3] -/
opaque ctxByte : Nat → BitVec 8

/-- FREE VALUE: the device identity's private key, derived from a fuse secret and `SVN` (R433).
[DESIGN CHOICE, log 3] -/
opaque identityKey : BitVec 32 → BitVec 256

/-- FREE VALUE: the package power and clock readings of `PWRSTAT` (R431). [DESIGN CHOICE, log 3] -/
opaque powerReading : Nat → BitVec 16

/-- FREE VALUE: the 4 KiB page of package memory that system software assigns to the context image of a
kernel's die, by kernel id and socket (R379). [DESIGN CHOICE, log 3] -/
opaque imagePage : Nat → Nat → Nat

/-- HBM stacks, at sockets 16-27, and the bytes installed: 48 GiB each (R11). -/
def hbmStacks : Nat := 12
def installedBytes : Nat := hbmStacks * 0xC00000000

/-- FREE VALUE: the HBM stack (0-11) a physical line is homed on; the spec fixes no mapping.
[DESIGN CHOICE, log 3] -/
opaque homeStack : Nat → Nat

/-- FREE VALUE: the status of a die that a function-level reset kills (R425 states none). [DESIGN CHOICE, log 3] -/
opaque resetStatus : BitVec 16

/-- FREE VALUE: `BOOTST.CODE` when step 2 of bring-up fails (R426 names no code); 0 is read as 1.
[DESIGN CHOICE, log 3] -/
opaque selfTestCode : BitVec 8

/-- FREE VALUES: what the bytes of a configuration record say (R430 fixes no layout): the entry of each physical
dimension, `DETOUR`, `DETOUR2`, whether the package is the grandmaster, the grandmaster's id. [DESIGN CHOICE, log 3] -/
opaque recordEntries : List (BitVec 8) → List (Nat × BitVec 64)
opaque recordDetour : List (BitVec 8) → BitVec 5
opaque recordDetour2 : List (BitVec 8) → BitVec 5
opaque recordGm : List (BitVec 8) → Bool
opaque recordGmid : List (BitVec 8) → BitVec 20

/-- FREE VALUES: the part of the firmware body that is the runtime image, and what that image holds (R428 fixes no
layout): index words, dictionary bundles, `KVEC.ADDR`. [DESIGN CHOICE, log 3] -/
opaque runtimePart : List (BitVec 8) → List (BitVec 8)
opaque runtimeWords : List (BitVec 8) → List Nat
opaque runtimeDict : List (BitVec 8) → List Nat
opaque runtimeKvec : List (BitVec 8) → BitVec 12

/-- FREE VALUE: a child's own estimation bound for an exchange with its parent, in ns (R418). [DESIGN CHOICE, log 3] -/
opaque syncBound : Nat → Nat

/-- FREE VALUE: which of the PF's vectors 0-31 the management ring signals (R425). [DESIGN CHOICE, log 3] -/
opaque mgmtVector : Nat

/-- FREE VALUE: the words of BAR0 that the spec names no more closely: identification, and offsets where it puts
nothing (R423). [DESIGN CHOICE, log 3] -/
opaque bar0Word : Nat → BitVec 64

/-- FREE VALUE: the digest of the fuse state and of the fenced sockets and stacks that step 8 measures (R432
fixes no layout). [DESIGN CHOICE, log 3] -/
opaque bootDigest : BitVec 320 → List Nat → List Nat → BitVec 256

end Sys2Proof.Config
end

