-- ==== Sys2Proof/WellFormed.lean ====
section
/-! DEFINITION. Well-formed instructions: the field values that the spec marks illegal in themselves
are outside it. Every check here is decided by an instruction's bits alone (R171). -/
namespace Sys2Proof

/-- The types F (R186). -/
def VType.isFloat : VType → Bool
  | .f32 | .bf16 | .f16 => true
  | _ => false

/-- The types I (R186). -/
def VType.isSigned : VType → Bool
  | .i32 | .i16 | .i8 => true
  | _ => false

/-- The types Z (R186). -/
def VType.isUnsigned : VType → Bool
  | .z32 | .z16 | .z8 => true
  | _ => false

/-- F, I and Z (R186). -/
def VType.isAny (t : VType) : Bool := t.isFloat || t.isSigned || t.isUnsigned

/-- I and Z (R186). -/
def VType.isInt (t : VType) : Bool := t.isSigned || t.isUnsigned

/-- F and I (R186). -/
def VType.isFI (t : VType) : Bool := t.isFloat || t.isSigned

/-- The types of `VCMP` (R186). -/
def VType.isCmp : VType → Bool
  | .f32 | .i32 | .z32 => true
  | _ => false

/-- The types of `VPACK` (R186). -/
def VType.isPack : VType → Bool
  | .f32 | .i32 | .z32 => false
  | _ => true

/-- The types of `VUNPK` (R186). -/
def VType.isUnpack : VType → Bool
  | .bf16 | .f16 | .i16 | .i8 | .z16 | .z8 => true
  | _ => false

/-- `SHW` names a field the engine's shape register has (R204, R63). -/
def shwFieldOk (e : BitVec 2) (f : BitVec 4) : Bool :=
  if e = 2#2 then decide (f.toNat < 8) else if e = 3#2 then decide (f.toNat < 7) else true

/-- `TIDR` names a field of a tensor entry (R205). -/
def tidFieldOk (f : BitVec 5) : Bool := decide (f.toNat < 22) && f != 6#5 && f != 7#5

/-- A strong access of two or four bytes more: w or d (R185). -/
def sizeWD (z : BitVec 2) : Bool := decide (2 ≤ z.toNat)

/-- The atomic operation codes and the sizes each takes (R185). -/
def atomOpOk (op : BitVec 4) (z : BitVec 2) : Bool :=
  decide (op.toNat ≤ 11) && sizeWD z && (decide (op.toNat < 10) || z == 2#2)

/-- The format field of the transposer (R244). -/
def ttrFmtOk (f : BitVec 6) : Bool :=
  decide (f.toNat < 8) && decide (f.toNat % 4 ≠ 3) && (decide (f.toNat < 4) || decide (f.toNat = 6))

/-- The fields an X-slot form leaves reserved are zero (R285). -/
def xDimOk (x : XArgs) : Bool :=
  decide (x.dim.toNat < 24) && x.arg == 0#6 && x.back == false

/-- An engine operation with no mode. -/
def LEng.plain (x : LEng) : Bool := x.mode == 0#5

/-- The instruction's fields hold values the spec allows in themselves. -/
def Instr.wf : Instr → Bool
  | .fcmp x => decide (x.c.toNat < 4)
  | .fcvt x => decide (x.c.toNat < 10)
  | .shw _ e _ _ f => shwFieldOk e f
  | .tidr _ _ _ _ f => tidFieldOk f
  | .tidw _ f _ _ => tidFieldOk f && f != 2#5
  | .agw _ _ _ f => decide (f.toNat < 12)
  | .loop _ _ _ e => e != 0#12
  | .bloop _ _ e => e != 0#12
  | .ld x => x.land != 0#7
  | .ldro x => x.land != 0#7
  | .st x => x.ws == false && x.land == 0#7
  | .ldsp x => x.sp == false
  | .stsp x => x.ws == false
  | .vld x => x.sp == false
  | .vst x => x.ws == false
  | .vldx x => x.size != 3#2 && x.sp == false
  | .vstx x => x.size != 3#2 && x.ws == false
  | .atom x => atomOpOk x.op x.size && x.n == 0#6 && x.arv == false
  | .cas x => sizeWD x.size && x.op == 0#4 && x.arv == false
  | .red x => atomOpOk x.op x.size && x.op != 9#4 && x.n == 0#6 && x.ws == false &&
      (x.order == 0#2 || x.order == 2#2) && (!x.arv || decide (x.d.toNat % 2 = 0))
  | .heapins x => x.op == 0#4 && x.n == 0#6 && x.arv == false && x.size == 0#2
  | .take x => x.plain
  | .enqt x => x.plain
  | .enqtClose x => x.mode == 1#5
  | .arrive x => x.plain
  | .arriveSet x => x.mode == 1#5
  | .barinit x => decide (x.mode.toNat < 8)
  | .bararv x => x.plain && x.b == 0#6
  | .enql x => x.plain && x.b == 0#6
  | .lktxn x => x.mode == 0#3
  | .lkacq x => x.mode != 0#3
  | .lkup x => x.mode != 0#3
  | .lkdn x => x.mode != 0#3
  | .lkrel x => x.mode == 0#3
  | .lkrelAll x => x.mode == 0#3 && x.a == 0#6
  | .lkabt x => x.mode == 0#3 && x.a == 0#6
  | .lkqry x => x.mode == 0#3 && x.s != 0#6
  | .vadd x => x.ty.isAny
  | .vsub x => x.ty.isAny
  | .vmul x => x.ty.isAny
  | .vfma x => x.ty.isFloat
  | .vfms x => x.ty.isFloat
  | .vmin x => x.ty.isAny
  | .vmax x => x.ty.isAny
  | .vabs x => x.ty.isFI
  | .vneg x => x.ty.isFI
  | .vand x => x.ty.isInt
  | .vor x => x.ty.isInt
  | .vxor x => x.ty.isInt
  | .vshl x => x.ty.isInt
  | .vshr x => x.ty.isInt
  | .vsra x => x.ty.isSigned
  | .vcmp x => x.ty.isCmp && (x.ty != .f32 || decide (x.c.toNat < 6))
  | .vsel x => x.ty.isAny
  | .vmov x => x.ty.isAny
  | .vbcast x => x.ty.isAny
  | .viota x => x.ty.isInt
  | .vexp2 x => x.ty.isFloat
  | .vlog2 x => x.ty.isFloat
  | .vrcp x => x.ty.isFloat
  | .vrsq x => x.ty.isFloat
  | .vrsum x => x.ty.isAny
  | .vrmax x => x.ty.isAny
  | .vrmin x => x.ty.isAny
  | .vargmax x => x.ty.isAny
  | .vscan x => x.ty.isAny
  | .vperm x => x.ty.isAny
  | .vrotl x => x.ty.isAny
  | .vcvt x => x.c != 31#5
  | .vpack x => x.ty.isPack
  | .vunpk x => x.ty.isUnpack
  | .vout x => x.ty.isAny
  | .kand x => decide (x.d.toNat < 8)
  | .kor x => decide (x.d.toNat < 8)
  | .knot x => decide (x.d.toNat < 8) && x.b == 0#3
  | .kpopc x => x.b == 0#3
  | .vexts x => x.ty.isAny
  | .vinss x => x.ty.isAny
  | .vmulh x => x.ty.isInt
  | .vadds x => x.ty.isInt
  | .vsubs x => x.ty.isInt
  | .mpush x _ => x.row == 0#11
  | .mpushw x => x.row == 0#11
  | .mswapw x => x.row == 0#11
  | .texp x => x.fmt == 0#6
  | .tqnt x => decide (x.fmt.toNat < 8)
  | .tcvt x => decide (x.fmt.toNat < 31)
  | .ttrni x => x.d == 0#6 && ttrFmtOk x.fmt
  | .ttrno x => x.s == 0#6 && ttrFmtOk x.fmt
  | .xch x => xDimOk x && x.comb == 0#4 && x.bit == 0#5
  | .xcb x => xDimOk x && decide (x.comb.toNat ≤ 8) && x.bit == 0#5
  | .xsib x => xDimOk x && x.comb == 0#4 && decide (x.bit.toNat < 24)
  | .xring x => x.dim == 0#5 && x.comb == 0#4 && x.bit == 0#5
  | .xsend x => xDimOk x && x.comb == 0#4 && x.bit == 0#5
  | .xrecv x => xDimOk x && x.comb == 0#4 && x.bit == 0#5
  | .xfan x => x.dim == 0#5 && x.comb == 0#4 && x.bit == 0#5 && x.back == false
  | .xbar x => x.dim == 0#5 && x.ch == 0#6 && x.comb == 0#4 && x.bit == 0#5 && x.back == false
  | .xbarSwap x => x.dim == 0#5 && x.ch == 0#6 && x.comb == 0#4 && x.bit == 0#5 && x.back == false
  | .chw x => x.dim == 0#5 && x.comb == 0#4 && x.bit == 0#5 && x.back == false && x.sw == false &&
      x.r == 0#2
  | .snop _ => true
  | .add _ => true
  | .sub _ => true
  | .and _ => true
  | .or _ => true
  | .xor _ => true
  | .andn _ => true
  | .shl _ => true
  | .shr _ => true
  | .sra _ => true
  | .rotr _ => true
  | .mul _ => true
  | .mulh _ => true
  | .mulhz _ => true
  | .div _ => true
  | .divz _ => true
  | .rem _ => true
  | .remz _ => true
  | .min _ => true
  | .max _ => true
  | .minz _ => true
  | .maxz _ => true
  | .cmp _ => true
  | .sel _ => true
  | .movi _ => true
  | .movh _ => true
  | .popc _ => true
  | .clz _ => true
  | .ctz _ => true
  | .brev _ => true
  | .gray _ => true
  | .igray _ => true
  | .ext _ => true
  | .ins _ => true
  | .fadd _ => true
  | .fsub _ => true
  | .fmul _ => true
  | .fmin _ => true
  | .fmax _ => true
  | .pand _ => true
  | .por _ => true
  | .pxor _ => true
  | .srd _ _ _ _ => true
  | .swr _ _ _ => true
  | .flgs _ => true
  | .flgc _ => true
  | .partner _ => true
  | .krd _ => true
  | .kwrDiestateFence _ => true
  | .kwrDiestateReset _ => true
  | .kwrDiestateAdmit _ => true
  | .kwrTqctl _ => true
  | .kwrArrctr _ => true
  | .kwrBarctl _ => true
  | .tlbinv _ => true
  | .ctxsv _ => true
  | .ctxrs _ => true
  | .lkmw _ => true
  | .rtbw _ => true
  | .cnop _ => true
  | .br _ _ => true
  | .jmp _ _ => true
  | .call _ _ => true
  | .ret _ => true
  | .wait _ _ _ => true
  | .brf _ _ _ _ => true
  | .brsw _ _ => true
  | .ifence _ => true
  | .trap _ _ => true
  | .tret _ => true
  | .halt _ _ => true
  | .mwait _ _ => true
  | .sleept _ => true
  | .kcall _ => true
  | .brkpt _ => true
  | .eret _ => true
  | .kstopKill _ _ => true
  | .kstopFault _ _ => true
  | .kstopDesched _ _ => true
  | .lnop _ => true
  | .fenceAcq _ => true
  | .fenceRel _ => true
  | .fenceAcqrel _ => true
  | .fenceSc _ => true
  | .fenceRo _ => true
  | .mon _ _ => true
  | .monOff _ _ => true
  | .copy _ _ => true
  | .vnop _ => true
  | .mnop _ => true
  | .mmul _ _ => true
  | .macc _ _ => true
  | .mdrain _ _ => true
  | .mclr _ => true
  | .tnop _ => true
  | .xnop _ => true
  | .resultLanding => true
  | .landingDataArrival _ => true
  | .freezeWatchdogExpiry => true
  | .yieldBoundExpiry => true
  | .waitBundle => true
  | .yieldPoint => true
  | .bundleBreakpoint => true
  | .illfetch => true
  | .literalFetch => true
  | .tepcWrite _ => true
  | .portFetch _ => true
  | .portVectorArrival _ => true
  | .outputPortWrite _ => true
  | .refreshWindow => true
  | .statRecordWrite => true
  | .pushRowLand => true
  | .planeSwap => true
  | .accRowClear => true
  | .beatUpdate => true
  | .transposerBlockOutput => true
  | .copyStart _ _ => true
  | .copyComplete _ => true
  | .engineCompletion _ => true
  | .takeDeliver _ => true
  | .woundDelivery => true
  | .wgraceExpiry _ => true
  | .exchangePairing _ _ => true
  | .exchangeComplete _ => true
  | .xfanArrival _ _ _ => true
  | .swapDecision _ _ => true
  | .backlogStore _ => true
  | .linkDetour _ _ _ => true
  | .storeAcknowledge _ => true
  | .releaseComplete => true
  | .directoryRequest _ => true
  | .strongAccessPerform _ => true
  | .mwaitTimeout => true
  | .pageWalk _ => true
  | .faultRecordWrite => true
  | .frctlWrite _ => true
  | .fransRetry _ => true
  | .fransKill _ => true
  | .fransAbort _ => true
  | .migrationStart => true
  | .migrationDone _ => true
  | .dieResetDone => true
  | .uncorrectableError _ => true
  | .launchEnqueue _ _ _ => true
  | .launchSelect => true
  | .agePromotion _ => true
  | .launchReadyReport _ _ => true
  | .startTimeBroadcast _ _ => true
  | .gangStart _ _ => true
  | .saveComplete => true
  | .completionAction _ => true
  | .kcEnqueue => true
  | .kcYield => true
  | .kcTqopen => true
  | .kcBarreset => true
  | .kcRegion => true
  | .retopo => true
  | .relight => true
  | .partnew => true
  | .partend => true
  | .portDrained _ => true
  | .drainTimeout _ => true
  | .portGoDark _ => true
  | .darkusExpiry _ => true
  | .lanesTrained _ => true
  | .trainingTimeout _ => true
  | .identityFlit _ _ _ _ => true
  | .verifyTimeout _ => true
  | .linkErrorBudgetExceeded _ => true
  | .flitReplay => true
  | .timeSyncExchange _ _ _ _ _ => true
  | .timeHold => true
  | .bar2Access _ _ _ _ _ => true
  | .functionLevelReset _ => true
  | .powerOn _ _ _ _ _ => true
  | .mext _ => true
  | .attcmdGo => true
  | .attestationReportDone => true
  | .clockStepDown _ => true
  | .clockStepUp => true
  | .thermalFence => true
  | .correctedError => true
  | .stackReadmission _ => true
  | .admissionComplete _ _ => true
  | .unassignedOpcode => true
  | .emptyBundle => true
  | .unassignedManagementOpcode => true

/-- Well-formedness as a proposition. -/
abbrev Instr.WellFormed (i : Instr) : Prop := i.wf = true

end Sys2Proof
end

