-- ==== Sys2Proof/Decode.lean ====
section
/-! DEFINITION. Decoding: every slot word is an instruction or is refused by name (R153-R191 and the
chapters that lay operands out), the bundle's layout (R157-R158), and the encoder. -/
namespace Sys2Proof

/-- Why a slot's bits are no instruction; each is `ILLEGAL` at issue (R171, R190). -/
inductive DecodeError where
  /-- An opcode the tables do not assign (R190). -/
  | opcode (op : Nat)
  /-- A nonzero reserved field (R4). -/
  | reserved
  /-- A source or destination encoding the slot does not have (R161, R168). -/
  | operand
  /-- A type code that R167 does not assign. -/
  | type
  /-- A field value that the instruction marks illegal (R171). -/
  | field
deriving DecidableEq, Repr

/-- The bits [lo+n-1:lo] of a word. -/
def fieldOf (w lo n : Nat) : Nat := w / 2 ^ lo % 2 ^ n

/-- One bit of a word. -/
def flagOf (w lo : Nat) : Bool := w / 2 ^ lo % 2 == 1

/-- A one-bit field's value. -/
def bitVal (b : Bool) : Nat := if b then 1 else 0

/-- A decoded slot. -/
abbrev Dec (α : Type) := Except DecodeError α

/-- Go on only when the reserved bits are zero. -/
def zeroThen {α : Type} (r : Nat) (k : Dec α) : Dec α := if r = 0 then k else .error .reserved

/-- R161 in an S slot, or a scalar operand of a V slot. -/
def decSSrc (v : Nat) : Dec SSrc :=
  if v < 64 then .ok (.reg (BitVec.ofNat 6 v))
  else if 96 ≤ v then .ok (.imm (BitVec.ofNat 5 v))
  else if v < 72 then .ok (.latch (BitVec.ofNat 3 v))
  else .error .operand

/-- R161 in a V slot. -/
def decVSrc (v : Nat) : Dec VSrc :=
  if v < 64 then .ok (.reg (BitVec.ofNat 6 v))
  else if 96 ≤ v then .ok (.imm (BitVec.ofNat 5 v))
  else if v < 72 then .ok (.latch (BitVec.ofNat 3 v))
  else if v < 76 then .ok (.port (BitVec.ofNat 2 v))
  else .error .operand

/-- R161 in an M slot: no immediate. -/
def decMSrc (v : Nat) : Dec MSrc :=
  if v < 64 then .ok (.reg (BitVec.ofNat 6 v))
  else if 96 ≤ v then .error .operand
  else if v < 72 then .ok (.latch (BitVec.ofNat 3 v))
  else if v < 76 then .ok (.port (BitVec.ofNat 2 v))
  else .error .operand

/-- The destination of `MDRAIN` (R168). -/
def decMDst (v : Nat) : Dec MDst :=
  if v < 64 then .ok (.reg (BitVec.ofNat 6 v))
  else if v < 66 then .ok (.port (BitVec.ofNat 1 v))
  else .error .operand

/-- A mask operand of a V slot: a register encoding with index 0-7 (R221). -/
def decMask (v : Nat) : Dec (BitVec 3) :=
  if v < 8 then .ok (BitVec.ofNat 3 v) else .error .operand

/-- The encodings of R161 and R168. -/
def SSrc.enc : SSrc → Nat
  | .reg r => r.toNat
  | .imm i => 96 + i.toNat
  | .latch q => 64 + q.toNat

def VSrc.enc : VSrc → Nat
  | .reg r => r.toNat
  | .imm i => 96 + i.toNat
  | .latch q => 64 + q.toNat
  | .port j => 72 + j.toNat

def MSrc.enc : MSrc → Nat
  | .reg r => r.toNat
  | .latch q => 64 + q.toNat
  | .port j => 72 + j.toNat

def MDst.enc : MDst → Nat
  | .reg r => r.toNat
  | .port y => 64 + y.toNat

/-- The type codes of R167. -/
def VType.enc : VType → Nat
  | .f32 => 0 | .bf16 => 1 | .f16 => 2 | .e4m3 => 3 | .e5m2 => 4
  | .i32 => 8 | .i16 => 9 | .i8 => 10 | .z32 => 12 | .z16 => 13 | .z8 => 14

def decType (v : Nat) : Dec VType :=
  if v = 0 then .ok .f32 else if v = 1 then .ok .bf16 else if v = 2 then .ok .f16
  else if v = 3 then .ok .e4m3 else if v = 4 then .ok .e5m2 else if v = 8 then .ok .i32
  else if v = 9 then .ok .i16 else if v = 10 then .ok .i8 else if v = 12 then .ok .z32
  else if v = 13 then .ok .z16 else if v = 14 then .ok .z8 else .error .type

/-- The instruction, if its field values are legal in themselves (R171). -/
def checked (i : Instr) : Dec Instr := if i.wf then .ok i else .error .field

/-- The predicate field of a 32-bit slot, of an L or V slot, of the X slot. -/
def pred32 (w : Nat) : BitVec 5 := BitVec.ofNat 5 (fieldOf w 21 5)
def pred40 (w : Nat) : BitVec 5 := BitVec.ofNat 5 (fieldOf w 29 5)
def pred48 (w : Nat) : BitVec 5 := BitVec.ofNat 5 (fieldOf w 37 5)

/-- S opcodes with two sources and a destination (R181). -/
def sTwo : List (Nat × (SArgs → Instr)) :=
  [(1, .add), (2, .sub), (3, .and), (4, .or), (5, .xor), (6, .andn), (7, .shl), (8, .shr),
   (9, .sra), (10, .rotr), (11, .mul), (12, .mulh), (13, .mulhz), (14, .div), (15, .divz),
   (16, .rem), (17, .remz), (18, .min), (19, .max), (20, .minz), (21, .maxz), (23, .sel),
   (32, .ext), (33, .ins), (34, .fadd), (35, .fsub), (36, .fmul), (37, .fmin), (38, .fmax)]

/-- S opcodes with one source and a destination. -/
def sOne : List (Nat × (SOne → Instr)) :=
  [(26, .popc), (27, .clz), (28, .ctz), (29, .brev), (30, .gray), (31, .igray),
   (52, .partner), (56, .krd)]

/-- S opcodes with a 14-bit immediate. -/
def sImm : List (Nat × (SImm → Instr)) :=
  [(24, .movi), (25, .movh)]

/-- The comparisons of the S slots. -/
def sCmp : List (Nat × (SCmp → Instr)) :=
  [(22, .cmp), (39, .fcmp)]

/-- The conversion of the S slots. -/
def sCvt : List (Nat × (SCvt → Instr)) :=
  [(40, .fcvt)]

/-- The predicate operations (R200). -/
def sPred : List (Nat × (SPred → Instr)) :=
  [(41, .pand), (42, .por), (43, .pxor)]

/-- Privileged S opcodes with two sources. The rows of `KWR` share one word; the decoder names it by the
first. -/
def sPriv : List (Nat × (SPriv → Instr)) :=
  [(57, .kwrDiestateFence), (58, .tlbinv), (62, .rtbw)]

/-- S opcodes with one source and no destination. -/
def sSink : List (Nat × (SSink → Instr)) :=
  [(50, .flgs), (51, .flgc), (59, .ctxsv), (60, .ctxrs), (61, .lkmw)]

/-- V opcodes with two vector sources (R186). -/
def vTwo : List (Nat × (VArgs → Instr)) :=
  [(1, .vadd), (2, .vsub), (3, .vmul), (4, .vfma), (5, .vfms), (6, .vmin), (7, .vmax),
   (10, .vand), (11, .vor), (12, .vxor), (13, .vshl), (14, .vshr), (15, .vsra), (17, .vsel),
   (20, .viota), (30, .vperm), (31, .vrotl), (33, .vpack), (42, .vmulh), (43, .vadds),
   (44, .vsubs)]

/-- V opcodes with one vector source. -/
def vOne : List (Nat × (VOne → Instr)) :=
  [(8, .vabs), (9, .vneg), (18, .vmov), (21, .vexp2), (22, .vlog2), (23, .vrcp), (24, .vrsq),
   (25, .vrsum), (26, .vrmax), (27, .vrmin), (28, .vargmax), (29, .vscan)]

/-- The mask opcodes. -/
def vMask : List (Nat × (KArgs → Instr)) :=
  [(36, .kand), (37, .kor), (38, .knot), (39, .kpopc)]


/-- The general S layout (R163). -/
def decSArgs (w : Nat) : Dec SArgs := do
  let a ← decSSrc (fieldOf w 7 7)
  let b ← decSSrc (fieldOf w 0 7)
  .ok ⟨pred32 w, flagOf w 20, BitVec.ofNat 6 (fieldOf w 14 6), a, b⟩

def decSOne (w : Nat) : Dec SOne := do
  let a ← decSSrc (fieldOf w 7 7)
  zeroThen (fieldOf w 0 7) (.ok ⟨pred32 w, flagOf w 20, BitVec.ofNat 6 (fieldOf w 14 6), a⟩)

def decSImm (w : Nat) : Dec SImm :=
  .ok ⟨pred32 w, flagOf w 20, BitVec.ofNat 6 (fieldOf w 14 6), BitVec.ofNat 14 (fieldOf w 0 14)⟩

def decSCmp (w : Nat) : Dec SCmp := do
  let a ← decSSrc (fieldOf w 7 7)
  let b ← decSSrc (fieldOf w 0 7)
  .ok ⟨pred32 w, BitVec.ofNat 4 (fieldOf w 17 4), BitVec.ofNat 3 (fieldOf w 14 3), a, b⟩

def decSCvt (w : Nat) : Dec SCvt := do
  let a ← decSSrc (fieldOf w 7 7)
  .ok ⟨pred32 w, flagOf w 20, BitVec.ofNat 6 (fieldOf w 14 6), a, BitVec.ofNat 7 (fieldOf w 0 7)⟩

def decSPred (w : Nat) : Dec SPred :=
  zeroThen (fieldOf w 18 3) <| zeroThen (fieldOf w 12 2) <| zeroThen (fieldOf w 5 2) <|
    .ok ⟨pred32 w, BitVec.ofNat 4 (fieldOf w 14 4), flagOf w 11, BitVec.ofNat 4 (fieldOf w 7 4),
      flagOf w 4, BitVec.ofNat 4 (fieldOf w 0 4)⟩

def decSPriv (w : Nat) : Dec SPriv := do
  let a ← decSSrc (fieldOf w 7 7)
  let b ← decSSrc (fieldOf w 0 7)
  zeroThen (fieldOf w 14 7) (.ok ⟨pred32 w, a, b⟩)

def decSSink (w : Nat) : Dec SSink := do
  let a ← decSSrc (fieldOf w 7 7)
  zeroThen (fieldOf w 14 7) <| zeroThen (fieldOf w 0 7) (.ok ⟨pred32 w, a⟩)

/-- The opcodes with a layout of their own among the S slots (R203-R206). -/
def decSOther (op w : Nat) : Dec Instr :=
  if op = 0 then zeroThen (fieldOf w 0 21) (checked (.snop (pred32 w)))
  else if op = 44 then
    zeroThen (fieldOf w 0 2) (checked (.srd (pred32 w) (flagOf w 20)
      (BitVec.ofNat 6 (fieldOf w 14 6)) (BitVec.ofNat 12 (fieldOf w 2 12))))
  else if op = 45 then
    zeroThen (fieldOf w 0 2) <| zeroThen (fieldOf w 20 1) (checked (.swr (pred32 w)
      (BitVec.ofNat 6 (fieldOf w 14 6)) (BitVec.ofNat 12 (fieldOf w 2 12))))
  else if op = 46 then
    zeroThen (fieldOf w 20 1) <| zeroThen (fieldOf w 14 2) <| zeroThen (fieldOf w 4 3) <| do
      let a ← decSSrc (fieldOf w 7 7)
      checked (.shw (pred32 w) (BitVec.ofNat 2 (fieldOf w 18 2)) (BitVec.ofNat 2 (fieldOf w 16 2)) a
        (BitVec.ofNat 4 (fieldOf w 0 4)))
  else if op = 47 then
    zeroThen (fieldOf w 5 2) <| do
      let a ← decSSrc (fieldOf w 7 7)
      checked (.tidr (pred32 w) (flagOf w 20) (BitVec.ofNat 6 (fieldOf w 14 6)) a
        (BitVec.ofNat 5 (fieldOf w 0 5)))
  else if op = 48 then
    zeroThen (fieldOf w 19 2) <| do
      let a ← decSSrc (fieldOf w 7 7)
      let b ← decSSrc (fieldOf w 0 7)
      checked (.tidw (pred32 w) (BitVec.ofNat 5 (fieldOf w 14 5)) a b)
  else if op = 49 then
    zeroThen (fieldOf w 20 1) <| zeroThen (fieldOf w 14 3) <| zeroThen (fieldOf w 4 3) <| do
      let a ← decSSrc (fieldOf w 7 7)
      checked (.agw (pred32 w) (BitVec.ofNat 3 (fieldOf w 17 3)) a (BitVec.ofNat 4 (fieldOf w 0 4)))
  else .error (.opcode op)

/-- The S slot (R181). [DEDUCED, log 8] -/
def decodeS (w : Nat) : Dec Instr :=
  let op := fieldOf w 26 6
  match sTwo.lookup op with
  | some f => decSArgs w >>= fun x => checked (f x)
  | none =>
  match sOne.lookup op with
  | some f => decSOne w >>= fun x => checked (f x)
  | none =>
  match sImm.lookup op with
  | some f => decSImm w >>= fun x => checked (f x)
  | none =>
  match sCmp.lookup op with
  | some f => decSCmp w >>= fun x => checked (f x)
  | none =>
  match sCvt.lookup op with
  | some f => decSCvt w >>= fun x => checked (f x)
  | none =>
  match sPred.lookup op with
  | some f => decSPred w >>= fun x => checked (f x)
  | none =>
  match sPriv.lookup op with
  | some f => decSPriv w >>= fun x => checked (f x)
  | none =>
  match sSink.lookup op with
  | some f => decSSink w >>= fun x => checked (f x)
  | none => decSOther op w

/-- The C slot (R183, R210). [DEDUCED, log 8] -/
def decodeC (w : Nat) : Dec Instr :=
  let op := fieldOf w 26 6
  let p := pred32 w
  let o := fieldOf w 0 21
  let r := BitVec.ofNat 6 (fieldOf w 15 6)
  if op = 0 then zeroThen o (checked (.cnop p))
  else if op = 1 then checked (.br p (BitVec.ofNat 21 o))
  else if op = 2 then zeroThen (fieldOf w 0 15) (checked (.jmp p r))
  else if op = 3 then checked (.call p (BitVec.ofNat 21 o))
  else if op = 4 then zeroThen o (checked (.ret p))
  else if op = 5 then
    checked (.loop p r (BitVec.ofNat 3 (fieldOf w 12 3)) (BitVec.ofNat 12 (fieldOf w 0 12)))
  else if op = 6 then
    zeroThen (fieldOf w 12 3) (checked (.bloop p r (BitVec.ofNat 12 (fieldOf w 0 12))))
  else if op = 7 then zeroThen (fieldOf w 0 14) (checked (.wait p r (flagOf w 14)))
  else if op = 8 then
    checked (.brf p (BitVec.ofNat 5 (fieldOf w 16 5)) (flagOf w 15) (BitVec.ofNat 15 (fieldOf w 0 15)))
  else if op = 9 then zeroThen (fieldOf w 15 6) (checked (.brsw p (BitVec.ofNat 15 (fieldOf w 0 15))))
  else if op = 10 then zeroThen o (checked (.ifence p))
  else if op = 11 then zeroThen (fieldOf w 16 5) (checked (.trap p (BitVec.ofNat 16 (fieldOf w 0 16))))
  else if op = 12 then zeroThen o (checked (.tret p))
  else if op = 13 then zeroThen (fieldOf w 16 5) (checked (.halt p (BitVec.ofNat 16 (fieldOf w 0 16))))
  else if op = 14 then zeroThen (fieldOf w 0 15) (checked (.mwait p r))
  else if op = 15 then zeroThen o (checked (.sleept p))
  else if op = 16 then zeroThen o (checked (.kcall p))
  else if op = 17 then zeroThen o (checked (.brkpt p))
  else if op = 32 then zeroThen o (checked (.eret p))
  else if op = 33 then
    let st := BitVec.ofNat 16 (fieldOf w 0 16)
    let m := fieldOf w 16 5
    if m = 0 then checked (.kstopKill p st)
    else if m = 1 then checked (.kstopFault p st)
    else if m = 2 then checked (.kstopDesched p st)
    else .error .field
  else .error (.opcode op)

/-- A package-memory access with an offset (R165). -/
def decLMem (w : Nat) : LMem :=
  ⟨pred40 w, flagOf w 28, BitVec.ofNat 6 (fieldOf w 22 6), BitVec.ofNat 6 (fieldOf w 16 6),
    BitVec.ofNat 6 (fieldOf w 10 6), BitVec.ofNat 2 (fieldOf w 8 2), BitVec.ofNat 7 (fieldOf w 1 7),
    flagOf w 0⟩

/-- `LDSP`, `STSP` (R265). -/
def decLSp (w : Nat) : Dec LSp :=
  zeroThen (fieldOf w 0 1) (.ok ⟨pred40 w, flagOf w 28, BitVec.ofNat 6 (fieldOf w 22 6),
    BitVec.ofNat 6 (fieldOf w 16 6), BitVec.ofNat 12 (fieldOf w 4 12), BitVec.ofNat 2 (fieldOf w 2 2),
    flagOf w 1⟩)

/-- `VLD`, `VST` (R265). -/
def decLVec (w : Nat) : Dec LVec :=
  zeroThen (fieldOf w 0 1) (.ok ⟨pred40 w, flagOf w 28, BitVec.ofNat 6 (fieldOf w 22 6),
    BitVec.ofNat 6 (fieldOf w 16 6), BitVec.ofNat 14 (fieldOf w 2 14), flagOf w 1⟩)

/-- `VLDX`, `VSTX` (R265). -/
def decLIdx (w : Nat) : Dec LIdx :=
  zeroThen (fieldOf w 2 3) <| zeroThen (fieldOf w 0 1) (.ok ⟨pred40 w, flagOf w 28,
    BitVec.ofNat 6 (fieldOf w 22 6), BitVec.ofNat 6 (fieldOf w 16 6), BitVec.ofNat 6 (fieldOf w 10 6),
    BitVec.ofNat 2 (fieldOf w 8 2), BitVec.ofNat 3 (fieldOf w 5 3), flagOf w 1⟩)

/-- The operation, new-value register and arrival bit of the strong forms (R269): `ATOM` and `RED`
name an operation in [15:12], `CAS` a register in [15:10], `RED` its `ARV` bit in [11]. -/
def decLStrong (op w : Nat) : Dec LStrong :=
  let hi := BitVec.ofNat 4 (fieldOf w 12 4)
  let mk (o : BitVec 4) (n : BitVec 6) (arv : Bool) : LStrong :=
    ⟨pred40 w, flagOf w 28, BitVec.ofNat 6 (fieldOf w 22 6), BitVec.ofNat 6 (fieldOf w 16 6), o, n, arv,
      BitVec.ofNat 2 (fieldOf w 8 2), BitVec.ofNat 3 (fieldOf w 5 3), BitVec.ofNat 2 (fieldOf w 3 2),
      flagOf w 0⟩
  zeroThen (fieldOf w 1 2) <|
    if op = 11 then .ok (mk 0#4 (BitVec.ofNat 6 (fieldOf w 10 6)) false)
    else if op = 12 then zeroThen (fieldOf w 10 1) (.ok (mk hi 0#6 (flagOf w 11)))
    else if op = 10 then zeroThen (fieldOf w 10 2) (.ok (mk hi 0#6 false))
    else zeroThen (fieldOf w 10 6) (.ok (mk 0#4 0#6 false))

/-- `FENCE` (R273). -/
def decFence (w : Nat) : Dec Instr :=
  let x : LFence := ⟨pred40 w, BitVec.ofNat 3 (fieldOf w 5 3), flagOf w 1⟩
  let k := fieldOf w 2 3
  zeroThen (fieldOf w 8 21) <| zeroThen (fieldOf w 0 1) <|
    if k = 0 then if x.scope = 0#3 ∧ x.ro = true then checked (.fenceRo (pred40 w)) else .error .field
    else if k = 1 then checked (.fenceAcq x)
    else if k = 2 then checked (.fenceRel x)
    else if k = 3 then checked (.fenceAcqrel x)
    else if k = 4 then checked (.fenceSc x)
    else .error .field

/-- An engine operation (R276). -/
def decLEng (w : Nat) : Dec LEng :=
  zeroThen (fieldOf w 28 1) (.ok ⟨pred40 w, BitVec.ofNat 6 (fieldOf w 22 6),
    BitVec.ofNat 6 (fieldOf w 16 6), BitVec.ofNat 6 (fieldOf w 10 6), BitVec.ofNat 5 (fieldOf w 5 5),
    BitVec.ofNat 5 (fieldOf w 0 5)⟩)

/-- A lock operation (R326). -/
def decLLock (w : Nat) : Dec LLock :=
  zeroThen (fieldOf w 28 1) <| zeroThen (fieldOf w 16 6) <| zeroThen (fieldOf w 0 1)
    (.ok ⟨pred40 w, BitVec.ofNat 6 (fieldOf w 22 6), BitVec.ofNat 6 (fieldOf w 10 6),
      BitVec.ofNat 5 (fieldOf w 5 5), BitVec.ofNat 3 (fieldOf w 2 3)⟩)

/-- The lock opcodes 0x16-0x1C with their `ALL` bit (R326). -/
def decLock (op w : Nat) : Dec Instr := do
  let x ← decLLock w
  let all := fieldOf w 1 1
  if op = 26 then if all = 1 then checked (.lkrelAll x) else checked (.lkrel x)
  else zeroThen all <|
    if op = 22 then checked (.lktxn x)
    else if op = 23 then checked (.lkacq x)
    else if op = 24 then checked (.lkup x)
    else if op = 25 then checked (.lkdn x)
    else if op = 27 then checked (.lkabt x)
    else checked (.lkqry x)

/-- The L slot (R184). [DEDUCED, log 8] -/
def decodeL (w : Nat) : Dec Instr :=
  let op := fieldOf w 34 6
  let p := pred40 w
  if op = 0 then zeroThen (fieldOf w 0 29) (checked (.lnop p))
  else if op = 1 then checked (.ld (decLMem w))
  else if op = 2 then checked (.st (decLMem w))
  else if op = 3 then checked (.ldro (decLMem w))
  else if op = 4 then decLSp w >>= fun x => checked (.ldsp x)
  else if op = 5 then decLSp w >>= fun x => checked (.stsp x)
  else if op = 6 then decLVec w >>= fun x => checked (.vld x)
  else if op = 7 then decLVec w >>= fun x => checked (.vst x)
  else if op = 8 then decLIdx w >>= fun x => checked (.vldx x)
  else if op = 9 then decLIdx w >>= fun x => checked (.vstx x)
  else if op = 10 then decLStrong op w >>= fun x => checked (.atom x)
  else if op = 11 then decLStrong op w >>= fun x => checked (.cas x)
  else if op = 12 then decLStrong op w >>= fun x => checked (.red x)
  else if op = 13 then decLStrong op w >>= fun x => checked (.heapins x)
  else if op = 14 then decFence w
  else if op = 15 then
    zeroThen (fieldOf w 22 7) <| zeroThen (fieldOf w 0 15) <|
      if flagOf w 15 then checked (.monOff p (BitVec.ofNat 6 (fieldOf w 16 6)))
      else checked (.mon p (BitVec.ofNat 6 (fieldOf w 16 6)))
  else if op = 16 then
    zeroThen (fieldOf w 22 7) <| zeroThen (fieldOf w 0 16) <|
      checked (.copy p (BitVec.ofNat 6 (fieldOf w 16 6)))
  else if op = 17 then decLEng w >>= fun x => checked (.take x)
  else if op = 18 then
    decLEng w >>= fun x => if x.mode = 1#5 then checked (.enqtClose x) else checked (.enqt x)
  else if op = 19 then
    decLEng w >>= fun x => if x.mode = 1#5 then checked (.arriveSet x) else checked (.arrive x)
  else if op = 20 then decLEng w >>= fun x => checked (.barinit x)
  else if op = 21 then decLEng w >>= fun x => checked (.bararv x)
  else if op = 29 then decLEng w >>= fun x => checked (.enql x)
  else if 22 ≤ op ∧ op ≤ 28 then decLock op w
  else .error (.opcode op)

/-- The lane mask and `WS` of a V slot (R166). -/
def maskV (w : Nat) : BitVec 3 := BitVec.ofNat 3 (fieldOf w 26 3)
def wsV (w : Nat) : Bool := flagOf w 25
def dstV (w : Nat) : BitVec 6 := BitVec.ofNat 6 (fieldOf w 19 6)

def decVArgs (w : Nat) : Dec VArgs := do
  let a ← decVSrc (fieldOf w 12 7)
  let b ← decVSrc (fieldOf w 5 7)
  let t ← decType (fieldOf w 0 5)
  .ok ⟨pred40 w, maskV w, wsV w, dstV w, a, b, t⟩

def decVOne (w : Nat) : Dec VOne := do
  let a ← decVSrc (fieldOf w 12 7)
  let t ← decType (fieldOf w 0 5)
  zeroThen (fieldOf w 5 7) (.ok ⟨pred40 w, maskV w, wsV w, dstV w, a, t⟩)

/-- The mask instructions: reserved mask and type (R186, R221). -/
def decKArgs (w : Nat) : Dec KArgs := do
  let a ← decMask (fieldOf w 12 7)
  let b ← decMask (fieldOf w 5 7)
  zeroThen (fieldOf w 26 3) <| zeroThen (fieldOf w 0 5)
    (.ok ⟨pred40 w, wsV w, dstV w, a, b⟩)

/-- The V opcodes with an operand shape of their own (R221). -/
def decVOther (op w : Nat) : Dec Instr :=
  if op = 0 then zeroThen (fieldOf w 0 29) (checked (.vnop (pred40 w)))
  else if op = 16 then do
    let a ← decVSrc (fieldOf w 12 7)
    let b ← decVSrc (fieldOf w 5 7)
    let t ← decType (fieldOf w 0 5)
    checked (.vcmp ⟨pred40 w, maskV w, wsV w, BitVec.ofNat 3 (fieldOf w 22 3),
      BitVec.ofNat 3 (fieldOf w 19 3), a, b, t⟩)
  else if op = 19 then do
    let a ← decSSrc (fieldOf w 12 7)
    let t ← decType (fieldOf w 0 5)
    zeroThen (fieldOf w 5 7) (checked (.vbcast ⟨pred40 w, maskV w, wsV w, dstV w, a, t⟩))
  else if op = 32 then do
    let a ← decVSrc (fieldOf w 12 7)
    zeroThen (fieldOf w 5 7) (checked (.vcvt ⟨pred40 w, maskV w, wsV w, dstV w, a,
      BitVec.ofNat 5 (fieldOf w 0 5)⟩))
  else if op = 34 then do
    let a ← decVSrc (fieldOf w 12 7)
    let t ← decType (fieldOf w 0 5)
    let h := fieldOf w 5 7
    if h = 96 then checked (.vunpk ⟨pred40 w, maskV w, wsV w, dstV w, a, false, t⟩)
    else if h = 97 then checked (.vunpk ⟨pred40 w, maskV w, wsV w, dstV w, a, true, t⟩)
    else .error .operand
  else if op = 35 then do
    let a ← decVSrc (fieldOf w 12 7)
    let t ← decType (fieldOf w 0 5)
    zeroThen (fieldOf w 5 7) <| zeroThen (fieldOf w 20 5) <| zeroThen (fieldOf w 25 1) <|
      checked (.vout ⟨pred40 w, maskV w, BitVec.ofNat 1 (fieldOf w 19 1), a, t⟩)
  else if op = 40 then do
    let a ← decVSrc (fieldOf w 12 7)
    let b ← decSSrc (fieldOf w 5 7)
    let t ← decType (fieldOf w 0 5)
    zeroThen (fieldOf w 26 3) (checked (.vexts ⟨pred40 w, wsV w, dstV w, a, b, t⟩))
  else if op = 41 then do
    let a ← decSSrc (fieldOf w 12 7)
    let b ← decSSrc (fieldOf w 5 7)
    let t ← decType (fieldOf w 0 5)
    zeroThen (fieldOf w 26 3) (checked (.vinss ⟨pred40 w, wsV w, dstV w, a, b, t⟩))
  else .error (.opcode op)

/-- The V slot (R186). [DEDUCED, log 8] -/
def decodeV (w : Nat) : Dec Instr :=
  let op := fieldOf w 34 6
  match vTwo.lookup op with
  | some f => decVArgs w >>= fun x => checked (f x)
  | none =>
  match vOne.lookup op with
  | some f => decVOne w >>= fun x => checked (f x)
  | none =>
  match vMask.lookup op with
  | some f => decKArgs w >>= fun x => checked (f x)
  | none => decVOther op w

/-- The fields every M slot has (R168). -/
def decMArgs (w : Nat) : MArgs :=
  ⟨pred32 w, flagOf w 20, BitVec.ofNat 2 (fieldOf w 18 2), BitVec.ofNat 11 (fieldOf w 0 11)⟩

/-- The M slot (R189, R251). [DEDUCED, log 8; DEDUCED, log 10] -/
def decodeM (w : Nat) : Dec Instr :=
  let op := fieldOf w 26 6
  let x := decMArgs w
  let s := fieldOf w 11 7
  if op = 0 then zeroThen (fieldOf w 0 21) (checked (.mnop (pred32 w)))
  else if op = 1 then decMSrc s >>= fun a => checked (.mpush x a)
  else if op = 2 then zeroThen s (checked (.mpushw x))
  else if op = 3 then zeroThen s (checked (.mswapw x))
  else if op = 4 then decMSrc s >>= fun a => checked (.mmul x a)
  else if op = 5 then decMSrc s >>= fun a => checked (.macc x a)
  else if op = 6 then decMDst s >>= fun a => checked (.mdrain x a)
  else if op = 7 then zeroThen s (checked (.mclr x))
  else .error (.opcode op)

/-- The fields every T slot has (R169). -/
def decTArgs (w : Nat) : TArgs :=
  ⟨pred32 w, flagOf w 20, BitVec.ofNat 2 (fieldOf w 18 2), BitVec.ofNat 6 (fieldOf w 12 6),
    BitVec.ofNat 6 (fieldOf w 6 6), BitVec.ofNat 6 (fieldOf w 0 6)⟩

/-- The T slot (R189). [DEDUCED, log 8] -/
def decodeT (w : Nat) : Dec Instr :=
  let op := fieldOf w 26 6
  let x := decTArgs w
  if op = 0 then zeroThen (fieldOf w 0 21) (checked (.tnop (pred32 w)))
  else if op = 1 then checked (.texp x)
  else if op = 2 then checked (.tqnt x)
  else if op = 3 then checked (.tcvt x)
  else if op = 4 then checked (.ttrni x)
  else if op = 5 then checked (.ttrno x)
  else .error (.opcode op)

/-- The fields every X slot has (R170, R285). -/
def decXArgs (w : Nat) : XArgs :=
  ⟨pred48 w, flagOf w 36, BitVec.ofNat 2 (fieldOf w 34 2), BitVec.ofNat 5 (fieldOf w 29 5),
    BitVec.ofNat 6 (fieldOf w 23 6), BitVec.ofNat 5 (fieldOf w 18 5), BitVec.ofNat 4 (fieldOf w 14 4),
    BitVec.ofNat 6 (fieldOf w 8 6), flagOf w 7, BitVec.ofNat 5 (fieldOf w 0 5)⟩

/-- The X slot (R189, R285). [DEDUCED, log 8] -/
def decodeX (w : Nat) : Dec Instr :=
  let op := fieldOf w 42 6
  let x := decXArgs w
  if op = 0 then zeroThen (fieldOf w 0 37) (checked (.xnop (pred48 w)))
  else zeroThen (fieldOf w 5 1) <|
    if op = 8 then if flagOf w 6 then checked (.xbarSwap x) else checked (.xbar x)
    else zeroThen (fieldOf w 6 1) <|
      if op = 1 then checked (.xch x)
      else if op = 2 then checked (.xcb x)
      else if op = 3 then checked (.xsib x)
      else if op = 4 then checked (.xring x)
      else if op = 5 then checked (.xsend x)
      else if op = 6 then checked (.xrecv x)
      else if op = 7 then checked (.xfan x)
      else if op = 9 then checked (.chw x)
      else .error (.opcode op)

/-- The ten slots of a bundle, in the order of R171. -/
inductive Slot where
  | s0 | s1 | c | l | v0 | v1 | m0 | m1 | t | x
deriving DecidableEq, Repr

/-- A slot's place in the order of R171, its `VALID` bit (R158) and its bit of `TMASK`. -/
def Slot.num : Slot → Nat
  | .s0 => 0 | .s1 => 1 | .c => 2 | .l => 3 | .v0 => 4 | .v1 => 5 | .m0 => 6 | .m1 => 7 | .t => 8 | .x => 9

/-- The slots in the order of R171. -/
def Slot.all : List Slot := [.s0, .s1, .c, .l, .v0, .v1, .m0, .m1, .t, .x]

/-- A slot's first bundle bit and width (R157). -/
def Slot.lo : Slot → Nat
  | .s0 => 24 | .s1 => 56 | .c => 88 | .l => 120 | .v0 => 160 | .v1 => 200 | .m0 => 240 | .m1 => 272
  | .t => 304 | .x => 336

def Slot.width : Slot → Nat
  | .l | .v0 | .v1 => 40
  | .x => 48
  | _ => 32

/-- The decoder of a slot. -/
def Slot.decode : Slot → Nat → Dec Instr
  | .s0 | .s1 => decodeS
  | .c => decodeC
  | .l => decodeL
  | .v0 | .v1 => decodeV
  | .m0 | .m1 => decodeM
  | .t => decodeT
  | .x => decodeX

/-- A decoded bundle: the header (R158) and each valid slot's decoding. -/
structure Bundle where
  reserved : Bool
  dbit : Bool
  wait : Bool
  yields : Bool
  slots : List (Slot × Dec Instr)
deriving Repr

/-- The layout of R157 and R158. -/
def decodeBundle (w : Nat) : Bundle where
  reserved := fieldOf w 13 11 != 0
  dbit := flagOf w 12
  wait := flagOf w 11
  yields := flagOf w 10
  slots := (Slot.all.filter fun k => flagOf w k.num).map
    fun k => (k, k.decode (fieldOf w k.lo k.width))

/-- A bundle's bits holding one slot (the others invalid). -/
def oneSlotBundle (k : Slot) (w : Nat) : Nat := 2 ^ k.num + w % 2 ^ k.width * 2 ^ k.lo

/-- The first of the decoders that takes the word. -/
def firstSlot (w : Nat) : List Slot → Option (Slot × Instr)
  | [] => none
  | k :: rest =>
    match k.decode w with
    | .ok i => some (k, i)
    | .error _ => firstSlot w rest

/-- The slot classes that hold a word of so many bits, in the order of R157. -/
def slotsOfWidth (nbits : Nat) : List Slot :=
  if nbits = 32 then [.s0, .c, .m0, .t] else if nbits = 40 then [.l, .v0] else if nbits = 48 then [.x]
  else []

/-- The slot and instruction a bare slot word stands for: slot words of one width are told apart only by
the slot that holds them, so the first class in bundle order that assigns the word has it. -/
def slotOfTableWord (nbits w : Nat) : Option (Slot × Instr) :=
  if w < 2 ^ nbits then firstSlot w (slotsOfWidth nbits) else none

/-- The instruction the decoder reads from a bare slot word. [DEDUCED, log 8] -/
def decodeTableWord (nbits w : Nat) : Option Instr := (slotOfTableWord nbits w).map (·.2)

/-- A 32-bit slot word: opcode, predicate, the operand bits. -/
def enc32 (op : Nat) (p : BitVec 5) (o : Nat) : Nat := op * 2 ^ 26 + p.toNat * 2 ^ 21 + o

/-- A 40-bit slot word. -/
def enc40 (op : Nat) (p : BitVec 5) (o : Nat) : Nat := op * 2 ^ 34 + p.toNat * 2 ^ 29 + o

/-- The X slot's word. -/
def enc48 (op : Nat) (p : BitVec 5) (o : Nat) : Nat := op * 2 ^ 42 + p.toNat * 2 ^ 37 + o

def SArgs.enc (x : SArgs) (op : Nat) : Nat :=
  enc32 op x.p (bitVal x.ws * 2 ^ 20 + x.d.toNat * 2 ^ 14 + x.a.enc * 2 ^ 7 + x.b.enc)

def SOne.enc (x : SOne) (op : Nat) : Nat :=
  enc32 op x.p (bitVal x.ws * 2 ^ 20 + x.d.toNat * 2 ^ 14 + x.a.enc * 2 ^ 7)

def SImm.enc (x : SImm) (op : Nat) : Nat :=
  enc32 op x.p (bitVal x.ws * 2 ^ 20 + x.d.toNat * 2 ^ 14 + x.i.toNat)

def SCmp.enc (x : SCmp) (op : Nat) : Nat :=
  enc32 op x.p (x.x.toNat * 2 ^ 17 + x.c.toNat * 2 ^ 14 + x.a.enc * 2 ^ 7 + x.b.enc)

def SCvt.enc (x : SCvt) (op : Nat) : Nat :=
  enc32 op x.p (bitVal x.ws * 2 ^ 20 + x.d.toNat * 2 ^ 14 + x.a.enc * 2 ^ 7 + x.c.toNat)

def SPred.enc (x : SPred) (op : Nat) : Nat :=
  enc32 op x.p (x.x.toNat * 2 ^ 14 + bitVal x.ny * 2 ^ 11 + x.y.toNat * 2 ^ 7 + bitVal x.nz * 2 ^ 4 +
    x.z.toNat)

def SPriv.enc (x : SPriv) (op : Nat) : Nat := enc32 op x.p (x.a.enc * 2 ^ 7 + x.b.enc)

def SSink.enc (x : SSink) (op : Nat) : Nat := enc32 op x.p (x.a.enc * 2 ^ 7)

def LMem.enc (x : LMem) (op : Nat) : Nat :=
  enc40 op x.p (bitVal x.ws * 2 ^ 28 + x.d.toNat * 2 ^ 22 + x.b.toNat * 2 ^ 16 + x.off.toNat * 2 ^ 10 +
    x.size.toNat * 2 ^ 8 + x.land.toNat * 2 + bitVal x.hint)

def LSp.enc (x : LSp) (op : Nat) : Nat :=
  enc40 op x.p (bitVal x.ws * 2 ^ 28 + x.d.toNat * 2 ^ 22 + x.b.toNat * 2 ^ 16 + x.off.toNat * 2 ^ 4 +
    x.size.toNat * 2 ^ 2 + bitVal x.sp * 2)

def LVec.enc (x : LVec) (op : Nat) : Nat :=
  enc40 op x.p (bitVal x.ws * 2 ^ 28 + x.d.toNat * 2 ^ 22 + x.b.toNat * 2 ^ 16 + x.off.toNat * 2 ^ 2 +
    bitVal x.sp * 2)

def LIdx.enc (x : LIdx) (op : Nat) : Nat :=
  enc40 op x.p (bitVal x.ws * 2 ^ 28 + x.d.toNat * 2 ^ 22 + x.b.toNat * 2 ^ 16 + x.x.toNat * 2 ^ 10 +
    x.size.toNat * 2 ^ 8 + x.k.toNat * 2 ^ 5 + bitVal x.sp * 2)

/-- R269: the operation of `ATOM` and `RED` and the arrival bit, or the new-value register of `CAS`. -/
def LStrong.enc (x : LStrong) (op : Nat) : Nat :=
  enc40 op x.p (bitVal x.ws * 2 ^ 28 + x.d.toNat * 2 ^ 22 + x.addr.toNat * 2 ^ 16 +
    (x.op.toNat * 2 ^ 12 + bitVal x.arv * 2 ^ 11 + x.n.toNat * 2 ^ 10) + x.size.toNat * 2 ^ 8 +
    x.scope.toNat * 2 ^ 5 + x.order.toNat * 2 ^ 3 + bitVal x.hint)

/-- R273, with the kind. -/
def LFence.enc (x : LFence) (kind : Nat) : Nat :=
  enc40 14 x.p (x.scope.toNat * 2 ^ 5 + kind * 2 ^ 2 + bitVal x.ro * 2)

def LEng.enc (x : LEng) (op : Nat) : Nat :=
  enc40 op x.p (x.a.toNat * 2 ^ 22 + x.b.toNat * 2 ^ 16 + x.s.toNat * 2 ^ 10 + x.f.toNat * 2 ^ 5 +
    x.mode.toNat)

/-- R326, with the `ALL` bit. -/
def LLock.enc (x : LLock) (op all : Nat) : Nat :=
  enc40 op x.p (x.a.toNat * 2 ^ 22 + x.s.toNat * 2 ^ 10 + x.f.toNat * 2 ^ 5 + x.mode.toNat * 2 ^ 2 +
    all * 2)

/-- The upper operand fields of a V slot (R166). -/
def encV (op : Nat) (p : BitVec 5) (k : BitVec 3) (ws : Bool) (d a b t : Nat) : Nat :=
  enc40 op p (k.toNat * 2 ^ 26 + bitVal ws * 2 ^ 25 + d * 2 ^ 19 + a * 2 ^ 12 + b * 2 ^ 5 + t)

def VArgs.enc (x : VArgs) (op : Nat) : Nat :=
  encV op x.p x.k x.ws x.d.toNat x.a.enc x.b.enc x.ty.enc

def VOne.enc (x : VOne) (op : Nat) : Nat := encV op x.p x.k x.ws x.d.toNat x.a.enc 0 x.ty.enc

def KArgs.enc (x : KArgs) (op : Nat) : Nat :=
  encV op x.p 0#3 x.ws x.d.toNat x.a.toNat x.b.toNat 0

def MArgs.enc (x : MArgs) (op src : Nat) : Nat :=
  enc32 op x.p (bitVal x.sw * 2 ^ 20 + x.r.toNat * 2 ^ 18 + src * 2 ^ 11 + x.row.toNat)

def TArgs.enc (x : TArgs) (op : Nat) : Nat :=
  enc32 op x.p (bitVal x.sw * 2 ^ 20 + x.r.toNat * 2 ^ 18 + x.d.toNat * 2 ^ 12 + x.s.toNat * 2 ^ 6 +
    x.fmt.toNat)

/-- R285, with the swap bit of `XBAR`. -/
def XArgs.enc (x : XArgs) (op swap : Nat) : Nat :=
  enc48 op x.p (bitVal x.sw * 2 ^ 36 + x.r.toNat * 2 ^ 34 + x.dim.toNat * 2 ^ 29 + x.ch.toNat * 2 ^ 23 +
    x.f.toNat * 2 ^ 18 + x.comb.toNat * 2 ^ 14 + x.arg.toNat * 2 ^ 8 + bitVal x.back * 2 ^ 7 +
    swap * 2 ^ 6 + x.bit.toNat)

/-- The slot class whose words an instruction has; a step of the machine has none. -/
def Instr.slotClass : Instr → Option Slot
  | .snop _ => some .s0
  | .add _ => some .s0
  | .sub _ => some .s0
  | .and _ => some .s0
  | .or _ => some .s0
  | .xor _ => some .s0
  | .andn _ => some .s0
  | .shl _ => some .s0
  | .shr _ => some .s0
  | .sra _ => some .s0
  | .rotr _ => some .s0
  | .mul _ => some .s0
  | .mulh _ => some .s0
  | .mulhz _ => some .s0
  | .div _ => some .s0
  | .divz _ => some .s0
  | .rem _ => some .s0
  | .remz _ => some .s0
  | .min _ => some .s0
  | .max _ => some .s0
  | .minz _ => some .s0
  | .maxz _ => some .s0
  | .cmp _ => some .s0
  | .sel _ => some .s0
  | .movi _ => some .s0
  | .movh _ => some .s0
  | .popc _ => some .s0
  | .clz _ => some .s0
  | .ctz _ => some .s0
  | .brev _ => some .s0
  | .gray _ => some .s0
  | .igray _ => some .s0
  | .ext _ => some .s0
  | .ins _ => some .s0
  | .fadd _ => some .s0
  | .fsub _ => some .s0
  | .fmul _ => some .s0
  | .fmin _ => some .s0
  | .fmax _ => some .s0
  | .fcmp _ => some .s0
  | .fcvt _ => some .s0
  | .pand _ => some .s0
  | .por _ => some .s0
  | .pxor _ => some .s0
  | .srd _ _ _ _ => some .s0
  | .swr _ _ _ => some .s0
  | .shw _ _ _ _ _ => some .s0
  | .tidr _ _ _ _ _ => some .s0
  | .tidw _ _ _ _ => some .s0
  | .agw _ _ _ _ => some .s0
  | .flgs _ => some .s0
  | .flgc _ => some .s0
  | .partner _ => some .s0
  | .krd _ => some .s0
  | .kwrDiestateFence _ => some .s0
  | .kwrDiestateReset _ => some .s0
  | .kwrDiestateAdmit _ => some .s0
  | .kwrTqctl _ => some .s0
  | .kwrArrctr _ => some .s0
  | .kwrBarctl _ => some .s0
  | .tlbinv _ => some .s0
  | .ctxsv _ => some .s0
  | .ctxrs _ => some .s0
  | .lkmw _ => some .s0
  | .rtbw _ => some .s0
  | .cnop _ => some .c
  | .br _ _ => some .c
  | .jmp _ _ => some .c
  | .call _ _ => some .c
  | .ret _ => some .c
  | .loop _ _ _ _ => some .c
  | .bloop _ _ _ => some .c
  | .wait _ _ _ => some .c
  | .brf _ _ _ _ => some .c
  | .brsw _ _ => some .c
  | .ifence _ => some .c
  | .trap _ _ => some .c
  | .tret _ => some .c
  | .halt _ _ => some .c
  | .mwait _ _ => some .c
  | .sleept _ => some .c
  | .kcall _ => some .c
  | .brkpt _ => some .c
  | .eret _ => some .c
  | .kstopKill _ _ => some .c
  | .kstopFault _ _ => some .c
  | .kstopDesched _ _ => some .c
  | .lnop _ => some .l
  | .ld _ => some .l
  | .st _ => some .l
  | .ldro _ => some .l
  | .ldsp _ => some .l
  | .stsp _ => some .l
  | .vld _ => some .l
  | .vst _ => some .l
  | .vldx _ => some .l
  | .vstx _ => some .l
  | .atom _ => some .l
  | .cas _ => some .l
  | .red _ => some .l
  | .heapins _ => some .l
  | .fenceAcq _ => some .l
  | .fenceRel _ => some .l
  | .fenceAcqrel _ => some .l
  | .fenceSc _ => some .l
  | .fenceRo _ => some .l
  | .mon _ _ => some .l
  | .monOff _ _ => some .l
  | .copy _ _ => some .l
  | .take _ => some .l
  | .enqt _ => some .l
  | .enqtClose _ => some .l
  | .arrive _ => some .l
  | .arriveSet _ => some .l
  | .barinit _ => some .l
  | .bararv _ => some .l
  | .lktxn _ => some .l
  | .lkacq _ => some .l
  | .lkup _ => some .l
  | .lkdn _ => some .l
  | .lkrel _ => some .l
  | .lkrelAll _ => some .l
  | .lkabt _ => some .l
  | .lkqry _ => some .l
  | .enql _ => some .l
  | .vnop _ => some .v0
  | .vadd _ => some .v0
  | .vsub _ => some .v0
  | .vmul _ => some .v0
  | .vfma _ => some .v0
  | .vfms _ => some .v0
  | .vmin _ => some .v0
  | .vmax _ => some .v0
  | .vabs _ => some .v0
  | .vneg _ => some .v0
  | .vand _ => some .v0
  | .vor _ => some .v0
  | .vxor _ => some .v0
  | .vshl _ => some .v0
  | .vshr _ => some .v0
  | .vsra _ => some .v0
  | .vcmp _ => some .v0
  | .vsel _ => some .v0
  | .vmov _ => some .v0
  | .vbcast _ => some .v0
  | .viota _ => some .v0
  | .vexp2 _ => some .v0
  | .vlog2 _ => some .v0
  | .vrcp _ => some .v0
  | .vrsq _ => some .v0
  | .vrsum _ => some .v0
  | .vrmax _ => some .v0
  | .vrmin _ => some .v0
  | .vargmax _ => some .v0
  | .vscan _ => some .v0
  | .vperm _ => some .v0
  | .vrotl _ => some .v0
  | .vcvt _ => some .v0
  | .vpack _ => some .v0
  | .vunpk _ => some .v0
  | .vout _ => some .v0
  | .kand _ => some .v0
  | .kor _ => some .v0
  | .knot _ => some .v0
  | .kpopc _ => some .v0
  | .vexts _ => some .v0
  | .vinss _ => some .v0
  | .vmulh _ => some .v0
  | .vadds _ => some .v0
  | .vsubs _ => some .v0
  | .mnop _ => some .m0
  | .mpush _ _ => some .m0
  | .mpushw _ => some .m0
  | .mswapw _ => some .m0
  | .mmul _ _ => some .m0
  | .macc _ _ => some .m0
  | .mdrain _ _ => some .m0
  | .mclr _ => some .m0
  | .tnop _ => some .t
  | .texp _ => some .t
  | .tqnt _ => some .t
  | .tcvt _ => some .t
  | .ttrni _ => some .t
  | .ttrno _ => some .t
  | .xnop _ => some .x
  | .xch _ => some .x
  | .xcb _ => some .x
  | .xsib _ => some .x
  | .xring _ => some .x
  | .xsend _ => some .x
  | .xrecv _ => some .x
  | .xfan _ => some .x
  | .xbar _ => some .x
  | .xbarSwap _ => some .x
  | .chw _ => some .x
  | .resultLanding => none
  | .landingDataArrival _ => none
  | .freezeWatchdogExpiry => none
  | .yieldBoundExpiry => none
  | .waitBundle => none
  | .yieldPoint => none
  | .bundleBreakpoint => none
  | .illfetch => none
  | .literalFetch => none
  | .tepcWrite _ => none
  | .portFetch _ => none
  | .portVectorArrival _ => none
  | .outputPortWrite _ => none
  | .refreshWindow => none
  | .statRecordWrite => none
  | .pushRowLand => none
  | .planeSwap => none
  | .accRowClear => none
  | .beatUpdate => none
  | .transposerBlockOutput => none
  | .copyStart _ _ => none
  | .copyComplete _ => none
  | .engineCompletion _ => none
  | .takeDeliver _ => none
  | .woundDelivery => none
  | .wgraceExpiry _ => none
  | .exchangePairing _ _ => none
  | .exchangeComplete _ => none
  | .xfanArrival _ _ _ => none
  | .swapDecision _ _ => none
  | .backlogStore _ => none
  | .linkDetour _ _ _ => none
  | .storeAcknowledge _ => none
  | .releaseComplete => none
  | .directoryRequest _ => none
  | .strongAccessPerform _ => none
  | .mwaitTimeout => none
  | .pageWalk _ => none
  | .faultRecordWrite => none
  | .frctlWrite _ => none
  | .fransRetry _ => none
  | .fransKill _ => none
  | .fransAbort _ => none
  | .migrationStart => none
  | .migrationDone _ => none
  | .dieResetDone => none
  | .uncorrectableError _ => none
  | .launchEnqueue _ _ _ => none
  | .launchSelect => none
  | .agePromotion _ => none
  | .launchReadyReport _ _ => none
  | .startTimeBroadcast _ _ => none
  | .gangStart _ _ => none
  | .saveComplete => none
  | .completionAction _ => none
  | .kcEnqueue => none
  | .kcYield => none
  | .kcTqopen => none
  | .kcBarreset => none
  | .kcRegion => none
  | .retopo => none
  | .relight => none
  | .partnew => none
  | .partend => none
  | .portDrained _ => none
  | .drainTimeout _ => none
  | .portGoDark _ => none
  | .darkusExpiry _ => none
  | .lanesTrained _ => none
  | .trainingTimeout _ => none
  | .identityFlit _ _ _ _ => none
  | .verifyTimeout _ => none
  | .linkErrorBudgetExceeded _ => none
  | .flitReplay => none
  | .timeSyncExchange _ _ _ _ _ => none
  | .timeHold => none
  | .bar2Access _ _ _ _ _ => none
  | .functionLevelReset _ => none
  | .powerOn _ _ _ _ _ => none
  | .mext _ => none
  | .attcmdGo => none
  | .attestationReportDone => none
  | .clockStepDown _ => none
  | .clockStepUp => none
  | .thermalFence => none
  | .correctedError => none
  | .stackReadmission _ => none
  | .admissionComplete _ _ => none
  | .unassignedOpcode => none
  | .emptyBundle => none
  | .unassignedManagementOpcode => none

/-- The word of an instruction, written from the same tables; 0 for a step of the machine, which has no
word. [DEDUCED, log 10] -/
def encode : Instr → Nat
  | .snop p => enc32 0 p 0
  | .add x => x.enc 1
  | .sub x => x.enc 2
  | .and x => x.enc 3
  | .or x => x.enc 4
  | .xor x => x.enc 5
  | .andn x => x.enc 6
  | .shl x => x.enc 7
  | .shr x => x.enc 8
  | .sra x => x.enc 9
  | .rotr x => x.enc 10
  | .mul x => x.enc 11
  | .mulh x => x.enc 12
  | .mulhz x => x.enc 13
  | .div x => x.enc 14
  | .divz x => x.enc 15
  | .rem x => x.enc 16
  | .remz x => x.enc 17
  | .min x => x.enc 18
  | .max x => x.enc 19
  | .minz x => x.enc 20
  | .maxz x => x.enc 21
  | .cmp x => x.enc 22
  | .sel x => x.enc 23
  | .movi x => x.enc 24
  | .movh x => x.enc 25
  | .popc x => x.enc 26
  | .clz x => x.enc 27
  | .ctz x => x.enc 28
  | .brev x => x.enc 29
  | .gray x => x.enc 30
  | .igray x => x.enc 31
  | .ext x => x.enc 32
  | .ins x => x.enc 33
  | .fadd x => x.enc 34
  | .fsub x => x.enc 35
  | .fmul x => x.enc 36
  | .fmin x => x.enc 37
  | .fmax x => x.enc 38
  | .fcmp x => x.enc 39
  | .fcvt x => x.enc 40
  | .pand x => x.enc 41
  | .por x => x.enc 42
  | .pxor x => x.enc 43
  | .srd p ws d n => enc32 44 p (bitVal ws * 2 ^ 20 + d.toNat * 2 ^ 14 + n.toNat * 2 ^ 2)
  | .swr p s n => enc32 45 p (s.toNat * 2 ^ 14 + n.toNat * 2 ^ 2)
  | .shw p e r a f => enc32 46 p (e.toNat * 2 ^ 18 + r.toNat * 2 ^ 16 + a.enc * 2 ^ 7 + f.toNat)
  | .tidr p ws d a f => enc32 47 p (bitVal ws * 2 ^ 20 + d.toNat * 2 ^ 14 + a.enc * 2 ^ 7 + f.toNat)
  | .tidw p f a b => enc32 48 p (f.toNat * 2 ^ 14 + a.enc * 2 ^ 7 + b.enc)
  | .agw p n a f => enc32 49 p (n.toNat * 2 ^ 17 + a.enc * 2 ^ 7 + f.toNat)
  | .flgs x => x.enc 50
  | .flgc x => x.enc 51
  | .partner x => x.enc 52
  | .krd x => x.enc 56
  | .kwrDiestateFence x => x.enc 57
  | .kwrDiestateReset x => x.enc 57
  | .kwrDiestateAdmit x => x.enc 57
  | .kwrTqctl x => x.enc 57
  | .kwrArrctr x => x.enc 57
  | .kwrBarctl x => x.enc 57
  | .tlbinv x => x.enc 58
  | .ctxsv x => x.enc 59
  | .ctxrs x => x.enc 60
  | .lkmw x => x.enc 61
  | .rtbw x => x.enc 62
  | .cnop p => enc32 0 p 0
  | .br p o => enc32 1 p o.toNat
  | .jmp p r => enc32 2 p (r.toNat * 2 ^ 15)
  | .call p o => enc32 3 p o.toNat
  | .ret p => enc32 4 p 0
  | .loop p r s e => enc32 5 p (r.toNat * 2 ^ 15 + s.toNat * 2 ^ 12 + e.toNat)
  | .bloop p r e => enc32 6 p (r.toNat * 2 ^ 15 + e.toNat)
  | .wait p r a => enc32 7 p (r.toNat * 2 ^ 15 + bitVal a * 2 ^ 14)
  | .brf p f s o => enc32 8 p (f.toNat * 2 ^ 16 + bitVal s * 2 ^ 15 + o.toNat)
  | .brsw p a => enc32 9 p a.toNat
  | .ifence p => enc32 10 p 0
  | .trap p c => enc32 11 p c.toNat
  | .tret p => enc32 12 p 0
  | .halt p c => enc32 13 p c.toNat
  | .mwait p r => enc32 14 p (r.toNat * 2 ^ 15)
  | .sleept p => enc32 15 p 0
  | .kcall p => enc32 16 p 0
  | .brkpt p => enc32 17 p 0
  | .eret p => enc32 32 p 0
  | .kstopKill p c => enc32 33 p c.toNat
  | .kstopFault p c => enc32 33 p (2 ^ 16 + c.toNat)
  | .kstopDesched p c => enc32 33 p (2 ^ 17 + c.toNat)
  | .lnop p => enc40 0 p 0
  | .ld x => x.enc 1
  | .st x => x.enc 2
  | .ldro x => x.enc 3
  | .ldsp x => x.enc 4
  | .stsp x => x.enc 5
  | .vld x => x.enc 6
  | .vst x => x.enc 7
  | .vldx x => x.enc 8
  | .vstx x => x.enc 9
  | .atom x => x.enc 10
  | .cas x => x.enc 11
  | .red x => x.enc 12
  | .heapins x => x.enc 13
  | .fenceAcq x => x.enc 1
  | .fenceRel x => x.enc 2
  | .fenceAcqrel x => x.enc 3
  | .fenceSc x => x.enc 4
  | .fenceRo p => enc40 14 p 2
  | .mon p b => enc40 15 p (b.toNat * 2 ^ 16)
  | .monOff p b => enc40 15 p (b.toNat * 2 ^ 16 + 2 ^ 15)
  | .copy p b => enc40 16 p (b.toNat * 2 ^ 16)
  | .take x => x.enc 17
  | .enqt x => x.enc 18
  | .enqtClose x => x.enc 18
  | .arrive x => x.enc 19
  | .arriveSet x => x.enc 19
  | .barinit x => x.enc 20
  | .bararv x => x.enc 21
  | .lktxn x => x.enc 22 0
  | .lkacq x => x.enc 23 0
  | .lkup x => x.enc 24 0
  | .lkdn x => x.enc 25 0
  | .lkrel x => x.enc 26 0
  | .lkrelAll x => x.enc 26 1
  | .lkabt x => x.enc 27 0
  | .lkqry x => x.enc 28 0
  | .enql x => x.enc 29
  | .vnop p => enc40 0 p 0
  | .vadd x => x.enc 1
  | .vsub x => x.enc 2
  | .vmul x => x.enc 3
  | .vfma x => x.enc 4
  | .vfms x => x.enc 5
  | .vmin x => x.enc 6
  | .vmax x => x.enc 7
  | .vabs x => x.enc 8
  | .vneg x => x.enc 9
  | .vand x => x.enc 10
  | .vor x => x.enc 11
  | .vxor x => x.enc 12
  | .vshl x => x.enc 13
  | .vshr x => x.enc 14
  | .vsra x => x.enc 15
  | .vcmp x => encV 16 x.p x.k x.ws (x.c.toNat * 2 ^ 3 + x.d.toNat) x.a.enc x.b.enc x.ty.enc
  | .vsel x => x.enc 17
  | .vmov x => x.enc 18
  | .vbcast x => encV 19 x.p x.k x.ws x.d.toNat x.a.enc 0 x.ty.enc
  | .viota x => x.enc 20
  | .vexp2 x => x.enc 21
  | .vlog2 x => x.enc 22
  | .vrcp x => x.enc 23
  | .vrsq x => x.enc 24
  | .vrsum x => x.enc 25
  | .vrmax x => x.enc 26
  | .vrmin x => x.enc 27
  | .vargmax x => x.enc 28
  | .vscan x => x.enc 29
  | .vperm x => x.enc 30
  | .vrotl x => x.enc 31
  | .vcvt x => encV 32 x.p x.k x.ws x.d.toNat x.a.enc 0 x.c.toNat
  | .vpack x => x.enc 33
  | .vunpk x => encV 34 x.p x.k x.ws x.d.toNat x.a.enc (96 + bitVal x.h) x.ty.enc
  | .vout x => encV 35 x.p x.k false x.y.toNat x.a.enc 0 x.ty.enc
  | .kand x => x.enc 36
  | .kor x => x.enc 37
  | .knot x => x.enc 38
  | .kpopc x => x.enc 39
  | .vexts x => encV 40 x.p 0#3 x.ws x.d.toNat x.a.enc x.b.enc x.ty.enc
  | .vinss x => encV 41 x.p 0#3 x.ws x.d.toNat x.a.enc x.b.enc x.ty.enc
  | .vmulh x => x.enc 42
  | .vadds x => x.enc 43
  | .vsubs x => x.enc 44
  | .mnop p => enc32 0 p 0
  | .mpush x s => x.enc 1 s.enc
  | .mpushw x => x.enc 2 0
  | .mswapw x => x.enc 3 0
  | .mmul x s => x.enc 4 s.enc
  | .macc x s => x.enc 5 s.enc
  | .mdrain x d => x.enc 6 d.enc
  | .mclr x => x.enc 7 0
  | .tnop p => enc32 0 p 0
  | .texp x => x.enc 1
  | .tqnt x => x.enc 2
  | .tcvt x => x.enc 3
  | .ttrni x => x.enc 4
  | .ttrno x => x.enc 5
  | .xnop p => enc48 0 p 0
  | .xch x => x.enc 1 0
  | .xcb x => x.enc 2 0
  | .xsib x => x.enc 3 0
  | .xring x => x.enc 4 0
  | .xsend x => x.enc 5 0
  | .xrecv x => x.enc 6 0
  | .xfan x => x.enc 7 0
  | .xbar x => x.enc 8 0
  | .xbarSwap x => x.enc 8 1
  | .chw x => x.enc 9 0
  | .resultLanding => 0
  | .landingDataArrival _ => 0
  | .freezeWatchdogExpiry => 0
  | .yieldBoundExpiry => 0
  | .waitBundle => 0
  | .yieldPoint => 0
  | .bundleBreakpoint => 0
  | .illfetch => 0
  | .literalFetch => 0
  | .tepcWrite _ => 0
  | .portFetch _ => 0
  | .portVectorArrival _ => 0
  | .outputPortWrite _ => 0
  | .refreshWindow => 0
  | .statRecordWrite => 0
  | .pushRowLand => 0
  | .planeSwap => 0
  | .accRowClear => 0
  | .beatUpdate => 0
  | .transposerBlockOutput => 0
  | .copyStart _ _ => 0
  | .copyComplete _ => 0
  | .engineCompletion _ => 0
  | .takeDeliver _ => 0
  | .woundDelivery => 0
  | .wgraceExpiry _ => 0
  | .exchangePairing _ _ => 0
  | .exchangeComplete _ => 0
  | .xfanArrival _ _ _ => 0
  | .swapDecision _ _ => 0
  | .backlogStore _ => 0
  | .linkDetour _ _ _ => 0
  | .storeAcknowledge _ => 0
  | .releaseComplete => 0
  | .directoryRequest _ => 0
  | .strongAccessPerform _ => 0
  | .mwaitTimeout => 0
  | .pageWalk _ => 0
  | .faultRecordWrite => 0
  | .frctlWrite _ => 0
  | .fransRetry _ => 0
  | .fransKill _ => 0
  | .fransAbort _ => 0
  | .migrationStart => 0
  | .migrationDone _ => 0
  | .dieResetDone => 0
  | .uncorrectableError _ => 0
  | .launchEnqueue _ _ _ => 0
  | .launchSelect => 0
  | .agePromotion _ => 0
  | .launchReadyReport _ _ => 0
  | .startTimeBroadcast _ _ => 0
  | .gangStart _ _ => 0
  | .saveComplete => 0
  | .completionAction _ => 0
  | .kcEnqueue => 0
  | .kcYield => 0
  | .kcTqopen => 0
  | .kcBarreset => 0
  | .kcRegion => 0
  | .retopo => 0
  | .relight => 0
  | .partnew => 0
  | .partend => 0
  | .portDrained _ => 0
  | .drainTimeout _ => 0
  | .portGoDark _ => 0
  | .darkusExpiry _ => 0
  | .lanesTrained _ => 0
  | .trainingTimeout _ => 0
  | .identityFlit _ _ _ _ => 0
  | .verifyTimeout _ => 0
  | .linkErrorBudgetExceeded _ => 0
  | .flitReplay => 0
  | .timeSyncExchange _ _ _ _ _ => 0
  | .timeHold => 0
  | .bar2Access _ _ _ _ _ => 0
  | .functionLevelReset _ => 0
  | .powerOn _ _ _ _ _ => 0
  | .mext _ => 0
  | .attcmdGo => 0
  | .attestationReportDone => 0
  | .clockStepDown _ => 0
  | .clockStepUp => 0
  | .thermalFence => 0
  | .correctedError => 0
  | .stackReadmission _ => 0
  | .admissionComplete _ _ => 0
  | .unassignedOpcode => 0
  | .emptyBundle => 0
  | .unassignedManagementOpcode => 0

end Sys2Proof
end

