-- ==== Sys2Proof/Machine/DieState.lean ====
section
/-! DEFINITION. The state of one C-die: its stream, its registers, tables, arrays and everything in
flight (chapters 02, 03, 05, 10, 11, 18). All of it is plain data. -/
namespace Sys2Proof.Machine

/-- The register a result is written to, by physical number fixed at issue (R52); `none` for a result
that R54 discards. -/
inductive Dest where
  | none
  | s (r : Nat)
  | kbs (r : Nat)
  | p (r : Nat)
  | kbp (r : Nat)
  | v (r : Nat)
  | k (r : Nat)
deriving DecidableEq, Repr

/-- A fixed-latency result in flight (R27, R28). -/
structure Due where
  /-- The landing cycle. -/
  land : Nat
  /-- The issue cycle. -/
  issue : Nat
  dest : Dest
  /-- `WS` suppresses the register write; the result still lands in its latch (R48, R162). -/
  drop : Bool
  /-- The lanes of a vector destination, or the bits of a mask, that are written (R55, R187). -/
  lanes : Mask
  /-- The value: bits [63:0] of a scalar result, bit 0 of a predicate, bits [511:0] of a mask. -/
  value : Vec
  /-- The latch the result lands in (R48). -/
  latch : Option Nat
  /-- `STATUS` bits set at landing (R89). -/
  status : BitVec 10
  /-- Statistics records of the result (R73). -/
  stats : List (BitVec 128)
  /-- The copies into the instruction banks whose flags an `SRD` of `FLG` has sampled set: its landing observes their
  completions (R134). -/
  shows : List Nat
deriving DecidableEq, Repr

/-- What a landing request came back with. -/
inductive Reply where
  | waiting
  | data (w : Word)
  /-- The read raced (R146): line address, writer agent. -/
  | race (line : Nat) (agent : Nat)
  /-- An uncorrectable error or a fenced stack (R401, R402). -/
  | bad (line : Nat)
deriving DecidableEq, Repr

/-- A landing-buffer entry (R29-R31). -/
structure Landing where
  /-- The request that fills it. -/
  id : Nat
  land : Nat
  issue : Nat
  dest : Dest
  drop : Bool
  latch : Nat
  reply : Reply
  /-- It is waiting on a fault that the fault service has reported (R34). -/
  faulted : Bool
deriving DecidableEq, Repr

/-- A pending transfer of control (R50): its target, the delay bundles left, and whether it is `BRSW`. -/
structure Transfer where
  target : Nat
  left : Nat
  swap : Bool
deriving DecidableEq, Repr

/-- A hardware loop level (R51, R213, R214). -/
structure Loop where
  /-- A `BLOOP` level. -/
  table : Bool
  /-- First body bundle and end bundle. -/
  first : Nat
  last : Nat
  /-- `LOOP`: iterations remaining; `BLOOP`: the index *i*. -/
  remain : Nat
  /-- Stages - 1; 0 for `BLOOP`. -/
  stages : Nat
  /-- `LOOP`: the count *n*; `BLOOP`: the table offset *T*. -/
  base : Nat
  /-- Index of the running iteration. -/
  iter : Nat
deriving DecidableEq, Repr

/-- The snapshot buffer (R43); results carry their tags in `land`, landings their remaining offsets. -/
structure Snapshot where
  results : List Due
  landings : List Landing
  q : Store Vec
  qv : Store Bool
  transfer : Option Transfer
  done : BitVec 10
  /-- Vectors that done slots of the wait bundle have popped (R222). -/
  popped : Store Vec
  /-- A group switch still to fall at the resumed bundle's issue (R49). -/
  switch : Bool
  /-- The resumed bundle issues with `D` ignored (R159). -/
  dskip : Bool
  /-- The cycle of the trap, and the first die clock cycle of the handler, against which held pipelines are kept. -/
  cycle : Nat
  clk : Nat
deriving DecidableEq, Repr

/-- The level of R343. -/
inductive Level where
  | user
  | kernel
deriving DecidableEq, Repr

/-- What the stream of a socket is doing. -/
inductive Run where
  /-- No kernel is on the die. -/
  | idle
  /-- A kernel's stream issues or is frozen. -/
  | running
  /-- `TRET` or `ERET` is inserting empty bundles until handler work has landed (R46, R348). -/
  | returning
  /-- A taken yield point or wait bundle is saving (R378). -/
  | saving
deriving DecidableEq, Repr

/-- What a stream waits for after its bundle has issued (R216). -/
inductive Sleep where
  | none
  /-- `MWAIT` with the cycles left. -/
  | monitor (left : Nat)
  /-- `SLEEPT` with the flags that stood when it began. -/
  | flags (old : BitVec 32)
deriving DecidableEq, Repr

/-- A trap raised while a bundle is issued (R171, R346). -/
structure TrapInfo where
  cause : Nat
  info0 : Word
  info1 : Word
deriving DecidableEq, Repr

/-- Why a bundle does not issue yet (R34). -/
inductive Hold where
  | landingBuffer
  | port
  | refresh
  | release
  /-- The release of `HALT`, whose earlier steps have taken place (R220). -/
  | ending
  | acquire
  | service
  | context
deriving DecidableEq, Repr

/-- The causes R34 calls involuntary, which the watchdog counts (R36). -/
def Hold.involuntary : Hold → Bool
  | .landingBuffer | .context => false
  | _ => true

/-- The state of the bundle now issuing, seen by every meaning. -/
structure Issue where
  /-- The slot that runs. -/
  slot : Slot
  /-- The bundle is a wait bundle (R37). -/
  wait : Bool
  /-- The bundle is a delay bundle of a pending transfer (R212). -/
  delay : Bool
  /-- The index address that follows the bundle in code (R155). -/
  nextPc : Nat
  /-- The number of the bundle's first request or engine operation: those below it are earlier in po (R130). -/
  first : Nat
  /-- The bits of the slot's word (R346 `TINFO0`). -/
  bits : Nat
  /-- Some other valid slot stands in the bundle (R219). -/
  shared : Bool
  /-- The bundle's L slot is valid (R74). -/
  lBusy : Bool
  /-- The trap the slot raised. -/
  trap : Option TrapInfo
  /-- The freeze the slot asks for. -/
  hold : Option Hold
  /-- The slot of a wait bundle is not done. -/
  undone : Bool
  /-- The bundle ends the stream's stay in this level or on the die; no sequencing follows. -/
  leaves : Bool
  /-- The vectors the bundle has taken from the input ports (R222). -/
  popped : Store Vec
  /-- Scratchpad banks whose ports the die clock cycle has used (R107). -/
  banks : List Nat
  /-- `STATUS` bits that hardware has set in the die clock cycle (R70). -/
  raised : BitVec 10
  /-- `STATUS` bits that a write of `STATUS` has cleared in the die clock cycle: it acts from the next one on (R68,
  R70). -/
  cleared : BitVec 10
deriving DecidableEq, Repr

/-- A write that takes effect at the end of the issue cycle (R61, R65, R68, R203-R207). -/
inductive Later where
  | sreg (n : Nat) (v : Word)
  | shape (eng reg field : Nat) (v : BitVec 32)
  | cursor (eng reg copy field : Nat) (v : BitVec 32)
  | tensor (id field : Nat) (v : BitVec 64)
  | ag (set field : Nat) (v : BitVec 32)
  | flagSet (m : BitVec 32)
  | flagClear (m : BitVec 32)
  | spWrite (a : Int) (bytes : List Byte)
  | pred (phys : Nat) (b : Bool)
  | status (bits : BitVec 10)
  | oob (off : Int)
  | rclamp (eng reg : Nat) (limit : BitVec 32)
  /-- A write of `FLG` or `FLGERR` that an earlier evaluation of the wait bundle has made (R207). -/
  | applied (n : Nat)
deriving DecidableEq, Repr

/-- An input port (R60): the vectors fetched and not read, with the die clock they are present at; the
place in the sequence of the next fetch. -/
structure InPort where
  armed : Bool
  drained : Bool
  set : Nat
  base : Int
  weight : Bool
  cnt : List Nat
  str : List Int
  /-- Addresses fetched, addresses read. -/
  fetched : Nat
  read : Nat
  /-- Die clock from which a fetch may go. -/
  from_ : Nat
  queue : List (Nat × Vec)
deriving DecidableEq, Repr

/-- A vector on its way to an output port (R60, R236): the cycle it lands at, its scratchpad address,
and whether it holds the last address of its arming. -/
structure OutVec where
  port : Nat
  /-- The issue cycles in which it was sent and in which it lands. -/
  sent : Nat
  land : Nat
  addr : Int
  value : Vec
  last : Bool
  /-- The arming it was sent under. -/
  arming : Nat
  /-- It has landed; the port writes it in the next die clock cycle. -/
  landed : Bool
deriving DecidableEq, Repr

/-- An output port (R60). -/
structure OutPort where
  armed : Bool
  drained : Bool
  set : Nat
  base : Int
  cnt : List Nat
  str : List Int
  given : Nat
  arming : Nat
deriving DecidableEq, Repr

/-- Work in the matrix pipelines (chapter 11), landing in the order of R252. -/
inductive MWork where
  /-- A row of weights lands in the shadow plane, and with the first row of a group its 512 scale
  records (R254). -/
  | push (unit row : Nat) (bytes : BitVec 4096) (scales : Option (Nat × BitVec 8192))
  /-- The planes exchange. -/
  | swap (unit : Nat)
  /-- An accumulator row is cleared. -/
  | clear (unit row : Nat)
  /-- A beat updates an accumulator row with the totals of its columns below `next`, adding to the row
  when `acc`; the flags each column's total raised (R257, R260). -/
  | beat (unit row next : Nat) (acc : Bool) (total : Vec) (flags : Store (BitVec 10))
      (issue pc slot : Nat)
deriving DecidableEq, Repr

/-- An entry of a matrix pipeline. -/
structure MDue where
  land : Nat
  work : MWork
deriving DecidableEq, Repr

/-- A scale record on its way to scratchpad (R243). -/
structure ScaleDue where
  sent : Nat
  land : Nat
  addr : Int
  bytes : List Byte
  /-- The element index lies within the entry; otherwise the record is dropped. -/
  keep : Bool
deriving DecidableEq, Repr

/-- The transposer (R244-R246): rows 0-15 of a 32-bit block being loaded; completed blocks with the
cycle each becomes the output block and its width code; the output block; the output half count. -/
structure Transposer where
  part : Option Vec
  pipe : List (Nat × Nat × BitVec 32768)
  out : Option (Nat × BitVec 32768)
  half : Bool
deriving DecidableEq, Repr

/-- A word of an instruction bank as it was before a copy wrote it (R217). -/
structure OldWord where
  word : Nat
  old : BitVec 16
  /-- The copy that wrote it; its flag once it is complete; and whether the stream has observed that (R134). -/
  copy : Nat
  flag : Option Nat
  seen : Bool
deriving DecidableEq, Repr

/-- A line of the L1 (R109): its bytes, which of them are written and not yet written back, and the bank
of the array it was filled into (R436). [DEDUCED, log 19] -/
structure L1Line where
  data : BitVec 1024
  dirty : BitVec 128
  bank : Nat
deriving DecidableEq, Repr

/-- The registers of a stream (03). Registers are held by physical number. -/
structure Regs where
  s : Store Word
  p : Store Bool
  v : Store Vec
  k : Store Mask
  /-- The K bank (R345). -/
  kbs : Store Word
  kbp : Store Bool
  /-- The bypass latches and which are valid (R48, R49). -/
  q : Store Vec
  qv : Store Bool
deriving DecidableEq, Repr

/-- The special registers of a die (R14, R32, R47, R69, R351, R431). -/
structure Sregs where
  rank : BitVec 24
  ndim : BitVec 5
  dmaplo : BitVec 60
  dmaphi : BitVec 60
  scbase : BitVec 24
  scmask : BitVec 24
  present : BitVec 24
  cycle : Word
  frozen : Word
  spsize : BitVec 26
  kernid : BitVec 32
  regionid : BitVec 32
  statlost : Word
  yskip : Word
  conflict : Word
  txn : Word
  tcause : BitVec 8
  tinfo0 : Word
  tinfo1 : Word
  tmask : BitVec 10
  tepc : BitVec 15
  flg : BitVec 32
  flgerr : BitVec 32
  status : BitVec 10
  oobaddr : BitVec 26
  rclampEng : BitVec 2
  rclampReg : BitVec 2
  rclampVal : BitVec 32
  fpmode : BitVec 3
  atland : BitVec 7
  uhandler : BitVec 15
  umask : BitVec 2
  statbase : BitVec 22
  staten : BitVec 16
  statsize : BitVec 16
  stattail : BitVec 16
  stathead : BitVec 16
  ysave : BitVec 56
  monstat : BitVec 3
  rotbase : BitVec 5
  kstat : BitVec 8
  kvec : BitVec 12
  freezemax : BitVec 32
  partid : BitVec 16
  rcbaddr : BitVec 57
  msel : BitVec 3
deriving DecidableEq, Repr

/-- The stream's control state (02). -/
structure Ctl where
  run : Run
  /-- The die clock edge of the kernel's first bundle (R25). -/
  start : Nat
  level : Level
  pc : Nat
  /-- The active instruction bank (R156). -/
  bank : Bool
  loops : List Loop
  transfer : Option Transfer
  snapshot : Option Snapshot
  /-- The wait bundle's done slots while it is not complete (R37). -/
  waiting : Option (BitVec 10)
  /-- The wait bundle at `pc` has taken its issue cycle (R37). -/
  issued : Bool
  /-- Vectors popped in earlier evaluations of the wait bundle (R222). -/
  popped : Store Vec
  /-- What the `SRD` slots of the wait bundle sampled in its issue cycle, by slot, with the copies into the instruction
  banks that a sample of `FLG` shows (R38, R134, R203). -/
  samples : List (Nat × Word × List Nat)
  /-- The words of topology tables that the back edges of the wait bundle read in its issue cycle, by scratchpad offset
  (R214). -/
  tables : List (Nat × Nat)
  /-- The bundle fetched and not yet issued: its bits, the index address after it, whether it is a
  literal (R153). -/
  fetched : Option (Nat × Nat × Bool)
  /-- Fixed freeze cycles left before the bundle at `pc` (R34). -/
  stall : Nat
  /-- How many of the last of those are conflict cycles, which `CONFLICT` counts as they pass (R34, R56, R107). -/
  clash : Nat
  /-- The fixed costs of the bundle at `pc` that have been taken (R35): 1 the literal fetch and the
  register ports, 2 the scratchpad ports too. -/
  paid : Nat
  /-- Frozen cycles of the bundle at `pc` beside its fixed costs (R35). -/
  waited : Nat
  sleep : Sleep
  /-- Consecutive frozen cycles with an involuntary or fixed cause (R36). -/
  watchdog : Nat
  /-- Issue cycles since the last yield point or wait bundle (R41). -/
  yieldCount : Nat
  /-- A group switch falls at the next issue (R49). -/
  switch : Bool
  /-- The next bundle issues with `D` ignored (R348). -/
  dskip : Bool
  /-- The kernel's own yield bound (R363 `BOUND`). -/
  bound : Nat
  /-- A pre-emption request is pending (R372). -/
  preempt : Bool
  /-- The wounds that have fallen due and are not yet delivered, the oldest first (R45, R324): transaction, lock name. -/
  wounds : List (Word × Word)
  /-- The oldest refused store not yet reported (R147): its request, line, agent; and the count. -/
  refused : Option (Nat × Nat × Nat × Nat)
  /-- The status `HALT` or `KSTOP` left. -/
  endStatus : BitVec 16
  /-- The bundle at `pc` waits for its release, and the release has completed (R137). -/
  releasing : Bool
  released : Bool
  /-- The code of an uncorrectable error the stream will meet at its next waiting bundle (R401). -/
  dataErr : Option Word
  /-- The status of an error in the die's own arrays, met by the next bundle (R401). -/
  arrayErr : Bool
deriving DecidableEq, Repr

/-- The tables of a die (03). -/
structure Tables where
  /-- Address-generator fields, key 16 * set + field (R58). -/
  ag : Store (BitVec 32)
  inp : Store (Option InPort)
  outp : Store (Option OutPort)
  outq : List OutVec
  armings : Nat
  /-- Shape records (R63), key ((engine * 4 + register) * 2 + copy) * 16 + field; engines 0 `ma`, 1 `mb`,
  2 `ta`, 3 `xa`. -/
  shape : Store (BitVec 32)
  /-- Which copy is active, key engine * 4 + register. -/
  shapeSel : Store Bool
  tid : Store (BitVec 512)
  chan : Store (BitVec 512)
deriving DecidableEq, Repr

/-- The arrays of a die (05, 11). -/
structure Arrays where
  sp : Store Byte
  ws : Store Byte
  /-- IB0 and IB1, by index address (R153). -/
  ib : Store (BitVec 16)
  /-- Words of the banks that copies have written and no `IFENCE` has made certain (R217), the last written
  first. -/
  ibOld : List OldWord
  dict : Store (BitVec 384)
  dictN : Nat
  /-- The runtime bank and dictionary (R344). -/
  rbank : Store (BitVec 16)
  rdict : Store (BitVec 384)
  rdictN : Nat
  /-- Weight planes, key (unit * 2 + plane) * 512 + row, and their scale records (R247), key
  (unit * 2 + plane) * 32 + group. -/
  plane : Store (BitVec 4096)
  scale : Store (BitVec 8192)
  /-- Which plane of a unit is active. -/
  planeSel : Store Bool
  /-- Accumulators, key unit * 2048 + row. -/
  acc : Store Vec
  trans : Transposer
deriving DecidableEq, Repr

/-- The pipelines of a die. -/
structure Pipes where
  due : List Due
  landings : List Landing
  mdue : List MDue
  scales : List ScaleDue
  statq : List (BitVec 128)
  /-- Writes that take effect at the end of the issue cycle, with the slot number of each. -/
  next : List (Nat × Later)
deriving DecidableEq, Repr

/-- The caches and the monitor of a die (05, 12). -/
structure Caches where
  l1 : Store (Option L1Line)
  /-- Lines the read-only path holds (R114), by line number. -/
  ro : Store (Option (BitVec 1024))
  /-- The monitored physical line, when one is registered (R274). -/
  mon : Option Nat
  monArming : Option Nat
  /-- The virtual address that armed it. -/
  monVa : Int
deriving DecidableEq, Repr

/-- One C-die. -/
structure Die where
  regs : Regs
  sr : Sregs
  ctl : Ctl
  tab : Tables
  arr : Arrays
  pipe : Pipes
  cache : Caches
  iss : Issue
deriving DecidableEq, Repr

end Sys2Proof.Machine
end

