-- ==== Sys2Proof/Machine/PkgState.lean ====
section
/-! DEFINITION. The state of the package outside the C-dies: memory, directory, requests, engines,
scheduler, fault service, links, host bridge, firmware (chapters 05, 06, 12, 19-22). -/
namespace Sys2Proof.Machine

/-- Memory: address and byte pairs in the canonical form of `Store` (addresses strictly rising, no
entry equal to what an unlisted address reads as). -/
abbrev Memory := List Host.Cell

/-- What a byte of memory that nothing has written reads as (DESIGN CHOICE: the spec gives memory no
contents at power-on; log 2). [DESIGN CHOICE, log 2] -/
def Memory.empty : Byte := 0#8

/-- The canonical form of memory. [DESIGN CHOICE, log 2] -/
def Memory.wf (m : Memory) : Bool := Store.wf Memory.empty m

/-- The race tag of a 128-byte line (R142). -/
structure Tag where
  agent : Nat
  region : Nat
deriving DecidableEq, Repr

/-- The tag of every line at reset, and of published inbound writes (R142). -/
def Tag.published : Tag := ⟨0xFE, 0⟩

/-- A strong write that changed a location: the value it replaced may still be what a reader that nothing orders after it
reads (R141). Its line, its location, that value; the dies that have it in their past or have met its line, and the lines
whose strong accesses may tell others of it. [DEDUCED, log 18] -/
structure Late where
  line : Nat
  pa : Nat
  size : Nat
  old : Nat
  aware : List Nat
  carriers : List Nat
deriving DecidableEq, Repr

/-- The kinds of memory request (R128). -/
inductive ReqKind where
  | load | loadRo | store | atom | cas | red | heap | krd | kwr | monitor
  /-- The access of `CTXSV` or `CTXRS` to its image. -/
  | context
deriving DecidableEq, Repr

/-- How far a request has come. -/
inductive ReqStage where
  /-- Not yet translated. -/
  | issued
  /-- Held by the fault service (R390), or waiting on a migrating page (R404). -/
  | held
  /-- Translated, not yet performed. -/
  | walked
  /-- Performed; the reply or acknowledgement is on its way. -/
  | performed
deriving DecidableEq, Repr

/-- A translated address (R385, R386). -/
structure Phys where
  pa : Nat
  host : Bool
  ms : Bool
  mig : Bool
  writable : Bool
deriving DecidableEq, Repr

/-- A memory or control-space request of a die. -/
structure Req where
  id : Nat
  sock : Nat
  part : Nat
  kern : Nat
  region : Nat
  kind : ReqKind
  va : Int
  size : Nat
  stage : ReqStage
  phys : Option Phys
  /-- The operand; the expected value of `CAS`. -/
  data : Word
  /-- The new value of `CAS`. -/
  data2 : Word
  op : Nat
  scope : Nat
  order : Nat
  /-- The counter of a `RED` with `ARV` (R271). -/
  arv : Option Nat
  reply : Reply
  /-- A racing store that was refused (R147). -/
  refused : Option (Nat × Nat)
deriving DecidableEq, Repr

/-- An entry of a TLB (R388): tagged by partition and page size. -/
structure TlbEntry where
  part : Nat
  page : Nat
  size : Nat
  phys : Phys
deriving DecidableEq, Repr

/-- Who made a request that the fault service holds: a stream, a copy, a launch that is prepared, a remote copy of
another package. -/
inductive Waiter where
  | request (id : Nat)
  | engine (id : Nat)
  | launch (id : Nat)
  | inbound (id : Nat)
deriving DecidableEq, Repr

/-- A write of a remote copy of another package (R124): its number here, the package and the operation that made it,
partition, socket, kernel and region of the requester, its place among the operation's writes over links (R308), its address and bytes; the driver has aborted it (R393). -/
structure Inbound where
  id : Nat
  sender : Nat
  op : Nat
  index : Nat
  part : Nat
  sock : Nat
  kern : Nat
  region : Nat
  va : Int
  bytes : List Byte
  aborted : Bool
deriving DecidableEq, Repr

/-- A partition command whose packages have not all acknowledged (R421): its bytes, its status so far, the packages it
went to, those that are left, those that have agreed to it; whether all have, and it is being carried out. -/
structure PartCmd where
  bits : BitVec 512
  status : Nat
  packages : List Nat
  left : List Nat
  agreed : List Nat
  commit : Bool
deriving DecidableEq, Repr

/-- An access of the host through BAR2 (R424): the package whose bridge brought it, the function, its partition (none for
the PF), the address in the window's space, the bytes of a write, the length of a read. -/
structure WindowOp where
  bridge : Nat
  fn : Nat
  part : Option Nat
  write : Bool
  addr : Nat
  bytes : List Byte
  len : Nat
deriving DecidableEq, Repr

/-- An outstanding fault record (R391, R392). -/
structure FaultRec where
  /-- The ring index once it is written. -/
  index : Option Nat
  part : Nat
  page : Nat
  va : Word
  access : Nat
  cause : Nat
  sock : Nat
  kern : Nat
  region : Nat
  joined : Nat
  /-- It is one of the 256 records; otherwise its requests wait unrecorded (R392). -/
  recorded : Bool
  seq : Nat
  time : Word
  waiters : List Waiter
deriving DecidableEq, Repr

/-- A tile (R278): its sequence number and the moment it became eligible. -/
structure Tile where
  seq : Nat
  payload : BitVec 384
  ctr : Nat
  target : Nat
  /-- The control block its queue entry is charged to (R360). -/
  rcb : Nat
  moment : Option Nat
deriving DecidableEq, Repr

/-- A tile taken by a die (for requeueing under R23). -/
structure Taken where
  sock : Nat
  kern : Nat
  pair : Nat
  high : Bool
  tile : Tile
deriving DecidableEq, Repr

/-- The region that owns an object, with its partition: a region number is unique within one (R353, R360); region 0 is
nobody. -/
structure Owner where
  part : Nat
  region : Nat
deriving DecidableEq, Repr

def Owner.none : Owner := ⟨0, 0⟩

/-- A tile pair (R278, R353). -/
structure TilePair where
  closed : Bool
  owner : Owner
  nextSeq : Nat
  high : List Tile
  low : List Tile
  /-- Pending `TAKE` operations, in the order Brocade received them. -/
  takers : List Nat
deriving DecidableEq, Repr

/-- An arrival counter (R280, R398). -/
structure Counter where
  value : BitVec 32
  owner : Owner
  token : Bool
deriving DecidableEq, Repr

/-- A barrier (R281, R282, R399). -/
structure Barrier where
  expected : Nat
  scope : Nat
  init : Bool
  /-- The region whose kernel initialised it. -/
  owner : Owner
  /-- Operations waiting in the phase. -/
  waiting : List Nat
  /-- Participants counted by the barrier (16 * kernel + socket), and those abandoned. -/
  counted : List Nat
  abandoned : List Nat
  /-- Participants that have arrived in the phase. -/
  arrived : List Nat
deriving DecidableEq, Repr

/-- The objects that have no owner and nothing in them. -/
def TilePair.fresh : TilePair := ⟨false, Owner.none, 0, [], [], []⟩
def Counter.fresh : Counter := ⟨0#32, Owner.none, false⟩
def Barrier.fresh : Barrier := ⟨0, 0, false, Owner.none, [], [], [], []⟩

/-- What a launch packet and its descriptor say (R363, R366). -/
structure Packet where
  bits : BitVec 1024
deriving DecidableEq, Repr

/-- The state of a launch. -/
inductive LaunchStage where
  | queued
  | selected
  | ready
  | timed (t : Word)
  | running
  | descheduled
  | done
deriving DecidableEq, Repr

/-- What a package of a launch reports at the end (R376): its id, its code, its sockets that ended with `HALT` and the
statuses of its dies. -/
structure EndReport where
  pkg : Nat
  code : Nat
  halted : BitVec 16
  status : Store (BitVec 16)
deriving DecidableEq, Repr

/-- A launch of the package (R366-R377, R382). -/
structure Launch where
  id : Nat
  packet : BitVec 1024
  /-- 0 the host ring of the PF, n + 1 a kernel on socket n, 16 + v the ring of VF v; 33 + the package that replicated it.
  `kind` is what it was there. -/
  origin : Nat
  kind : Nat
  level : Nat
  region : Nat
  rcb : Nat
  part : Nat
  /-- The `PTIME` from which it is runnable, moved on by each promotion (R369, R373). Launches are listed by age. -/
  runnable : Option Nat
  stage : LaunchStage
  /-- Sockets reserved, running, ended. -/
  reserved : List Nat
  running : List Nat
  ended : List Nat
  saved : List Nat
  /-- Sockets of its dies that were fenced after the start (R304, R307). -/
  fenced : List Nat
  halted : BitVec 16
  status : Store (BitVec 16)
  code : Nat
  /-- Preparation reached so far waits on the fault service. -/
  faulted : Bool
  /-- A resume of a descheduled kernel. -/
  resume : Bool
  /-- `PTIME` at which it started here (R319). -/
  started : Nat
  /-- This package has reported ready; the other packages of its subcube have (R374). -/
  reported : Bool
  remoteReady : Bool
  /-- The packages that have reported so far; those whose dies are descheduled and wait for a common resumption (R382). -/
  readyFrom : List Nat
  awayFrom : List Nat
  /-- It holds a queue entry; the other packages in which it has started or never will (R367). -/
  qent : Bool
  startedFrom : List Nat
  /-- The origin's `PTIME` at enqueue (R374). -/
  when : Word
  /-- Its place in the order of selections (R371). -/
  sel : Nat
  /-- `KC_YIELD` has asked every die to leave (R350). -/
  yield : Bool
  /-- Ranks absent at gang start (R19, R306). -/
  absent : List Nat
  /-- What other packages have reported, in which every die of the kernel has ended (R376). -/
  farEnded : List EndReport
  /-- Dies of other packages that have ended, by global id, each with what its end is to an exchange: 8 ended, 9 fenced
  (R304, R307). -/
  gone : List (Nat × Nat)
deriving DecidableEq, Repr

/-- The privileged registers of the package (R351, R389, R411, R431). -/
structure PkgRegs where
  pkgid : BitVec 20
  ybound : BitVec 32
  wgrace : BitVec 32
  agep : BitVec 32
  detour : BitVec 5
  detour2 : BitVec 5
  rtact : Bool
  ptroot : Store (BitVec 64)
  frbase : BitVec 64
  frvec : BitVec 8
  frtail : BitVec 16
  frsize : BitVec 16
  frhead : BitVec 16
  migsrc : BitVec 64
  migdst : BitVec 64
  migcmd : BitVec 4
  errUncorr : BitVec 32
  errCorr : BitVec 32
  lostw : Bool
  swaplk : Bool
  armed : Bool
  hold : Bool
  gm : Bool
  /-- `PKGID` of the grandmaster (R417). -/
  gmid : BitVec 20
  parent : BitVec 5
  meas : Store (BitVec 256)
  hostMsel : BitVec 3
  attnonce : BitVec 64
  attaddr : BitVec 57
  attcmd : BitVec 4
  pwrcapEn : Bool
  pwrcap : BitVec 16
  mhz : BitVec 16
  pwrCause : BitVec 3
  fwver : BitVec 64
  bootCode : BitVec 8
  bootStep : BitVec 4
deriving DecidableEq, Repr

/-- The states of a port (R407). -/
inductive PortState where
  | up | draining | quiet | dark | training | verify | failed
deriving DecidableEq, Repr

/-- A link port (R406-R411). -/
structure Port where
  state : PortState
  nbr : BitVec 20
  retrain : BitVec 12
  /-- The bank whose entry `VERIFY` uses (R409). -/
  bank : Bool
  /-- It is held `DARK` until `RELIGHT`, or leaves it after `DARKUS` (R413). -/
  held : Bool
  /-- Nanoseconds of dark time that `RETOPO` asked for; none when no `RETOPO` has named the port (R408). -/
  dark : Option Nat
  /-- `PTIME` at which it entered its state. -/
  since : Nat
  /-- A `RETOPO` has named it since the last swap: the active bank's traffic does not use it (R413). -/
  lost : Bool
deriving DecidableEq, Repr

def Port.reset : Port := ⟨.dark, 0#20, 0#12, false, false, none, 0, false⟩

/-- A route-table write held while a swap is being decided (R414). -/
structure HeldRoute where
  bank : Bool
  dim : Nat
  entry : BitVec 64
deriving DecidableEq, Repr

/-- A `RETOPO` that has not completed (R413). -/
structure Retopo where
  /-- The package whose management ring it came from. -/
  sender : Nat
  tag : BitVec 16
  ports : List Nat
  hold : Bool
  darkReady : Bool
deriving DecidableEq, Repr

/-- A partition (R420, R421); it is not open while a command that makes it or ends it is under way. -/
structure Partition where
  id : Nat
  fn : Nat
  base : BitVec 24
  mask : BitVec 24
  root : Nat
  isOpen : Bool
deriving DecidableEq, Repr

/-- The states of a socket (R353, R400). -/
inductive SockState where
  | empty | admitting | active | fenced | resetting
deriving DecidableEq, Repr

/-- A value of a package register before its writer's release has completed (R352); `PTROOT` has one for each partition
(R389). -/
structure Unpublished where
  sock : Nat
  num : Nat
  part : Nat
  old : Word
deriving DecidableEq, Repr

/-- What `GO` snapshots for an attestation report (R433). -/
structure Report where
  nonce : Word
  time : Word
  meas : List (BitVec 256)
deriving DecidableEq, Repr

/-- A migration in progress (R405). -/
structure Migration where
  src : Nat
  dst : Nat
  bytes : Nat
deriving DecidableEq, Repr

/-- A lock transaction (R318, R319, R322, R325). -/
structure Txn where
  id : Word
  sock : Nat
  part : Nat
  kern : Nat
  region : Nat
  rcb : Nat
  age : Nat
  wounded : Bool
  /-- `PTIME` at which a wound's grace ends. -/
  graceEnd : Nat
  revoked : Bool
deriving DecidableEq, Repr

/-- A waiting request of a lock (R321). -/
structure LockWait where
  op : Nat
  txn : Word
  mode : Nat
  upgrade : Bool
deriving DecidableEq, Repr

/-- A lock of one partition's namespace (R314); the region it is charged to; holders with their modes. -/
structure Lock where
  part : Nat
  name : Word
  rcb : Nat
  holders : List (Word × Nat)
  queue : List LockWait
deriving DecidableEq, Repr

/-- Garnet (chapter 14): transactions, locks, a compatibility matrix for each partition, and the number
of transactions each kernel has opened on each socket, key 16 * kernel + socket; the grace that the next
wound is given (R325, R352). -/
structure Garnet where
  txns : List Txn
  locks : List Lock
  matrix : Store Word
  opened : Store Nat
  grace : Nat
deriving DecidableEq, Repr

/-- A tensor entry as an engine read it at issue, with the entry at the next id (R65). -/
structure Tensor where
  id : Nat
  bits : BitVec 512
  cont : BitVec 512
deriving DecidableEq, Repr

/-- A copy as read at issue (R117). -/
structure CopyJob where
  desc : BitVec 1024
  /-- The whole descriptor lies in the partition. -/
  inside : Bool
  src : Tensor
  dst : Tensor
  /-- The active instruction bank at issue (R113). -/
  bank : Bool
  ndim : Nat
  present : BitVec 24
  dim : Nat
deriving DecidableEq, Repr

/-- What an exchange has come to (R291, R310): its code and the elements written, the `STATUS` bits raised by
element, clamps of ADDSAT apart, and whether each half of a ring step is done. -/
structure XResult where
  code : Nat
  elems : Nat
  flags : Store (BitVec 10)
  sats : Store Bool
  sent : Bool
  got : Bool
deriving DecidableEq, Repr

/-- Nothing yet. -/
def XResult.none : XResult := ⟨0, 0, [], [], false, false⟩

/-- A package's part in a swap that is being decided (R414): its number, the kernel here and the name of its launch, the
mask and number of its phase, the package that decides, whether the swap holds `SWAPLK`, the vote, and the participants
present. It outlives the kernel. -/
structure Vote where
  id : Nat
  kern : Nat
  packet : BitVec 1024
  time : Word
  mask : Nat
  number : Nat
  decider : Nat
  holds : Bool
  yes : Bool
  elems : Nat
deriving DecidableEq, Repr

/-- Another package's vote on a swap (R414): the launch, the mask and number of the phase, the package, its vote. -/
structure FarVote where
  packet : BitVec 1024
  time : Word
  mask : Nat
  number : Nat
  sender : Nat
  yes : Bool
deriving DecidableEq, Repr

/-- An exchange-unit operation as formed at issue (R286). -/
structure Exchange where
  /-- X opcode 1-8 (R189); `XBAR.swap` has the swap bit. -/
  opcode : Nat
  swap : Bool
  ch : Nat
  dim : Nat
  comb : Nat
  bit : Nat
  back : Bool
  chan : BitVec 512
  n : Nat
  bnd : Nat
  sbase : Nat
  rbase : Nat
  stride : Nat
  gather : Option Tensor
  /-- The dimension mask of `XRING` and `XBAR`, the route word of `XFAN`. -/
  mask : Nat
  rank : Nat
  ndim : Nat
  /-- Physical dimensions of the logical ones. -/
  dmap : List Nat
  present : BitVec 24
  /-- Its place in the numbering of R289 or R302. -/
  number : Nat
  /-- The code of a check that failed at issue; 0 none. -/
  fail : Nat
  /-- Issue cycle and program counter of its bundle (R310). -/
  issue : Nat
  pc : Nat
  /-- This end as it was posted, with its block. -/
  own : Option RemoteEnd
  res : XResult
deriving DecidableEq, Repr

/-- An end of an exchange that another package has posted (R289, R302, R304), for the exchange of a number in one of
this package's numberings. -/
structure FarEnd where
  key : Nat
  number : Nat
  e : RemoteEnd
deriving DecidableEq, Repr

/-- What an engine operation does. -/
inductive EngineJob where
  | copy (c : CopyJob)
  | take (pair off : Nat)
  | enqt (pair off : Nat)
  | enqtClose (pair : Nat)
  | arrive (ctr : Nat) (v : BitVec 32)
  | arriveSet (ctr : Nat) (v : BitVec 32)
  | barinit (b n scope : Nat)
  | bararv (b : Nat)
  | enql (off : Nat)
  | lock (op : Nat) (mode : Nat) (name : Word) (age : Nat) (txn info : Word)
  | exchange (x : Exchange)
  | chw (ch off : Nat)
deriving DecidableEq, Repr

/-- How far an engine operation has come. -/
inductive EngineStage where
  /-- Accepted; it has acted on nothing. -/
  | sent
  /-- Begun: a copy in progress, a posted exchange, a pending take or arrival, a queued lock request. -/
  | begun
  /-- Stalled on the fault service (R390) or on an unpublished line (R148). -/
  | stalled
  /-- Done, with its result; its status word and flag remain to be written. -/
  | decided (code value : Nat)
deriving DecidableEq, Repr

/-- What a copy in progress has done (R119-R122): elements moved, the running CRC, destination bytes
written, the highest status code; writes sent over a link, and those answered (R124, R137). -/
structure Progress where
  moved : Nat
  crc : Nat
  bytes : Nat
  code : Nat
  sent : Nat
  acked : Nat
deriving DecidableEq, Repr

/-- Nothing yet. -/
def Progress.none : Progress := ⟨0, 0xFFFFFFFF, 0, 0, 0, 0⟩

/-- An engine operation outstanding (R276, R277). -/
structure Engine where
  id : Nat
  sock : Nat
  kern : Nat
  region : Nat
  part : Nat
  rcb : Nat
  flag : Nat
  /-- The issue cycle of its bundle. -/
  cycle : Nat
  /-- The scratchpad offset of the status word, when one is named. -/
  status : Option Nat
  job : EngineJob
  stage : EngineStage
  prog : Progress
  /-- The access that the fault service holds, and those of the present move that it has aborted: whether each writes, its
  address (R390, R393). -/
  held : Option (Bool × Nat)
  aborts : List (Bool × Nat)
  /-- The stream no longer takes its flag (R349). -/
  orphan : Bool
deriving DecidableEq, Repr

/-- A context image (R379), its contents as saved. -/
structure Image where
  /-- Its physical address; the pages it lies in, each with whether it is in host memory, where they do not
  simply follow. -/
  addr : Nat
  pages : List (Bool × Nat)
  /-- `CTXSV` wrote it: the saved point is the snapshot's (R355). -/
  byRuntime : Bool
  sock : Nat
  kern : Nat
  region : Nat
  die : Die
  /-- Where the free values of its version-defined regions begin (R379). -/
  base : Nat
  /-- Brocade's shadow of `FLG` and `FLGERR` (R380). -/
  flg : BitVec 32
  flgerr : BitVec 32
  /-- The kernel is away from its die and resumes from this image (R380). -/
  away : Bool
  /-- Its bytes and its backlog ring are charged to the region's `HBM` (R379, R381). -/
  charged : Bool
deriving DecidableEq, Repr

/-- A record of a backlog ring (R381). [DEDUCED, log 21] -/
structure Backlog where
  kern : Nat
  sock : Nat
  dest : Nat
  bytes : List Byte
  kind : Nat
  flag : Option Nat
  statusOff : Option Nat
  statusWord : Word
  seq : Nat
deriving DecidableEq, Repr

/-- What one package sends another over its links, to package `dest`. A launch is named in every package by its packet
and the `PTIME` of its enqueue (R374). An end of an exchange as it was posted (R289, R293), a die's arrival at a barrier
(R304), a fan-out row and its answer (R303), a write of a remote copy and its answer (R124): a code, the bytes written,
the status of a kill (R393); a launch and its start protocol (R374, R376); a die that has ended, by global id, and what
that is to an exchange (R304, R307); a vote and a decision on a swap (R414); a fault domain to fence (R396); a management
command, with the package that sent it, and its completion (R412); whether a partition command is carried out (R421).
Of a launch: it was refused, is cancelled, has started (R367), is descheduled in a package (R382), is finished, with its
record (R376). A partition whose kernels a reset kills (R425); a register access and a window access of the host, and
their answer (R423, R424); what the time parent sends, what the child asks, what the parent answers (R417).
[DESIGN CHOICE, log 38] -/
inductive LinkMsg where
  | block (dest : Nat) (packet : BitVec 1024) (time : Word) (toRank ch dim number : Nat) (e : RemoteEnd)
  | barrier (dest : Nat) (packet : BitVec 1024) (time : Word) (number : Nat) (e : RemoteEnd)
  | row (dest : Nat) (packet : BitVec 1024) (time : Word) (r : RemoteRow)
  | rowDone (dest op code copies : Nat)
  | copyWrite (dest : Nat) (x : Inbound)
  | copyDone (dest op index code bytes : Nat) (kill : Option (BitVec 16))
  | launch (dest sender kind : Nat) (packet : BitVec 1024) (time : Word)
  | ready (dest sender : Nat) (packet : BitVec 1024) (time : Word)
  | start (dest : Nat) (packet : BitVec 1024) (time t : Word)
  | ended (dest : Nat) (packet : BitVec 1024) (time : Word) (r : EndReport)
  | refused (dest sender : Nat) (packet : BitVec 1024) (time : Word) (code : Nat)
  | cancel (dest : Nat) (packet : BitVec 1024) (time : Word) (code : Nat)
  | started (dest sender : Nat) (packet : BitVec 1024) (time : Word)
  | away (dest sender : Nat) (packet : BitVec 1024) (time : Word) (is : Bool)
  | finished (dest : Nat) (packet : BitVec 1024) (time : Word) (bytes : List Byte)
  | gone (dest : Nat) (packet : BitVec 1024) (time : Word) (gid code : Nat)
  | vote (dest sender : Nat) (packet : BitVec 1024) (time : Word) (mask number : Nat) (yes : Bool)
  | decision (dest : Nat) (packet : BitVec 1024) (time : Word) (mask number : Nat) (commit : Bool)
  | domain (dest part fdom : Nat)
  | command (dest sender : Nat) (bits : BitVec 512)
  | commandDone (dest sender op : Nat) (bits : BitVec 128)
  | partCommit (dest sender : Nat) (bits : BitVec 512) (commit : Bool)
  | reset (dest part : Nat)
  | hostReg (dest sender fn : Nat) (write : Bool) (n sel : Nat) (v : Word)
  | hostReply (dest fn : Nat) (answer : Option (List Byte))
  | window (dest : Nat) (x : WindowOp)
  | sync (dest sender : Nat) (t1 : Word) (bound : BitVec 32)
  | delayReq (dest sender : Nat)
  | delayResp (dest sender : Nat) (t4 : Word)
deriving DecidableEq, Repr

/-- What the package has sent out: interrupts, records and replies for the host (R376, R412, R424, R425), and what crosses
its links, by the physical dimension crossed first. [DESIGN CHOICE, log 38] -/
inductive HostMsg where
  | vector (fn vec : Nat)
  | launchDone (fn : Nat) (bytes : List Byte)
  | mgmtDone (bits : BitVec 128)
  | readDone (fn : Nat) (bytes : List Byte)
  | aborted (fn : Nat)
  /-- An access of a function that failed, reported through AER (R422, R424). -/
  | aer (fn : Nat)
  /-- What crosses a link: the dimension and the port it leaves on (R410). -/
  | link (dim port : Nat) (m : LinkMsg)
  /-- A message with no way out of the package as yet. -/
  | waiting (dim : Nat) (m : LinkMsg)
  /-- An identity flit, on a port in `VERIFY` (R409): the own id, the dimension and the id expected. -/
  | identity (port pkg dim expect : Nat)
deriving DecidableEq, Repr

/-- A ring pair of the host bridge (R423): `BASE`, `SIZE` as the exponent *k*, `PROD`, `CONS`, and those of
its completion ring. [DEDUCED, log 23] -/
structure Ring where
  base : Word
  size : Nat
  prod : Nat
  cons : Nat
  cqbase : Word
  cqsize : Nat
  cqprod : Nat
  cqcons : Nat
deriving DecidableEq, Repr

def Ring.reset : Ring := ⟨0#64, 0, 0, 0, 0#64, 0, 0, 0⟩

/-- The registers of the host bridge (R423): the package selects, the management ring, and for each
function (0 the PF) its launch ring and window base. -/
structure Bridge where
  pkgsel : BitVec 2
  winpkg : BitVec 2
  mgmt : Ring
  launch : Store Ring
  winbase : Store Word
deriving DecidableEq, Repr

/-- The runtime image that admission loads (R344, R428): index words, dictionary with its size, handler
address. [DESIGN CHOICE, log 22] -/
structure RuntimeImage where
  words : Store (BitVec 16)
  dict : Store (BitVec 384)
  n : Nat
  kvec : BitVec 12
deriving DecidableEq, Repr

/-- A configuration record (R430): an entry for each physical dimension, the detour registers and the grandmaster
settings. [DESIGN CHOICE, log 22] -/
structure ConfigRecord where
  entries : Store (BitVec 64)
  detour : BitVec 5
  detour2 : BitVec 5
  gm : Bool
  gmid : BitVec 20
deriving DecidableEq, Repr

/-- What lies outside the package and bring-up reads (R427, R430): the firmware image in flash, the bytes of the
configuration record with its signature *r*, *s*, the package's id and whether its attach port has the host, the fuses
([255:0] root key hash, [287:256] rollback counter). [DESIGN CHOICE, log 22] -/
structure Carrier where
  flash : Memory
  record : List Byte
  sigR : Nat
  sigS : Nat
  pkgid : BitVec 20
  bridging : Bool
  fuses : BitVec 320
deriving DecidableEq, Repr

/-- A bring-up under way, with what its steps come to (R426): the interposer's self-test passes; stacks and sockets that
fail; what comes in on the ports; the first synchronisation. [DESIGN CHOICE, log 22] -/
structure Boot where
  selfTest : Bool
  badStacks : BitVec 12
  badSockets : BitVec 16
  idents : List Ident
  sync : Option (Word × BitVec 32)
deriving DecidableEq, Repr

/-- An exchange of time with the parent that waits for its answer (R417): its send time *t*1, the receive time *t*2, the
send time *t*3 of the delay request, and the parent's bound. -/
structure TimeSync where
  t1 : Word
  t2 : Word
  t3 : Word
  bound : BitVec 32
deriving DecidableEq, Repr

end Sys2Proof.Machine
end

