-- ==== Sys2Proof/Machine/Garnet.lean ====
section
/-! DEFINITION. The Garnet lock manager (chapter 14): names, modes, hierarchy, queues, grants, wounds
and revocation, as functions of its own state. -/
namespace Sys2Proof.Machine

/-- The lock operations (R328). -/
inductive LockOp where
  | txn (age : Word)
  | acq (mode : Nat)
  | up (mode : Nat)
  | dn (mode : Nat)
  | rel
  | relAll
  | abt
  | qry
deriving DecidableEq, Repr

/-- What Garnet answers: its new state, operations of other streams that completed with their codes,
wounds dealt (transaction, lock name), control blocks whose lock entry was taken and freed. -/
structure LockOut where
  g : Garnet
  done : List (Nat × Nat)
  wounds : List (Word × Word)
  taken : List Nat
  freed : List Nat
deriving DecidableEq, Repr

/-- The completion of an operation (R327). -/
structure LockAnswer where
  /-- `none` while the request waits in a queue. -/
  code : Option Nat
  value : Nat
  info : Word
  age : Nat
  txn : Word
deriving DecidableEq, Repr

/-- The fields of a lock name (R313). -/
def lockLevel (n : Word) : Nat := (n >>> 62).toNat
def lockLine (n : Word) : Nat := (n &&& 0xFFFF#64).toNat
def lockTile (n : Word) : Nat := ((n >>> 16) &&& 0xFFFFFF#64).toNat

/-- A name Garnet accepts (R313). -/
def lockNameOk (n : Word) : Bool :=
  match lockLevel n with
  | 0 => lockTile n == 0 && lockLine n == 0
  | 1 => lockLine n == 0
  | 2 => true
  | _ => false

/-- The parent of a tile or line lock (R313). -/
def lockParent (n : Word) : Option Word :=
  match lockLevel n with
  | 1 => some (n &&& 0x3FFFFF0000000000#64)
  | 2 => some ((n &&& 0x3FFFFFFFFFFF0000#64) ||| 0x4000000000000000#64)
  | _ => none

/-- The compatibility matrix of a partition (R315). -/
def Garnet.matrixOf (g : Garnet) (part : Nat) : Word := Store.get Config.lockMatrix g.matrix part

/-- A request for mode `r` is compatible with a held mode `h` (R315). -/
def compatible (m : Word) (r h : Nat) : Bool := m.getLsbD (8 * r + h)

/-- A mode's row of the matrix. -/
def matrixRow (m : Word) (r : Nat) : BitVec 8 := (m >>> (8 * r)).setWidth 8

/-- `r` is weaker than or equal to `h` (R316). -/
def weakerEq (m : Word) (r h : Nat) : Bool := matrixRow m r &&& matrixRow m h == matrixRow m h

/-- A parent held in this mode is enough for a request of mode `r` on its child (R317). -/
def parentEnough (r parent : Nat) : Bool :=
  if r = 1 ∨ r = 3 then parent == 1 || parent == 2 || parent == 4
  else if r = 2 ∨ r = 4 ∨ r = 7 then parent == 2 || parent == 4
  else if r = 5 ∨ r = 6 then parent == 5 || parent == 2 || parent == 4
  else true

def Garnet.txnOf (g : Garnet) (id : Word) : Option Txn := g.txns.find? (·.id == id)

def Garnet.lockOf (g : Garnet) (part : Nat) (name : Word) : Option Lock :=
  g.locks.find? fun l => l.part == part && l.name == name

/-- The mode in which a transaction holds a lock. -/
def Lock.heldBy (l : Lock) (t : Word) : Option Nat := l.holders.lookup t

def Garnet.held (g : Garnet) (part : Nat) (name t : Word) : Option Nat :=
  (g.lockOf part name).bind (·.heldBy t)

/-- A request of the transaction waits on the lock. -/
def Lock.queuedBy (l : Lock) (t : Word) : Bool := l.queue.any (·.txn == t)

/-- `T` is older than `U` (R319). -/
def Txn.older (t u : Txn) : Bool :=
  t.age < u.age || (t.age == u.age && (t.sock < u.sock || (t.sock == u.sock && t.part < u.part)))

/-- By transaction ids; a transaction that is gone is not older. -/
def Garnet.older (g : Garnet) (t u : Word) : Bool :=
  match g.txnOf t, g.txnOf u with
  | some a, some b => a.older b
  | _, _ => false

/-- Replace a lock; one with no holder and no waiter ceases to exist (R314). -/
def Garnet.putLock (g : Garnet) (l : Lock) : Garnet :=
  if l.holders.isEmpty ∧ l.queue.isEmpty then
    { g with locks := g.locks.filter fun x => !(x.part == l.part && x.name == l.name) }
  else { g with locks := g.locks.map fun x => if x.part == l.part && x.name == l.name then l else x }

/-- A transaction's held mode of a lock becomes `r`. -/
def Lock.hold (l : Lock) (t : Word) (r : Nat) : Lock :=
  if l.holders.any (·.1 == t) then
    { l with holders := l.holders.map fun h => if h.1 == t then (t, r) else h }
  else { l with holders := l.holders ++ [(t, r)] }

/-- The place of a request in the queue: upgrades first, each group oldest first (R321). -/
def Garnet.insertWait (g : Garnet) (e : LockWait) : List LockWait → List LockWait
  | [] => [e]
  | w :: rest =>
    if (e.upgrade && !w.upgrade) || (e.upgrade == w.upgrade && g.older e.txn w.txn) then e :: w :: rest
    else w :: Garnet.insertWait g e rest

/-- The grant pass of R321 over the rest of a queue: `ahead` still wait in front, `hurt` are the transactions that the
pass has wounded, whose requests have left the queue (R322). Answers the lock's holders, the operations granted, the
transactions to wound. -/
def grantPass (g : Garnet) (m : Word) : List Word → List (Word × Nat) → List LockWait → List LockWait →
    List (Word × Nat) × List Nat × List Word
  | hurt, holders, _, [] => (holders, [], hurt)
  | hurt, holders, ahead, e :: rest =>
    let blockers := (holders.filter fun h => h.1 != e.txn && !compatible m e.mode h.2).map (·.1)
      ++ (ahead.filter fun w => w.txn != e.txn && !compatible m e.mode w.mode).map (·.txn)
    let fresh := blockers.filter fun u => g.older e.txn u && !(g.txnOf u).any (·.wounded) && !hurt.contains u
    if hurt.contains e.txn then grantPass g m hurt holders ahead rest
    else if blockers.isEmpty then
      let l : Lock := ⟨0, 0#64, 0, holders, []⟩
      let (hs, gs, us) := grantPass g m hurt (l.hold e.txn e.mode).holders ahead rest
      (hs, e.op :: gs, us)
    else grantPass g m (hurt ++ fresh.eraseDups) holders ((ahead ++ [e]).filter fun w => !fresh.contains w.txn) rest

/-- Wound one transaction (R322): its queued requests complete with `WOUNDED`. Answers the locks whose
queues changed. [DEDUCED, log 33] -/
def woundTxn (now : Nat) (name : Word) (o : LockOut) (u : Word) : LockOut × List (Nat × Word) :=
  match o.g.txnOf u with
  | none => (o, [])
  | some t =>
    if t.wounded then (o, [])
    else
      let hit := o.g.locks.filter (·.queuedBy u)
      let ops := hit.flatMap fun l => (l.queue.filter (·.txn == u)).map fun w => (w.op, 2)
      let g1 : Garnet := { o.g with
        txns := o.g.txns.map fun x => if x.id == u then { x with wounded := true, graceEnd := now + o.g.grace } else x }
      let gone := (hit.filter fun l => l.holders.isEmpty && l.queue.all (·.txn == u)).map (·.rcb)
      let g2 := hit.foldl (fun (g : Garnet) l => g.putLock { l with queue := l.queue.filter (·.txn != u) }) g1
      ({ o with g := g2, done := o.done ++ ops, wounds := o.wounds ++ [(u, name)], freed := o.freed ++ gone },
        hit.map fun l => (l.part, l.name))

/-- Grant passes on every lock concerned until none changes (R321, R322): a grant is a change of its lock too. -/
def settle (now : Nat) : Nat → LockOut → List (Nat × Word) → LockOut
  | 0, o, _ => o
  | _ + 1, o, [] => o
  | fuel + 1, o, (part, name) :: rest =>
    match o.g.lockOf part name with
    | none => settle now fuel o rest
    | some l =>
      let (hs, gs, us) := grantPass o.g (o.g.matrixOf part) [] l.holders [] l.queue
      let o1 := { o with g := o.g.putLock { l with holders := hs, queue := l.queue.filter fun w => !gs.contains w.op },
                         done := o.done ++ gs.map fun op => (op, 0) }
      let (o2, more) := us.foldl
        (fun (acc : LockOut × List (Nat × Word)) u =>
          let (x, ls) := woundTxn now name acc.1 u
          (x, acc.2 ++ ls)) (o1, [])
      settle now fuel o2 (rest ++ more ++ if gs.isEmpty then [] else [(part, name)])

/-- Enough rounds: each wound, of which a transaction has one, adds at most every lock once; each grant, of which a
waiting request has one, adds its lock once. -/
def settleAll (now : Nat) (o : LockOut) (ls : List (Nat × Word)) : LockOut :=
  let waiting := (o.g.locks.map (·.queue.length)).sum
  settle now ((o.g.txns.length + 1) * (o.g.locks.length + 1) + waiting + ls.length) o ls

/-- Complete the queued requests of a transaction with a code, and drop its holds (R323, R325). -/
def dropTxn (now : Nat) (code : Nat) (o : LockOut) (t : Word) : LockOut :=
  let hit := o.g.locks.filter fun l => l.queuedBy t || (l.heldBy t).isSome
  let ops := hit.flatMap fun l => (l.queue.filter (·.txn == t)).map fun w => (w.op, code)
  let strip (l : Lock) : Lock :=
    { l with queue := l.queue.filter (·.txn != t), holders := l.holders.filter (·.1 != t) }
  let gone := (hit.filter fun l => (strip l).holders.isEmpty && (strip l).queue.isEmpty).map (·.rcb)
  let g1 := hit.foldl (fun (g : Garnet) l => g.putLock (strip l)) o.g
  settleAll now { o with g := g1, done := o.done ++ ops, freed := o.freed ++ gone }
    (hit.map fun l => (l.part, l.name))

/-- The locks a transaction holds. -/
def Garnet.holdsOf (g : Garnet) (t : Word) : Nat := (g.locks.filter fun l => (l.heldBy t).isSome).length

/-- End a transaction (R328): its queued requests, its locks, itself. -/
def endTxn (now : Nat) (o : LockOut) (t : Word) : LockOut :=
  let code := match o.g.txnOf t with
    | some x => if x.wounded then 2 else 5
    | none => 5
  let o1 := dropTxn now code o t
  { o1 with g := { o1.g with txns := o1.g.txns.filter (·.id != t) } }

/-- Revoke a wounded transaction that still holds a lock (R325). Answers a lock it held. -/
def revokeTxn (now : Nat) (o : LockOut) (t : Word) : LockOut × Option Word :=
  match o.g.locks.find? fun l => (l.heldBy t).isSome with
  | none => (o, none)
  | some l =>
    let o1 := dropTxn now 4 o t
    ({ o1 with g := { o1.g with
        txns := o1.g.txns.map fun x => if x.id == t then { x with revoked := true } else x } }, some l.name)

/-- Every child of a lock that a transaction holds is allowed under a parent mode; `none` when the
parent goes (R317). -/
def childrenAllow (g : Garnet) (part : Nat) (name t : Word) (mode : Option Nat) : Bool :=
  g.locks.all fun l =>
    !(l.part == part && lockParent l.name == some name) ||
      match l.heldBy t with
      | none => true
      | some h => match mode with
        | none => false
        | some r => parentEnough h r

/-- R317 on a request. -/
def parentAllows (g : Garnet) (part : Nat) (name t : Word) (r : Nat) : Bool :=
  match lockParent name with
  | none => true
  | some p => match g.held part p t with
    | none => false
    | some h => parentEnough r h

/-- Who asks (R318, R319): the stream's socket, kernel, partition and region, and the `PTIME` at which
its kernel started. -/
structure LockCaller where
  sock : Nat
  part : Nat
  kern : Nat
  region : Nat
  rcb : Nat
  start : Nat
  /-- The region's lock budget allows one more entry (R314). -/
  budget : Bool
deriving DecidableEq, Repr

/-- The stream's open transaction. -/
def Garnet.openTxn (g : Garnet) (c : LockCaller) : Option Txn :=
  g.txns.find? fun t => t.sock == c.sock && t.kern == c.kern

/-- The first code of R327 that applies to an operation other than `LKTXN`, or `none`. -/
def lockCheck (g : Garnet) (c : LockCaller) (t : Txn) (op : LockOp) (name : Word) : Option Nat :=
  let l := g.lockOf c.part name
  let held := g.held c.part name t.id
  let queued := match l with
    | none => false
    | some x => x.queuedBy t.id
  let m := g.matrixOf c.part
  let full := l.isNone && (!c.budget || decide (Config.lockEntries ≤ g.locks.length))
  match op with
  | .acq r =>
    if !lockNameOk name then some 8
    else if queued then some 11
    else if t.wounded then some 2
    else match held with
      | some h => if h = r then none else some 9
      | none => if !parentAllows g c.part name t.id r then some 1 else if full then some 3 else none
  | .up r =>
    if !lockNameOk name then some 8
    else if queued then some 11
    else if t.wounded then some 2
    else match held with
      | none => some 5
      | some h => if weakerEq m r h then some 9
        else if !parentAllows g c.part name t.id r then some 1 else none
  | .dn r =>
    if !lockNameOk name then some 8
    else if queued then some 11
    else match held with
      | none => some 5
      | some h => if !weakerEq m r h then some 9
        else if !childrenAllow g c.part name t.id (some r) then some 1 else none
  | .rel =>
    if !lockNameOk name then some 8
    else if queued then some 11
    else match held with
      | none => some 5
      | some _ => if !childrenAllow g c.part name t.id none then some 1 else none
  | _ => none

/-- Sockets of a list of transactions as a 16-bit mask. -/
def Garnet.sockMask (g : Garnet) (ts : List Word) : Nat :=
  ts.foldl (fun m t => match g.txnOf t with
    | none => m
    | some x => m ||| 2 ^ x.sock) 0

/-- The answer of `LKQRY` (R327). -/
def lockQuery (g : Garnet) (part : Nat) (name : Word) (t : Option Txn) : Nat × Word :=
  match g.lockOf part name with
  | none => (0, 0#64)
  | some l =>
    let mine := match t with
      | none => 0
      | some x => (l.heldBy x.id).getD 0 + (if l.queuedBy x.id then 8 else 0)
    (mine + l.holders.length % 32 * 16 + l.queue.length % 256 * 512,
      BitVec.ofNat 64 (g.sockMask (l.holders.map (·.1)) + g.sockMask (l.queue.map (·.txn)) * 65536))

/-- Garnet processes one operation of a stream (R320, R328). [DEDUCED, log 33] -/
def Garnet.process (now : Nat) (g : Garnet) (c : LockCaller) (opId : Nat) (op : LockOp) (name : Word) :
    LockOut × LockAnswer :=
  let o : LockOut := ⟨g, [], [], [], []⟩
  let tx := g.openTxn c
  let age := match tx with | none => 0 | some t => t.age
  let tid := match tx with | none => 0#64 | some t => t.id
  let stop (code : Nat) (info : Word) : LockOut × LockAnswer := (o, ⟨some code, 0, info, age, tid⟩)
  match op with
  | .txn a =>
    match tx with
    | some t => stop (if t.revoked then 4 else 7) 0#64
    | none =>
      if a ≠ 0#64 ∧ ¬ (c.start ≤ a.toNat ∧ a.toNat ≤ now) then stop 10 0#64
      else
        let key := 16 * c.kern + c.sock
        let n := Store.get 0 g.opened key + 1
        let id := BitVec.ofNat 64 (c.kern * 2 ^ 32 + n % 2 ^ 28 * 16 + c.sock)
        let age := if a = 0#64 then now else a.toNat
        let t : Txn := ⟨id, c.sock, c.part, c.kern, c.region, c.rcb, age, false, 0, false⟩
        ({ o with g := { g with txns := g.txns ++ [t], opened := Store.set 0 g.opened key n } },
          ⟨some 0, 0, 0#64, age, id⟩)
  | .qry =>
    match tx with
    | some t => if t.revoked then stop 4 0#64
      else if !lockNameOk name then stop 8 0#64
      else let (v, i) := lockQuery g c.part name tx; (o, ⟨some 0, v, i, age, tid⟩)
    | none => if !lockNameOk name then stop 8 0#64
      else let (v, i) := lockQuery g c.part name tx; (o, ⟨some 0, v, i, age, tid⟩)
  | .relAll | .abt =>
    match tx with
    | none => stop 6 0#64
    | some t =>
      let n := g.holdsOf t.id
      (endTxn now o t.id, ⟨some (if t.revoked then 4 else 0), n, 0#64, age, tid⟩)
  | _ =>
    match tx with
    | none => stop 6 name
    | some t =>
      if t.revoked then stop 4 name
      else match lockCheck g c t op name with
        | some code => stop code name
        | none =>
          match op with
          | .acq r =>
            if (g.held c.part name t.id).isSome then stop 0 name
            else
              let fresh := (g.lockOf c.part name).isNone
              let g1 : Garnet := if fresh then
                { g with locks := g.locks ++ [⟨c.part, name, c.rcb, [], []⟩] } else g
              match g1.lockOf c.part name with
              | none => stop 0 name
              | some l =>
                let g2 : Garnet := { g1 with locks := g1.locks.map fun x =>
                  if x.part == l.part && x.name == l.name then
                    { l with queue := g.insertWait ⟨opId, t.id, r, false⟩ l.queue } else x }
                (settleAll now { o with g := g2, taken := if fresh then [c.rcb] else [] } [(c.part, name)],
                  ⟨none, 0, name, age, tid⟩)
          | .up r =>
            match g.lockOf c.part name with
            | none => stop 5 name
            | some l =>
              let g2 := g.putLock { l with queue := g.insertWait ⟨opId, t.id, r, true⟩ l.queue }
              (settleAll now { o with g := g2 } [(c.part, name)], ⟨none, 0, name, age, tid⟩)
          | .dn r =>
            match g.lockOf c.part name with
            | none => stop 5 name
            | some l => (settleAll now { o with g := g.putLock (l.hold t.id r) } [(c.part, name)],
                ⟨some 0, 0, name, age, tid⟩)
          | _ =>
            match g.lockOf c.part name with
            | none => stop 5 name
            | some l =>
              let l2 : Lock := { l with holders := l.holders.filter (·.1 != t.id) }
              let gone := if l2.holders.isEmpty ∧ l2.queue.isEmpty then [l.rcb] else []
              (settleAll now { o with g := g.putLock l2, freed := gone } [(c.part, name)],
                ⟨some 0, 0, name, age, tid⟩)

end Sys2Proof.Machine
end

