-- ==== Sys2Proof/Machine/State.lean ====
section
/-! DEFINITION. The state of the X16: its sixteen C-dies, the package around them, and the script of
what the outside does and when. Faults and refusals. The machine right after reset. -/
namespace Sys2Proof.Machine

/-- The registers that the host reaches through BAR0 (R423): selects and window bases, the eight registers of the
management ring and of each function's launch ring (`BASE`, `SIZE`, `PROD`, `CONS`, then those of the completion
ring), identification, the privileged registers of the selected package; or an offset in a function's BAR0. Management
firmware (M) reaches every privileged register and the words of the Brocade control space, as one partition's, through the
housekeeping path (R343, R353). Of a register that each die or each partition has, `sel` says whose is meant.
[DEDUCED, log 23] -/
inductive HostReg where
  | pkgsel
  | winpkg
  | winbase (fn : Nat)
  | mgmt (field : Nat)
  | launch (fn field : Nat)
  | ident (i : Nat)
  | priv (n sel : Nat)
  | bar0 (fn off sel : Nat)
  | m (n sel : Nat)
  | object (part i : Nat)
  | fuseSvn
deriving DecidableEq, Repr

/-- One entry of the script: one clock edge passes; a step of the machine (a row of the opcode table that is no
slot instruction) takes place at a socket; the host or M writes or reads a register; a message of another package arrives
over a link; the host writes its own memory.
[DEDUCED, log 6; DESIGN CHOICE, log 38] -/
inductive Input where
  | edge
  | step (sock : Nat) (i : Instr)
  | regWrite (r : HostReg) (v : Word)
  | regRead (r : HostReg)
  | link (dim : Nat) (m : LinkMsg)
  | hostWrite (a : Nat) (bytes : List Byte)
deriving DecidableEq, Repr

/-- The package around the dies. -/
structure Pkg where
  /-- Ungated die clock edges since the package left reset (R71). -/
  clk : Nat
  ptime : Word
  /-- The fraction of a nanosecond that `PTIME` does not show, in units of 1 / (5 MHz). -/
  pfrac : Nat
  pskew : BitVec 32
  /-- Package memory by physical address, and the host memory behind the bridge. -/
  mem : Memory
  host : Memory
  /-- Race tags by line (R142) and the region number of each die (R143). -/
  tags : Store Tag
  regionNo : Store Nat
  /-- Strong writes that a reader may still miss (R141). -/
  late : List Late
  /-- Lines lost to an uncorrectable error, each with its bytes that nothing has covered since; fenced
  stacks (R401, R402). -/
  lost : Store (BitVec 128)
  badStacks : List Nat
  regs : PkgRegs
  unpub : List Unpublished
  /-- TLB entries of each die, and of the shared TLB at key 16 (R388). -/
  tlb : Store (List TlbEntry)
  reqs : List Req
  engines : List Engine
  /-- Writes of other packages' remote copies that wait (R124, R390), and what other packages have posted (R289). -/
  inbound : List Inbound
  /-- Writes of other packages' remote copies that have come in, by package, operation and place (R308). -/
  copySeen : List (Nat × Nat × Nat)
  farEnds : List FarEnd
  /-- Fan-out rows of other packages that wait for room in a ring (R309), and those that have been served, by package
  and operation (R308). -/
  farRows : List RemoteRow
  rowsSeen : List (Nat × Nat)
  /-- The messages sent so far from one die to another, by kernel and ranks (R308). -/
  pairNo : Store Nat
  nextId : Nat
  faults : List FaultRec
  faultSeq : Nat
  tiles : Store TilePair
  taken : List Taken
  counters : Store Counter
  barriers : Store Barrier
  garnet : Garnet
  /-- Numbering of exchanges (R289, R302) and phases of `XBAR` (R304). -/
  numbers : Store Nat
  /-- Ring steps that are complete here: numbering, number, mask (R302). -/
  ringDone : List (Nat × Nat × Nat)
  votes : List Vote
  farVotes : List FarVote
  launches : List Launch
  nextKern : Nat
  /-- The Brocade cycle of the last enqueue, and its place in the order of that cycle (R368). -/
  enqAt : Nat × Nat
  /-- Regions in round order with their deficits, per level (R370), key level. -/
  rounds : Store (List (Nat × Nat))
  images : List Image
  backlog : List Backlog
  socks : Store SockState
  routes : Store (BitVec 64)
  heldRoutes : List HeldRoute
  ports : Store Port
  retopos : List Retopo
  partitions : List Partition
  /-- Partitions created through this package's bridge, with the function and the packages of each, and commands under way
  (R421). -/
  carried : List (Nat × Nat × List Nat)
  partCmds : List PartCmd
  /-- BAR2 accesses that wait for a migrating page, and those behind them (R393, R404, R424). -/
  windowQ : List WindowOp
  migration : Option Migration
  report : Option Report
  outbox : List HostMsg
  /-- A correction of `PTIME` still to be made, in die clock edges of 200 parts per million (R416). -/
  slew : Int
  /-- `PTIME` when `PSKEW` last grew in `HOLD`, and when the C-dies' clock last changed (R419, R434). -/
  holdAt : Nat
  clkAt : Nat
  /-- An exchange with the time parent under way, and `PTIME` when the last sync flits were sent (R417). -/
  sync : Option TimeSync
  syncAt : Nat
  /-- A bring-up under way (R426). -/
  boot : Option Boot
  bridge : Bridge
  carrier : Carrier
deriving DecidableEq, Repr

/-- The state of the X16. -/
structure State where
  /-- The C-dies by socket. -/
  dies : Store Die
  /-- The socket whose die acts: the die of an instruction, and the next to have its clock edge. -/
  cur : Nat
  pkg : Pkg
  /-- What happens outside the streams, and when: entries are taken in order, and while there are any,
  nothing else happens. Without any, Brocade does its own work in the order of `Work.lean`. -/
  inputs : List Input
  /-- THE MODEL'S OWN: how many free values have been used. -/
  fresh : Nat
deriving DecidableEq, Repr

/-- Why the machine stops: nothing stops it. A package that stopped in bring-up goes on as it is, and answers what R426
says it answers. -/
inductive Fault where
deriving DecidableEq, Repr

/-- Instructions the model gives no meaning. -/
inductive Refusal where
  /-- Not modelled yet, by the mnemonic of the opcode table. Raised by `exec`. Safe. -/
  | notModelled (mnemonic : String)
deriving DecidableEq, Repr

/-- The empty issue context. -/
def Issue.none : Issue :=
  ⟨.s0, false, false, 0, 0, 0, false, false, Option.none, Option.none, false, false, [], [], 0#10, 0#10⟩

/-- The registers of a die that no kernel has run on (DESIGN CHOICE where the spec gives no value).
[DESIGN CHOICE, log 1] -/
def Regs.cold : Regs := ⟨[], [], [], [], [], [], [], []⟩

/-- The reset values of R14, R32, R47, R69, R351, R431; 0 where the spec says launch, die, package,
admission, image or nothing (DESIGN CHOICE). [DESIGN CHOICE, log 1] -/
def Sregs.cold : Sregs where
  rank := 0#24
  ndim := 0#5
  dmaplo := 0#60
  dmaphi := 0#60
  scbase := 0#24
  scmask := 0#24
  present := 0#24
  cycle := 0#64
  frozen := 0#64
  spsize := 0#26
  kernid := 0#32
  regionid := 0#32
  statlost := 0#64
  yskip := 0#64
  conflict := 0#64
  txn := 0#64
  tcause := 0#8
  tinfo0 := 0#64
  tinfo1 := 0#64
  tmask := 0#10
  tepc := 0#15
  flg := 0#32
  flgerr := 0#32
  status := 0#10
  oobaddr := 0#26
  rclampEng := 0#2
  rclampReg := 0#2
  rclampVal := 0#32
  fpmode := 0#3
  atland := 64#7
  uhandler := 0#15
  umask := 0#2
  statbase := 0#22
  staten := 0#16
  statsize := 0#16
  stattail := 0#16
  stathead := 0#16
  ysave := 0xFFFFFFFFFFFFFF#56
  monstat := 0#3
  rotbase := 0#5
  kstat := 0#8
  kvec := 0#12
  freezemax := 0x100000#32
  partid := 0#16
  rcbaddr := 0#57
  msel := 0#3

def Ctl.cold : Ctl where
  run := .idle
  start := 0
  level := .user
  pc := 0
  bank := false
  loops := []
  transfer := none
  snapshot := none
  waiting := none
  issued := false
  popped := []
  samples := []
  tables := []
  fetched := none
  stall := 0
  clash := 0
  paid := 0
  waited := 0
  sleep := .none
  watchdog := 0
  yieldCount := 0
  switch := false
  dskip := false
  bound := 0x100000
  preempt := false
  wounds := []
  refused := none
  endStatus := 0#16
  releasing := false
  released := false
  dataErr := none
  arrayErr := false

def Transposer.empty : Transposer := ⟨none, [], none, false⟩

def Tables.cold : Tables := ⟨[], [], [], [], 0, [], [], [], []⟩

def Arrays.cold : Arrays := ⟨[], [], [], [], [], 0, [], [], 0, [], [], [], [], Transposer.empty⟩

def Pipes.cold : Pipes := ⟨[], [], [], [], [], []⟩

def Caches.cold : Caches := ⟨[], [], none, none, 0⟩

/-- A die that nothing has run on. -/
def Die.cold : Die :=
  ⟨Regs.cold, Sregs.cold, Ctl.cold, Tables.cold, Arrays.cold, Pipes.cold, Caches.cold, Issue.none⟩

/-- The reset values of R351, R389, R411 and R431. [DESIGN CHOICE, log 1] -/
def PkgRegs.reset : PkgRegs where
  pkgid := 0#20
  ybound := 0x100000#32
  wgrace := 100000#32
  agep := 50000000#32
  detour := 0x1F#5
  detour2 := 0x1F#5
  rtact := false
  ptroot := []
  frbase := 0#64
  frvec := 0#8
  frtail := 0#16
  frsize := 0#16
  frhead := 0#16
  migsrc := 0#64
  migdst := 0#64
  migcmd := 0#4
  errUncorr := 0#32
  errCorr := 0#32
  lostw := false
  swaplk := false
  armed := false
  hold := false
  gm := false
  gmid := 0#20
  parent := 0x1F#5
  meas := []
  hostMsel := 0#3
  attnonce := 0#64
  attaddr := 0#57
  attcmd := 0#4
  pwrcapEn := false
  pwrcap := 6500#16
  mhz := 2000#16
  pwrCause := 0#3
  fwver := 0#64
  bootCode := 0#8
  bootStep := 1#4

/-- The package at power-on (R426): every line published, region numbers and `PTIME` 0, sockets empty,
ports dark, queues empty. [DESIGN CHOICE, log 1] -/
def Pkg.reset : Pkg where
  clk := 0
  ptime := 0#64
  pfrac := 0
  pskew := 0#32
  mem := []
  host := []
  tags := []
  regionNo := []
  late := []
  lost := []
  badStacks := []
  regs := PkgRegs.reset
  unpub := []
  tlb := []
  reqs := []
  engines := []
  inbound := []
  copySeen := []
  farEnds := []
  farRows := []
  rowsSeen := []
  pairNo := []
  nextId := 0
  faults := []
  faultSeq := 0
  tiles := []
  taken := []
  counters := []
  barriers := []
  garnet := ⟨[], [], [], [], 100000⟩
  numbers := []
  ringDone := []
  votes := []
  farVotes := []
  launches := []
  nextKern := 1
  enqAt := (0, 0)
  rounds := []
  images := []
  backlog := []
  socks := []
  routes := []
  heldRoutes := []
  ports := []
  retopos := []
  partitions := []
  carried := []
  partCmds := []
  windowQ := []
  migration := none
  report := none
  outbox := []
  slew := 0
  holdAt := 0
  clkAt := 0
  sync := none
  syncAt := 0
  boot := none
  bridge := ⟨0#2, 0#2, Ring.reset, [], []⟩
  carrier := ⟨[], [], 0, 0, 0#20, false, 0#320⟩

/-- The machine right after reset: step 1 of bring-up, before any work (R426).
[DESIGN CHOICE, log 1; DESIGN CHOICE, log 4] -/
def State.reset : State where
  dies := []
  cur := 0
  pkg := Pkg.reset
  inputs := []
  fresh := 0

end Sys2Proof.Machine
end

