-- ==== Sys2Proof/Machine/Base.lean ====
section
/-! DEFINITION. Access to the state: the acting die, its registers by the names instructions use
(rotation, the K bank, hard-wired registers), bytes, scratchpad. -/
namespace Sys2Proof

/-- The latch of a slot's results (R48); the C and X slots have none. -/
def Slot.latch : Slot → Option Nat
  | .s0 => some 0 | .s1 => some 1 | .v0 => some 2 | .v1 => some 3 | .t => some 4 | .l => some 5
  | .m0 => some 6 | .m1 => some 7 | .c => none | .x => none

/-- The bit of a slot in `TMASK` (R47). -/
def Slot.bit (k : Slot) : BitVec 10 := BitVec.ofNat 10 (2 ^ k.num)

namespace Machine

/-- The outcome of a meaning. -/
abbrev Out := Host.Outcome State Fault Refusal

/-- The die at a socket. -/
def State.die (s : State) (k : Nat) : Die := Store.get Die.cold s.dies k

/-- Put a die at a socket. -/
def State.setDie (s : State) (k : Nat) (d : Die) : State :=
  { s with dies := Store.set Die.cold s.dies k d }

/-- The acting die. -/
def State.here (s : State) : Die := s.die s.cur

/-- Replace the acting die. -/
def State.put (s : State) (d : Die) : State := s.setDie s.cur d

/-- Change a die. -/
def State.modDie (s : State) (k : Nat) (f : Die → Die) : State := s.setDie k (f (s.die k))

/-- Change the acting die. -/
def State.mod (s : State) (f : Die → Die) : State := s.put (f s.here)

/-- Change the package. -/
def State.modPkg (s : State) (f : Pkg → Pkg) : State := { s with pkg := f s.pkg }

/-- Little-endian bytes and their value (R3). -/
def bytesNat : List Byte → Nat
  | [] => 0
  | b :: rest => b.toNat + 256 * bytesNat rest

def natBytes : Nat → Nat → List Byte
  | 0, _ => []
  | n + 1, v => BitVec.ofNat 8 v :: natBytes n (v / 256)

/-- The bits [lo+n-1:lo] of a number. -/
def bitsAt (v lo n : Nat) : Nat := v / 2 ^ lo % 2 ^ n

/-- A field of a bit vector as a number. -/
def fieldAt {w : Nat} (v : BitVec w) (lo n : Nat) : Nat := bitsAt v.toNat lo n

/-- Sign extension of the low `n` bits. -/
def sextInt (v n : Nat) : Int :=
  let x := v % 2 ^ n
  if x < 2 ^ (n - 1) then x else (x : Int) - 2 ^ n

/-- The two's-complement 64 bits of an integer. -/
def wordOf (i : Int) : Word := BitVec.ofInt 64 i

/-- A flag of a bit vector. -/
def bitAt {w : Nat} (v : BitVec w) (i : Nat) : Bool := v.getLsbD i

/-- Replace the bits [lo+n-1:lo] of a number below 2^w. -/
def putBits {w : Nat} (v : BitVec w) (lo n x : Nat) : BitVec w :=
  let m := BitVec.ofNat w ((2 ^ n - 1) * 2 ^ lo)
  (v &&& ~~~m) ||| BitVec.ofNat w (x % 2 ^ n * 2 ^ lo)

/-- A rotating register's physical number (R52): `base` is the first, `n` the group's size. -/
def rotated (base n rot x : Nat) : Nat := base + (x - base + n - rot % n) % n

/-- The level is K. -/
def Die.inK (d : Die) : Bool := d.ctl.level == .kernel

/-- The stream runs in handler state (R45). -/
def Die.handler (d : Die) : Bool := d.ctl.snapshot.isSome

/-- The issue cycle; a wait bundle that has taken its cycle keeps it (R37, R38). -/
def Die.now (d : Die) : Nat := if d.ctl.issued then d.sr.cycle.toNat - 1 else d.sr.cycle.toNat

/-- Where an `s` register lies (R52, R54, R345); `none` for `s0`. -/
def Die.sDest (d : Die) (x : BitVec 6) : Dest :=
  if x = 0#6 then .none
  else if d.inK ∧ 56 ≤ x.toNat then .kbs x.toNat
  else if 32 ≤ x.toNat then .s (rotated 32 32 d.sr.rotbase.toNat x.toNat)
  else .s x.toNat

/-- Where a `v` register lies (R52). -/
def Die.vDest (d : Die) (x : BitVec 6) : Dest :=
  if 32 ≤ x.toNat then .v (rotated 32 32 d.sr.rotbase.toNat x.toNat) else .v x.toNat

/-- Where a predicate lies (R52, R54, R345); `none` for `p0`. -/
def Die.pDest (d : Die) (x : BitVec 4) : Dest :=
  if x = 0#4 then .none
  else if d.inK ∧ 12 ≤ x.toNat then .kbp x.toNat
  else if 8 ≤ x.toNat then .p (rotated 8 8 d.sr.rotbase.toNat x.toNat)
  else .p x.toNat

/-- Where a mask lies; `none` for `k0` (R54). -/
def Die.kDest (x : BitVec 3) : Dest := if x = 0#3 then .none else .k x.toNat

/-- The value a register place holds, in 2,048 bytes. -/
def Die.readDest (d : Die) : Dest → Vec
  | .none => 0#16384
  | .s r => (Store.get 0#64 d.regs.s r).setWidth 16384
  | .kbs r => (Store.get 0#64 d.regs.kbs r).setWidth 16384
  | .p r => if Store.get false d.regs.p r then 1#16384 else 0#16384
  | .kbp r => if Store.get false d.regs.kbp r then 1#16384 else 0#16384
  | .v r => Store.get 0#16384 d.regs.v r
  | .k r => (Store.get 0#512 d.regs.k r).setWidth 16384

/-- Write a register place. -/
def Die.writeDest (d : Die) (p : Dest) (x : Vec) : Die :=
  match p with
  | .none => d
  | .s r => { d with regs.s := Store.set 0#64 d.regs.s r (x.setWidth 64) }
  | .kbs r => { d with regs.kbs := Store.set 0#64 d.regs.kbs r (x.setWidth 64) }
  | .p r => { d with regs.p := Store.set false d.regs.p r (x.getLsbD 0) }
  | .kbp r => { d with regs.kbp := Store.set false d.regs.kbp r (x.getLsbD 0) }
  | .v r => { d with regs.v := Store.set 0#16384 d.regs.v r x }
  | .k r => { d with regs.k := Store.set 0#512 d.regs.k r (x.setWidth 512) }

/-- An `s` register as an operand: `s0` reads zero (R54). -/
def Die.readS (d : Die) (x : BitVec 6) : Word :=
  match d.sDest x with
  | .s r => Store.get 0#64 d.regs.s r
  | .kbs r => Store.get 0#64 d.regs.kbs r
  | _ => 0#64

/-- A `v` register as an operand. -/
def Die.readV (d : Die) (x : BitVec 6) : Vec :=
  match d.vDest x with
  | .v r => Store.get 0#16384 d.regs.v r
  | _ => 0#16384

/-- A predicate: `p0` reads true (R54). -/
def Die.readP (d : Die) (x : BitVec 4) : Bool :=
  match d.pDest x with
  | .p r => Store.get false d.regs.p r
  | .kbp r => Store.get false d.regs.kbp r
  | _ => true

/-- A lane mask: `k0` reads all ones (R54). -/
def Die.readK (d : Die) (x : BitVec 3) : Mask :=
  if x = 0#3 then BitVec.allOnes 512 else Store.get 0#512 d.regs.k x.toNat

/-- A latch reads zero while it is invalid (R49). -/
def Die.readQ (d : Die) (q : BitVec 3) : Vec :=
  if Store.get false d.regs.qv q.toNat then Store.get 0#16384 d.regs.q q.toNat else 0#16384

/-- Schedule a write for the end of the issue cycle. -/
def Die.later (d : Die) (l : Later) : Die := { d with pipe.next := d.pipe.next ++ [(d.iss.slot.num, l)] }

/-- A read of an invalid latch sets `STATUS.LATCH` (R49). -/
def Die.noteLatch (d : Die) (q : BitVec 3) : Die :=
  if Store.get false d.regs.qv q.toNat then d else d.later (.status 4#10)

/-- Scratchpad size in bytes. -/
def Die.spsize (d : Die) : Nat := d.sr.spsize.toNat

/-- A scratchpad byte: zero outside the partition (R108). -/
def Die.spByte (d : Die) (a : Int) : Byte :=
  if 0 ≤ a ∧ a < d.spsize then Store.get 0#8 d.arr.sp a.toNat else 0#8

/-- `n` scratchpad bytes from an offset. -/
def Die.spRead (d : Die) (a : Int) : Nat → List Byte
  | 0 => []
  | n + 1 => d.spByte a :: Die.spRead d (a + 1) n

/-- The number `n` scratchpad bytes hold. -/
def Die.spNat (d : Die) (a : Int) (n : Nat) : Nat := bytesNat (d.spRead a n)

/-- Write scratchpad bytes; a byte outside the partition is dropped (R108). -/
def Die.spWrite (d : Die) (a : Int) : List Byte → Die
  | [] => d
  | b :: rest =>
    let d1 := if 0 ≤ a ∧ a < d.spsize then
      { d with arr.sp := Store.set 0#8 d.arr.sp a.toNat b } else d
    Die.spWrite d1 (a + 1) rest

/-- The lowest offset of an access that lies outside the partition (R108). -/
def Die.spOffending (d : Die) (a : Int) (n : Nat) : Option Int :=
  if n = 0 then none
  else if a < 0 ∨ (d.spsize : Int) ≤ a then some a
  else if (d.spsize : Int) < a + n then some d.spsize
  else none

/-- Note a stream access outside the partition (R108). -/
def Die.noteOob (d : Die) (a : Int) (n : Nat) : Die :=
  match d.spOffending a n with
  | none => d
  | some o => d.later (.oob o)

/-- The scratchpad banks that an access touches inside the partition (R107). -/
def Die.banksOf (d : Die) (a : Int) (n : Nat) : List Nat :=
  let lo := max a 0
  let hi := min (a + n) d.spsize
  if lo < hi then
    let first := lo.toNat / Config.mib
    (List.range ((hi - 1).toNat / Config.mib - first + 1)).map (first + ·)
  else []

/-- Set `STATUS` bits at once, as hardware does outside the end of an issue cycle (R70, R89). -/
def Die.setStatus (d : Die) (b : BitVec 10) : Die :=
  { d with sr.status := d.sr.status ||| b, iss.raised := d.iss.raised ||| b }

/-- `STATUS` as it stands for the die clock cycle: a write of it acts from the next one on (R68, R70). -/
def Die.statusNow (d : Die) : BitVec 10 := d.sr.status ||| d.iss.cleared

/-- Set `STATUS.OOB`; `OOBADDR` keeps the first offset (R70, R108). -/
def Die.oobNow (d : Die) (off : Int) : Die :=
  { d.setStatus 1#10 with
    sr.oobaddr := if d.statusNow.getLsbD 0 then d.sr.oobaddr else BitVec.ofInt 26 off }

/-- An access lies wholly inside the partition. -/
def Die.spInside (d : Die) (a : Int) (n : Nat) : Bool := (d.spOffending a n).isNone

/-- Key of a shape field (R63): engines 0 `ma`, 1 `mb`, 2 `ta`, 3 `xa`; copies by number. -/
def shapeKey (eng reg copy field : Nat) : Nat := ((eng * 4 + reg) * 2 + copy) * 16 + field

/-- The active copy's number. -/
def Die.activeCopy (d : Die) (eng reg : Nat) : Nat :=
  if Store.get false d.tab.shapeSel (eng * 4 + reg) then 1 else 0

/-- A field of the active copy of a shape register. -/
def Die.shape (d : Die) (eng reg field : Nat) : BitVec 32 :=
  Store.get 0#32 d.tab.shape (shapeKey eng reg (d.activeCopy eng reg) field)

/-- A tensor entry. -/
def Die.tensor (d : Die) (id : Nat) : BitVec 512 := Store.get 0#512 d.tab.tid id

/-- A channel entry. -/
def Die.channel (d : Die) (c : Nat) : BitVec 512 := Store.get 0#512 d.tab.chan c

/-- An address-generator field (R58). -/
def Die.agField (d : Die) (set field : Nat) : BitVec 32 := Store.get 0#32 d.tab.ag (16 * set + field)

/-- A free value (R114, R217, R352): the next choice, and the state that has used it. [DESIGN CHOICE, log 3] -/
def State.choose (s : State) : Bool × State :=
  (Config.choice s.fresh, { s with fresh := s.fresh + 1 })

/-- The copies into the instruction banks that a reading of some flags shows complete (R134). -/
def Die.copiesShown (d : Die) (m : BitVec 32) : List Nat :=
  (d.arr.ibOld.filter fun x => x.flag.any m.getLsbD).map (·.copy)

/-- The stream observes the completions of some copies into the instruction banks (R134, R217). -/
def Die.observeCopies (d : Die) (l : List Nat) : Die :=
  let mark (x : OldWord) : OldWord := if l.contains x.copy then { x with seen := true } else x
  { d with arr.ibOld := d.arr.ibOld.map mark }

/-- The stream observes the completions of the engine operations whose flags are among some (R134); what is kept of
that is which copies into the instruction banks it has observed (R217). -/
def Die.observe (d : Die) (m : BitVec 32) : Die := d.observeCopies (d.copiesShown m)

/-- Flags that the stream clears show no completion any more, whatever sets them again (R134). -/
def Die.forget (d : Die) (m : BitVec 32) : Die :=
  let drop (x : OldWord) : OldWord := if x.flag.any m.getLsbD then { x with flag := none } else x
  { d with arr.ibOld := d.arr.ibOld.map drop }

/-- `PTIME` runs on by one die clock period, 1000 / MHz nanoseconds, at a rate that a correction changes by
200 parts per million (R7, R416, R434). [DESIGN CHOICE, log 7; DEDUCED, log 35] -/
def Pkg.clockEdge (p : Pkg) : Pkg :=
  let unit := 5 * max 1 p.regs.mhz.toNat
  let t := p.pfrac + (if 0 < p.slew then 5001 else if p.slew < 0 then 4999 else 5000)
  { p with
    clk := p.clk + 1
    ptime := p.ptime + BitVec.ofNat 64 (t / unit)
    pfrac := t % unit
    slew := if 0 < p.slew then p.slew - 1 else if p.slew < 0 then p.slew + 1 else 0 }

/-- `PTIME` at a die clock edge, the present one or the next. -/
def Pkg.timeAt (p : Pkg) (clk : Nat) : Word := if clk ≤ p.clk then p.ptime else p.clockEdge.ptime

/-- Set flags and error flags of a die as an engine completion does (R57). -/
def Die.setFlag (d : Die) (f : Nat) (err : Bool) : Die :=
  { d with sr.flg := d.sr.flg ||| BitVec.ofNat 32 (2 ^ f),
           sr.flgerr := if err then d.sr.flgerr ||| BitVec.ofNat 32 (2 ^ f) else d.sr.flgerr }

end Machine

end Sys2Proof
end

