-- ==== Sys2Proof/Machine/Mem.lean ====
section
/-! DEFINITION. Package memory: bytes, lines dirty in an L1, race tags, releases, monitors, page tables
and TLBs (chapters 05, 06, 20). -/
namespace Sys2Proof.Machine

/-- One byte of package memory, or of host memory behind the bridge. -/
def Pkg.byte (p : Pkg) (host : Bool) (a : Nat) : Byte :=
  Store.get Memory.empty (if host then p.host else p.mem) a

/-- Write one byte. -/
def Pkg.setByte (p : Pkg) (host : Bool) (a : Nat) (b : Byte) : Pkg :=
  if host then { p with host := Store.set Memory.empty p.host a b }
  else { p with mem := Store.set Memory.empty p.mem a b }

/-- Write bytes from an address upward. -/
def Pkg.setBytes (p : Pkg) (host : Bool) (a : Nat) : List Byte → Pkg
  | [] => p
  | b :: rest => Pkg.setBytes (p.setByte host a b) host (a + 1) rest

/-- The number of the 128-byte line of an address; host memory has lines of its own. -/
def lineOf (host : Bool) (a : Nat) : Nat := a / 128 + (if host then 2 ^ 52 else 0)

/-- The address a line number starts at, and whether it is in host memory. -/
def lineHost (l : Nat) : Bool := 2 ^ 52 ≤ l
def lineAddr (l : Nat) : Nat := l % 2 ^ 52 * 128

/-- The C-dies' sockets. -/
def sockets : List Nat := List.range 16

/-- A die's dirty copy of a line. -/
def State.dirtyCopy (s : State) (k line : Nat) : Option L1Line :=
  Store.get none (s.die k).cache.l1 line

/-- The bytes of a dirty copy over memory. -/
def L1Line.byte (l : L1Line) (i : Nat) : Option Byte :=
  if l.dirty.getLsbD i then some ((l.data >>> (8 * i)).setWidth 8) else none

/-- The first dirty copy of a byte among some dies. -/
def dirtyByte (s : State) (line i : Nat) : List Nat → Option Byte
  | [] => none
  | k :: rest =>
    match (s.dirtyCopy k line).bind (·.byte i) with
    | some b => some b
    | none => dirtyByte s line i rest

/-- One byte as the directory serves it: a line dirty in any L1 is read through it (R109). -/
def State.memByte (s : State) (host : Bool) (a : Nat) : Byte :=
  (dirtyByte s (lineOf host a) (a % 128) sockets).getD (s.pkg.byte host a)

/-- `n` bytes from an address. -/
def State.memRead (s : State) (host : Bool) (a : Nat) : Nat → List Byte
  | 0 => []
  | n + 1 => s.memByte host a :: State.memRead s host (a + 1) n

/-- The number `n` bytes hold. -/
def State.memNat (s : State) (host : Bool) (a n : Nat) : Nat := bytesNat (s.memRead host a n)

/-- The bytes of a line that a dirty copy holds, written to memory. -/
def flushBytes (l : L1Line) (host : Bool) (base : Nat) : List Nat → Pkg → Pkg
  | [], p => p
  | i :: rest, p =>
    flushBytes l host base rest (match l.byte i with
      | some b => p.setByte host (base + i) b
      | none => p)

/-- A line of a die's L1 goes home (R109), where it meets no fenced stack; a store that does is lost, and its die told as
an uncorrectable error tells it (R401, R402). [DEDUCED, log 36] -/
def State.goHome (s : State) (k line : Nat) (l : L1Line) : State :=
  if l.dirty ≠ 0#128 ∧ !lineHost line ∧ s.pkg.badStacks.contains (Config.homeStack line) then
    s.modDie k fun d => { d with ctl.dataErr := d.ctl.dataErr.or (some (BitVec.ofNat 64 (lineAddr line))) }
  else s.modPkg (flushBytes l (lineHost line) (lineAddr line) (List.range 128))

/-- A line leaves a die's L1, written back if it is dirty (R109); its tag is unchanged. [DEDUCED, log 19] -/
def State.writeBack (s : State) (k line : Nat) : State :=
  match s.dirtyCopy k line with
  | none => s
  | some l => (s.goHome k line l).modDie k fun d => { d with cache.l1 := Store.set none d.cache.l1 line none }

/-- A line of a die's L1 is written back and stays there, valid and clean (R109). -/
def State.clean (s : State) (k line : Nat) : State :=
  match s.dirtyCopy k line with
  | none => s
  | some l => (s.goHome k line l).modDie k fun d =>
      { d with cache.l1 := Store.set none d.cache.l1 line (some ⟨0#1024, 0#128, l.bank⟩) }

/-- Write back every dirty copy of a line. [DEDUCED, log 19] -/
def State.cohere (s : State) (line : Nat) : State :=
  sockets.foldl (fun s k => s.writeBack k line) s

/-- Write back every dirty line of a die (R137). -/
def State.writeBackAll (s : State) (k : Nat) : State :=
  ((s.die k).cache.l1.map (·.1)).foldl (fun s l => s.clean k l) s

/-- A die's region number (R143). -/
def Pkg.regionOf (p : Pkg) (k : Nat) : Nat := Store.get 0 p.regionNo k

/-- Publication: the region number increments (R143, R150). -/
def Pkg.publish (p : Pkg) (k : Nat) : Pkg :=
  { p with regionNo := Store.set 0 p.regionNo k ((p.regionOf k + 1) % 2 ^ 48) }

/-- A release of a die: the strong writes in its past can be missed by no one any more, and the others can no longer be
missed by it, which may now be in a reader's past (R132, R141). [DEDUCED, log 18] -/
def Pkg.settleLate (p : Pkg) (k : Nat) : Pkg :=
  { p with late := (p.late.filter fun x => !x.aware.contains k).map fun x => { x with aware := k :: x.aware } }

/-- A release of a die at `.pkg` or wider completes (R137, R143, R144). -/
def State.release (s : State) (k : Nat) : State := (s.writeBackAll k).modPkg fun p => (p.publish k).settleLate k

/-- A release of a die at a scope (R126): `.st` and `.die` write nothing back and publish nothing. -/
def State.releaseAt (s : State) (k scope : Nat) : State := if 2 ≤ scope then s.release k else s

/-- The race tag of a line. -/
def Pkg.tag (p : Pkg) (line : Nat) : Tag := Store.get Tag.published p.tags line

/-- A line is unpublished (R142): its agent is a C-die whose region number is still the tag's. -/
def Pkg.unpublished (p : Pkg) (line : Nat) : Bool :=
  let t := p.tag line
  t.agent < 16 && p.regionOf t.agent == t.region

/-- An ordinary access of a die to a line races (R145); host memory carries no tags. -/
def Pkg.races (p : Pkg) (k line : Nat) : Bool := !lineHost line && p.unpublished line && (p.tag line).agent != k

/-- An ordinary write of a die sets the tag (R143). -/
def Pkg.retag (p : Pkg) (k line : Nat) : Pkg :=
  if lineHost line then p else { p with tags := Store.set Tag.published p.tags line ⟨k, p.regionOf k⟩ }

/-- An inbound write tags its line published (R143). -/
def Pkg.tagInbound (p : Pkg) (line : Nat) : Pkg :=
  { p with tags := Store.set Tag.published p.tags line Tag.published }

/-- A write performed at the home ends the monitors of its line, except the writing stream's own
(R275); no reader misses an earlier write of the line any more (R141). -/
def State.noteWrite (s : State) (stream : Option Nat) (line : Nat) : State :=
  sockets.foldl (fun s k =>
    let d := s.die k
    if d.cache.mon = some line ∧ stream ≠ some k then
      s.setDie k { d with cache.mon := none, sr.monstat := (d.sr.monstat &&& 6#3) ||| 2#3 }
    else s) (s.modPkg fun p => { p with late := p.late.filter fun x => x.line != line })

/-- The lines that some bytes lie in. -/
def linesOf (host : Bool) (a n : Nat) : List Nat :=
  (List.range ((a % 128 + n + 127) / 128)).map (lineOf host a + ·)

/-- The lines of a write. -/
def State.noteWrites (s : State) (stream : Option Nat) (host : Bool) (a n : Nat) : State :=
  (linesOf host a n).foldl (fun s l => s.noteWrite stream l) s

/-- The monitor of a die loses its line (R275). -/
def Die.loseMonitor (d : Die) : Die :=
  { d with cache.mon := none, cache.monArming := none, sr.monstat := (d.sr.monstat &&& 2#3) ||| 4#3 }

/-- Put bytes into a dirty copy. -/
def L1Line.put (l : L1Line) (i : Nat) : List Byte → L1Line
  | [] => l
  | b :: rest =>
    let m : BitVec 1024 := 0xFF#1024 <<< (8 * i)
    L1Line.put ⟨(l.data &&& ~~~m) ||| (b.setWidth 1024 <<< (8 * i)), l.dirty ||| (1#128 <<< i), l.bank⟩ (i + 1) rest

/-- The bank the L1 fills a line into (R436), above the boundary of the scratchpad. [DEDUCED, log 19] -/
def Die.fillBank (d : Die) (pa : Nat) : Nat :=
  let s := d.sr.spsize.toNat / Config.mib
  s + pa / 128 % (Config.arrayBanks - s)

/-- Lines that one array bank holds. -/
def bankLines : Nat := Config.mib / 128

/-- A line that comes into a die's L1 may push a line of its bank out, and does when the bank is full: which one the
spec leaves open; a dirty one is written back (R109, R436). [DESIGN CHOICE, log 3; DEDUCED, log 19] -/
def State.evict (s : State) (k bank : Nat) : State :=
  let there := (s.die k).cache.l1.filterMap fun e => match e.2 with
    | some l => if l.bank = bank then some e.1 else none
    | none => none
  let s1 := { s with fresh := s.fresh + 1 }
  match (Config.victim s.fresh).or (if bankLines ≤ there.length then some 0 else none) with
  | none => s1
  | some i => match there[i % there.length]? with
    | none => s1
    | some line => s1.writeBack k line

/-- A line is brought into a die's L1, into the bank of that moment, unless it is there (R436). An MS page is not cached
(R110). -/
def State.fillLine (s : State) (k : Nat) (ph : Phys) : State :=
  let line := lineOf ph.host ph.pa
  if ph.ms ∨ (s.dirtyCopy k line).isSome then s
  else
    let bank := (s.die k).fillBank ph.pa
    (s.evict k bank).modDie k fun d =>
      { d with cache.l1 := Store.set none d.cache.l1 line (some ⟨0#1024, 0#128, bank⟩) }

/-- An ordinary store of a die is granted: other dirty copies are written back, the bytes go into the
die's L1 (an MS page is not cached, R110), the line takes the die's tag. The bytes lie in one line. -/
def State.ordinaryWrite (s : State) (k : Nat) (ph : Phys) (bytes : List Byte) : State :=
  let line := lineOf ph.host ph.pa
  let s1 := (sockets.filter (· ≠ k)).foldl (fun s j => s.writeBack j line) s
  let s2 := if ph.ms then (s1.writeBack k line).modPkg (·.setBytes ph.host ph.pa bytes)
    else (s1.fillLine k ph).modDie k fun d =>
      let l := ((Store.get none d.cache.l1 line).getD ⟨0#1024, 0#128, d.fillBank ph.pa⟩).put (ph.pa % 128) bytes
      { d with cache.l1 := Store.set none d.cache.l1 line (some l) }
  s2.modPkg (·.retag k line)

/-- A write at the home: strong, inbound or of an engine (R128). -/
def State.homeWrite (s : State) (ph : Phys) (bytes : List Byte) : State :=
  (s.cohere (lineOf ph.host ph.pa)).modPkg (·.setBytes ph.host ph.pa bytes)

/-- Bytes written at their homes. -/
def State.physBytes (s : State) (host : Bool) (a : Nat) : List Byte → State
  | [] => s
  | b :: rest =>
    let s1 := (s.cohere (lineOf host a)).modPkg (·.setByte host a b)
    State.physBytes s1 host (a + 1) rest

/-- A physical write of Brocade or of the host, with the monitors it ends (R275): records, rings, inbound writes. It
leaves the race tags of its lines as they are, where its caller does not set them (R143). [DEDUCED, log 5] -/
def State.physWrite (s : State) (host : Bool) (a : Nat) (bytes : List Byte) : State :=
  (s.physBytes host a bytes).noteWrites none host a bytes.length

/-- Bytes of lost lines are covered by a copy or an inbound write (R401). -/
def Pkg.cover (p : Pkg) (a n : Nat) : Pkg :=
  let one (m : Store (BitVec 128)) (i : Nat) : Store (BitVec 128) :=
    let x := a + i
    Store.set 0#128 m (x / 128) (Store.get 0#128 m (x / 128) &&& ~~~(1#128 <<< (x % 128)))
  if p.lost = [] then p else { p with lost := (List.range n).foldl one p.lost }

/-- A physical write tagged published (R143). [DESIGN CHOICE, log 5] -/
def State.inboundWrite (s : State) (a : Nat) (bytes : List Byte) : State :=
  (linesOf false a bytes.length).foldl (fun s l => s.modPkg (·.tagInbound l))
    ((s.physWrite false a bytes).modPkg (·.cover a bytes.length))

/-- A line that meets an uncorrectable error: lost, or homed on a fenced stack (R401, R402). -/
def Pkg.lineBad (p : Pkg) (line : Nat) : Bool :=
  !lineHost line && (Store.get 0#128 p.lost line != 0#128 || p.badStacks.contains (Config.homeStack line))

/-! Translation (R384-R388). -/

/-- The fault causes of R387. -/
inductive TransFault where
  | notMapped | prot | badPte | range | walkErr
deriving DecidableEq, Repr

/-- The code of a cause (R387). -/
def TransFault.code : TransFault → Nat
  | .notMapped => 1 | .prot => 2 | .badPte => 3 | .range => 4 | .walkErr => 5

/-- A page-table entry's fields (R385). -/
def pteValid (e : Nat) : Bool := e % 2 == 1
def pteLeaf (e : Nat) : Bool := e / 2 % 2 == 1
def pteSize (e : Nat) : Nat := bitsAt e 8 3
def ptePa (e : Nat) : Nat := bitsAt e 12 40

/-- A reserved field of an entry is nonzero (R385). -/
def pteReserved (e : Nat) : Bool :=
  bitsAt e 52 12 != 0 || bitsAt e 11 1 != 0 || bitsAt e 7 1 != 0 || bitsAt e 3 1 != 0 ||
    (!pteLeaf e && bitsAt e 2 9 != 0)

/-- Bytes of a page, leaf level and leaves of its group, by size code (R386). -/
def pageBytes (size : Nat) : Nat :=
  match size with
  | 0 => 2 ^ 12 | 1 => 2 ^ 16 | 2 => 2 ^ 18 | 3 => 2 ^ 21 | 4 => 2 ^ 25 | 5 => 2 ^ 28 | 6 => 2 ^ 30
  | _ => 2 ^ 34

def pageLevel (size : Nat) : Nat := if size < 3 then 0 else if size < 6 then 1 else 2

def pageGroup (size : Nat) : Nat :=
  match size with
  | 1 => 16 | 2 => 64 | 4 => 16 | 5 => 128 | 7 => 16 | _ => 1

/-- An entry of a table in package memory. -/
def State.pte (s : State) (t i : Nat) : Nat := s.memNat false (t + 8 * i) 8

/-- The group of a leaf is uniform and contiguous (R386). -/
def groupOk (s : State) (t i size : Nat) : Bool :=
  let g := pageGroup size
  let first := i / g * g
  let e0 := s.pte t first
  let span := pageBytes size / g / 4096
  ptePa e0 * 4096 % pageBytes size == 0 &&
    (List.range g).all fun j =>
      let e := s.pte t (first + j)
      pteValid e && pteLeaf e && !pteReserved e && pteSize e == size &&
        bitsAt e 2 1 == bitsAt e0 2 1 && bitsAt e 4 3 == bitsAt e0 4 3 && ptePa e == ptePa e0 + j * span

/-- The leaf of a walk (R386). -/
def leafOf (s : State) (t i lvl va : Nat) : Except TransFault (Phys × Nat) :=
  let e := s.pte t i
  let size := pteSize e
  let g := pageGroup size
  let read : List Nat := (List.range g).map fun j => lineOf false (t + 8 * (i / g * g + j))
  if pageLevel size ≠ lvl then .error .badPte
  else if read.any s.pkg.lineBad then .error .walkErr
  else if ¬ groupOk s t i size then .error .badPte
  else
    let e0 := s.pte t (i / pageGroup size * pageGroup size)
    let pa := ptePa e0 * 4096 + va % pageBytes size
    let host := bitsAt e0 6 1 == 1
    if ¬ host ∧ Config.installedBytes ≤ pa then .error .badPte
    else .ok (⟨pa, host, bitsAt e0 4 1 == 1, bitsAt e0 5 1 == 1, bitsAt e0 2 1 == 1⟩, size)

/-- The walk below a table (R385): levels still to go, highest first. -/
def walkFrom (s : State) (va : Nat) (t : Nat) : List Nat → Except TransFault (Phys × Nat)
  | [] => .error .badPte
  | lvl :: rest =>
    let i := bitsAt va (12 + 9 * lvl) 9
    if s.pkg.lineBad (lineOf false (t + 8 * i)) then .error .walkErr
    else
      let e := s.pte t i
      if ¬ pteValid e then .error .notMapped
      else if pteReserved e then .error .badPte
      else if pteLeaf e then leafOf s t i lvl va
      else if lvl = 0 then .error .badPte
      else walkFrom s va (ptePa e * 4096) rest

/-- A full walk under a partition's root (R385). -/
def State.walk (s : State) (part : Nat) (va : Int) : Except TransFault (Phys × Nat) :=
  if va < 0 ∨ 2 ^ 57 ≤ va then .error .range
  else
    let root := (Store.get 0#64 s.pkg.regs.ptroot part).toNat
    if root % 2 = 0 then .error .notMapped
    else walkFrom s va.toNat (bitsAt root 12 40 * 4096) [4, 3, 2, 1, 0]

/-- A TLB entry that translates an address. -/
def tlbFind (part : Nat) (va : Nat) (l : List TlbEntry) : Option Phys :=
  (l.find? fun e => e.part == part && e.page == va / pageBytes e.size).map fun e =>
    { e.phys with pa := e.phys.pa + va % pageBytes e.size }

/-- The TLB of a die, or the shared TLB at 16 (R388). -/
def Pkg.tlbOf (p : Pkg) (k : Nat) : List TlbEntry := Store.get [] p.tlb k

/-- Enter a translation into a TLB; entries of the same page are replaced. [DEDUCED, log 12] -/
def Pkg.tlbEnter (p : Pkg) (k : Nat) (e : TlbEntry) : Pkg :=
  let old := (p.tlbOf k).filter fun x => !(x.part == e.part && x.size == e.size && x.page == e.page)
  { p with tlb := Store.set [] p.tlb k ((e :: old).take (if k < 16 then 512 else 65536)) }

/-- Translate an access of a requester (a socket, or 16 for Brocade): a TLB entry may be used as it
stands or walked again; a walk that faults makes none (R388). A leaf with `W` clear faults a write with `PROT`, unless
its page is migrating (R387, R404). [DEDUCED, log 12] -/
def State.translate (s : State) (k part : Nat) (va : Int) (write : Bool) :
    Except TransFault Phys × State :=
  let judge (ph : Phys) : Except TransFault Phys :=
    if write ∧ ¬ ph.writable ∧ ¬ ph.mig then .error .prot else .ok ph
  let cached := if va < 0 then none else
    (tlbFind part va.toNat (s.pkg.tlbOf k)).or (tlbFind part va.toNat (s.pkg.tlbOf 16))
  let fromWalk (s : State) : Except TransFault Phys × State :=
    match s.walk part va with
    | .error e => (.error e, s)
    | .ok (ph, size) =>
      match judge ph with
      | .error f => (.error f, s)
      | .ok q =>
        let e : TlbEntry := ⟨part, va.toNat / pageBytes size, size,
          { ph with pa := ph.pa - va.toNat % pageBytes size }⟩
        (.ok q, s.modPkg fun p => (p.tlbEnter k e).tlbEnter 16 e)
  match cached with
  | none => fromWalk s
  | some ph =>
    if (s.walk part va).toOption.map (·.1) = some ph then
      (judge ph, s)
    else
      let (new, s1) := s.choose
      if new then fromWalk s1 else (judge ph, s1)

/-- Drop the TLB entries that a predicate names from every TLB of the package. -/
def Pkg.tlbDrop (p : Pkg) (f : Nat → TlbEntry → Bool) : Pkg :=
  let drop (t : Store (List TlbEntry)) (k : Nat) : Store (List TlbEntry) :=
    Store.set [] t k ((Store.get [] t k).filter fun e => !f k e)
  { p with tlb := (List.range 17).foldl drop p.tlb }

end Sys2Proof.Machine
end

