-- ==== Sys2Proof/Machine/Region.lean ====
section
/-! DEFINITION. Region control blocks: their chain, effective values, charges and fault rings
(R360-R362, R397). A block is read from package memory at every use. -/
namespace Sys2Proof.Machine

/-- A field of a block: the bits [lo+n-1:lo] of the doubleword at an offset. -/
def State.rcb (s : State) (addr off lo n : Nat) : Nat := bitsAt (s.memNat false (addr + off) 8) lo n

/-- Write a field of a block at its home, as hardware does. -/
def State.setRcb (s : State) (addr off lo n x : Nat) : State :=
  let v := s.memNat false (addr + off) 8
  let w := v - bitsAt v lo n * 2 ^ lo + x % 2 ^ n * 2 ^ lo
  let s1 := s.physWrite false (addr + off) (natBytes 8 w)
  s1.noteWrite none (lineOf false (addr + off))

/-- The block's chain of parents, the block first; `none` when it is longer than eight blocks or
returns to a block (R361). -/
def rcbChain (s : State) : Nat → List Nat → Nat → Option (List Nat)
  | 0, _, _ => none
  | fuel + 1, seen, addr =>
    if seen.contains addr then none
    else
      let parent := s.rcb addr 0x08 0 57
      if parent = 0 then some [addr]
      else (rcbChain s fuel (addr :: seen) parent).map (addr :: ·)

def State.chain (s : State) (addr : Nat) : Option (List Nat) := rcbChain s 8 [] addr

/-- The reserved fields of a block are zero and its kind is in range (R360, R361). Bits that R360's table neither
names nor marks reserved are taken as reserved at 0x08, 0x10, 0x18, 0x20 and 0x38, and are not looked at in the
ring words 0x60, 0x68 and 0x70. An identifier of 0, which R360 excludes and R361's list of refusals does not name, is
refused too. [DEDUCED, log 41; DEDUCED, log 24] -/
def State.rcbFieldsOk (s : State) (a : Nat) : Bool :=
  s.rcb a 0x00 0 32 != 0 && s.rcb a 0x00 32 8 ≤ 2 && s.rcb a 0x00 40 8 == 0 &&
  s.rcb a 0x08 57 7 == 0 && s.rcb a 0x10 8 56 == 0 &&
  s.rcb a 0x18 13 3 == 0 && s.rcb a 0x18 32 32 == 0 && s.rcb a 0x20 32 32 == 0 &&
  s.rcb a 0x38 5 59 == 0 && s.rcb a 0x78 16 48 == 0 &&
  (List.range 16).all fun i => s.memNat false (a + 0x80 + 8 * i) 8 == 0

/-- The root of a chain. -/
def rootOf (l : List Nat) : Nat := l.getLast?.getD 0

/-- A block that a launch may name (R361, R362): a good chain whose root is a partition with an ordered
priority range. -/
def State.rcbOk (s : State) (a : Nat) : Bool :=
  match s.chain a with
  | none => false
  | some l =>
    let r := rootOf l
    l.all (s.rcbFieldsOk ·) && s.rcb r 0x00 32 8 == 0 && s.rcb r 0x18 4 4 ≤ s.rcb r 0x18 8 4 &&
      a % 256 == 0

/-- The partition of a block, read from its root (R360). -/
def State.rcbPart (s : State) (a : Nat) : Nat :=
  match s.chain a with
  | none => 0
  | some l => s.rcb (rootOf l) 0x00 48 16

/-- A budget's effective value along a chain, the block first (R362): bit `ovr` of `OVR` and the field.-/
def effBudget (s : State) (ovr off lo n : Nat) : List Nat → Nat
  | [] => 0
  | [r] => if s.rcb r 0x10 ovr 1 = 1 then s.rcb r off lo n else 0
  | a :: rest =>
    let up := effBudget s ovr off lo n rest
    if s.rcb a 0x10 ovr 1 = 1 then min (s.rcb a off lo n) up else up

/-- A field that is inherited unless its bit is set (R362). -/
def effField (s : State) (ovr off lo n : Nat) : List Nat → Nat
  | [] => 0
  | a :: rest => if s.rcb a 0x10 ovr 1 = 1 then s.rcb a off lo n else effField s ovr off lo n rest

/-- The chain of a block, empty when it is bad. -/
def State.chainOr (s : State) (a : Nat) : List Nat := (s.chain a).getD []

/-- Clamp a priority to the range of the root (R362). -/
def State.clampPrio (s : State) (a p : Nat) : Nat :=
  let r := rootOf (s.chainOr a)
  max (s.rcb r 0x18 4 4) (min (s.rcb r 0x18 8 4) p)

/-- The effective values of R362. -/
def State.effPrio (s : State) (a : Nat) : Nat := s.clampPrio a (effField s 0 0x18 0 4 (s.chainOr a))
def State.effFdom (s : State) (a : Nat) : Nat := effField s 1 0x18 16 16 (s.chainOr a)
def State.effDies (s : State) (a : Nat) : Nat := effBudget s 2 0x20 0 32 (s.chainOr a)
def State.effPolicy (s : State) (a : Nat) : Bool := effField s 7 0x18 12 1 (s.chainOr a) == 1

/-- LLC ways of each slice that a region may fill; no LLC slice is held (R20, R362). [DEDUCED, log 42] -/
def State.effLlcw (s : State) (a : Nat) : Nat := effBudget s 6 0x38 0 5 (s.chainOr a)

/-- HBM bytes of a context image with its backlog ring (R379, R381). -/
def State.imageCharge (s : State) (a : Nat) : Nat :=
  let u := s.rcb a 0x78 0 16
  Config.ctxSize + (if u = 0 then Config.mib else 65536 * u)

/-- The budgets that are charged, with their fields and usage counters (R360). -/
inductive Budget where
  | dies | locks | qent | hbm
deriving DecidableEq, Repr

/-- A budget's effective value. -/
def Budget.limit (b : Budget) (s : State) (l : List Nat) : Nat :=
  match b with
  | .dies => effBudget s 2 0x20 0 32 l
  | .hbm => effBudget s 3 0x28 0 64 l
  | .locks => effBudget s 4 0x30 0 32 l
  | .qent => effBudget s 5 0x30 32 32 l

/-- The offset of a budget's usage counter. -/
def Budget.used : Budget → Nat
  | .dies => 0x40 | .locks => 0x48 | .qent => 0x50 | .hbm => 0x58

/-- A charge fits the effective budget of the region and of every ancestor (R362). -/
def chargeFits (s : State) (b : Budget) (n : Nat) : List Nat → Bool
  | [] => true
  | a :: rest => s.rcb a b.used 0 64 + n ≤ b.limit s (a :: rest) && chargeFits s b n rest

def State.fits (s : State) (b : Budget) (rcb n : Nat) : Bool := chargeFits s b n (s.chainOr rcb)

/-- Add a charge at every level (R361, R362). -/
def State.charge (s : State) (b : Budget) (rcb n : Nat) : State :=
  (s.chainOr rcb).foldl (fun s a => s.setRcb a b.used 0 64 (s.rcb a b.used 0 64 + n)) s

/-- Return a charge at every level: a strong add (R361). -/
def State.discharge (s : State) (b : Budget) (rcb n : Nat) : State :=
  (s.chainOr rcb).foldl (fun s a => s.setRcb a b.used 0 64 (s.rcb a b.used 0 64 + (2 ^ 64 - n))) s

/-- The nearest region of the chain with a fault ring (R397). -/
def ringOf (s : State) : List Nat → Option Nat
  | [] => none
  | a :: rest => if s.rcb a 0x68 0 16 ≠ 0 then some a else ringOf s rest

/-- Write a 64-byte record to the region fault ring (R397); the vector of the partition's VF signals it
(R425). -/
def State.regionRecord (s : State) (rcb : Nat) (bytes : List Byte) : State :=
  match ringOf s (s.chainOr rcb) with
  | none => s
  | some a =>
    let size := s.rcb a 0x68 0 16
    let head := s.rcb a 0x68 32 16
    if (head + 1) % size = s.rcb a 0x68 16 16 then
      s.setRcb a 0x70 32 32 (s.rcb a 0x70 32 32 + 1)
    else
      let base := s.rcb a 0x60 6 46 * 64
      let s1 := (s.inboundWrite (base + 64 * head) (bytes.take 64)).setRcb a 0x68 32 16 ((head + 1) % size)
      match s.pkg.partitions.find? fun x => x.id == s.rcbPart rcb && x.fn != 0 with
      | none => s1
      | some x => s1.modPkg fun p => { p with outbox := p.outbox ++ [.vector x.fn (33 + 2 * (x.fn - 1))] }

/-- The bytes of a region record of kinds 1 to 3 (R397). -/
def regionRecordBytes (kind code sock kern : Nat) (time w16 w24 : Nat) : List Byte :=
  natBytes 4 (kind + code % 256 * 256 + sock * 65536) ++ natBytes 4 kern ++ natBytes 8 time ++
    natBytes 8 w16 ++ natBytes 8 w24 ++ natBytes 32 0

/-- Mark a region `FAULTED` (R360, R395). -/
def State.markFaulted (s : State) (rcb : Nat) : State := s.setRcb rcb 0x70 0 2 1

/-- The region is marked `FAULTED`. -/
def State.regionFaulted (s : State) (rcb : Nat) : Bool := s.rcb rcb 0x70 0 2 == 1

end Sys2Proof.Machine
end

