-- ==== Sys2Proof/Machine/Tiles.lean ====
section
/-! DEFINITION. Engine completions, arrival counters, tiles, barriers, and the start conditions they
make hold (R57, R277-R282, R369, R398, R399). -/
namespace Sys2Proof.Machine

/-- The engine operation of an id. -/
def Pkg.engine (p : Pkg) (id : Nat) : Option Engine := p.engines.find? (·.id == id)

/-- Replace an engine operation. -/
def Pkg.putEngine (p : Pkg) (e : Engine) : Pkg :=
  { p with engines := p.engines.map fun x => if x.id == e.id then e else x }

/-- Set how far an operation has come. -/
def Pkg.engineStage (p : Pkg) (id : Nat) (st : EngineStage) : Pkg :=
  { p with engines := p.engines.map fun x => if x.id == id then { x with stage := st } else x }

/-- Take an operation off the list. -/
def Pkg.dropEngine (p : Pkg) (id : Nat) : Pkg :=
  { p with engines := p.engines.filter fun x => x.id != id }

/-- The kernel that issued the operation runs on its die. -/
def State.resident (s : State) (sock kern : Nat) : Bool :=
  (s.die sock).sr.kernid.toNat == kern && (s.die sock).ctl.run != .idle

/-- The context image of a descheduled kernel's die. -/
def Pkg.imageOf (p : Pkg) (sock kern : Nat) : Option Image :=
  p.images.find? fun i => i.away && i.kern == kern && i.sock == sock

/-- The kind of an engine's write to the scratchpad of a kernel that is away: no record of its ring (R381). -/
def lateWrite : Nat := 3

/-- Engine writes to the scratchpad of a kernel's die; those of a descheduled kernel are kept with its
backlog (R380, R381). A kernel that ended keeps its die's scratchpad until another comes (R349). -/
def State.engineWrite (s : State) (sock kern : Nat) (a : Int) (bytes : List Byte) : State :=
  if s.resident sock kern then s.modDie sock (·.spWrite a bytes)
  else if (s.pkg.imageOf sock kern).isSome then s.modPkg fun p => { p with
    backlog := p.backlog ++ [⟨kern, sock, a.toNat, bytes.drop (-a).toNat, lateWrite, none, none, 0#64, 0⟩] }
  else if (s.die sock).sr.kernid.toNat = kern then s.modDie sock (·.spWrite a bytes)
  else s

/-- A die as its kernel left it: the die itself, or the image while the kernel is away. -/
def State.kernelDie (s : State) (sock kern : Nat) : Die :=
  if s.resident sock kern then s.die sock
  else match s.pkg.imageOf sock kern with
    | some i => i.die
    | none => s.die sock

/-- Change the die of a kernel, in its image while the kernel is away. -/
def State.modKernelDie (s : State) (sock kern : Nat) (f : Die → Die) : State :=
  if s.resident sock kern then s.modDie sock f
  else
    let put (i : Image) : Image := if i.away && i.kern == kern && i.sock == sock then { i with die := f i.die } else i
    s.modPkg fun p => { p with images := p.images.map put }

/-- Engine reads of the scratchpad of a kernel's die (R108). -/
def State.engineRead (s : State) (sock kern : Nat) (a : Int) (n : Nat) : List Byte :=
  let put (d : Die) (b : Backlog) : Die := if b.kern == kern && b.sock == sock then d.spWrite b.dest b.bytes else d
  let d := s.kernelDie sock kern
  (if s.resident sock kern then d else s.pkg.backlog.foldl put d).spRead a n

/-- Set a completion flag (R57); a descheduled kernel's in Brocade's shadow (R380). -/
def State.engineFlag (s : State) (sock kern flag : Nat) (err : Bool) : State :=
  if s.resident sock kern then s.modDie sock (·.setFlag flag err)
  else
    let mark (i : Image) : Image :=
      if i.away && i.kern == kern && i.sock == sock then
        { i with flg := i.flg ||| BitVec.ofNat 32 (2 ^ flag),
                 flgerr := if err then i.flgerr ||| BitVec.ofNat 32 (2 ^ flag) else i.flgerr }
      else i
    s.modPkg fun p => { p with images := p.images.map mark }

/-- An operation completes: its writes, then its flag (R277), with its error bit too when a write is dropped outside the
partition (R108, R121, R276, R291): the code in the status word does not tell of that, since R277 gives the operations
none for it. Those of a killed stream run to completion, and only their flags are discarded (R349).
[DEDUCED, log 25] -/
def State.finish (s : State) (e : Engine) (writes : List (Int × List Byte)) (err : Bool) : State :=
  let s1 := s.modPkg (·.dropEngine e.id)
  let dropped := writes.any fun w => !(s1.kernelDie e.sock e.kern).spInside w.1 w.2.length
  let s2 := writes.foldl (fun s w => s.engineWrite e.sock e.kern w.1 w.2) s1
  if e.orphan then s2 else s2.engineFlag e.sock e.kern e.flag (err || dropped)

/-- The status word of R277. -/
def statusWord (code value : Nat) : List Byte := natBytes 4 code ++ natBytes 4 value

/-- An operation with an 8-byte status word completes (R277). -/
def State.finishWord (s : State) (e : Engine) (code value : Nat) : State :=
  s.finish e (match e.status with
    | none => []
    | some a => [((a : Int), statusWord code value)]) (code != 0)

/-- An arrival counter. -/
def Pkg.counter (p : Pkg) (c : Nat) : Counter := Store.get Counter.fresh p.counters c

/-- A tile whose condition now holds becomes eligible, at this moment (R278). -/
def tileWake (c : Nat) (k : Counter) (stamp : Nat) (t : Tile) : Tile :=
  if t.ctr = c ∧ t.moment = none ∧ (k.token ∨ t.target ≤ k.value.toNat) then
    { t with moment := some stamp } else t

/-- A launch whose start condition now holds becomes runnable (R369). -/
def launchWake (c : Nat) (k : Counter) (time : Nat) (l : Launch) : Launch :=
  let startv := l.packet.getLsbD (64 * 10 + 11)
  let ctr := fieldAt l.packet (64 * 14 + 40) 16
  let target := fieldAt l.packet (64 * 15 + 32) 32
  if l.stage = .queued ∧ l.runnable = none ∧ startv ∧ ctr = c ∧ (k.token ∨ target ≤ k.value.toNat) then
    { l with runnable := some time } else l

/-- Write a counter and re-evaluate what depends on it (R280). -/
def Pkg.putCounter (p : Pkg) (c : Nat) (k : Counter) : Pkg :=
  let wake (q : TilePair) : TilePair :=
    { q with high := q.high.map (tileWake c k p.nextId), low := q.low.map (tileWake c k p.nextId) }
  { p with
    counters := Store.set Counter.fresh p.counters c k
    tiles := p.tiles.map fun e => (e.1, wake e.2)
    launches := p.launches.map (launchWake c k p.ptime.toNat)
    nextId := p.nextId + 1 }

/-- `ARRIVE` (R280, R398): the counter's new state, the code. -/
def Pkg.arrive (p : Pkg) (c : Nat) (v : BitVec 32) : Pkg × Nat :=
  let k := p.counter c
  (p.putCounter c { k with value := k.value + v }, if k.token then 2 else 0)

/-- `ARRIVE.set`, and a `KWR` of the value: the token clears (R398). -/
def Pkg.arriveSet (p : Pkg) (c : Nat) (v : BitVec 32) : Pkg :=
  p.putCounter c { p.counter c with value := v, token := false }

/-- An error token passes to a counter (R398). -/
def Pkg.passToken (p : Pkg) (c : Nat) : Pkg := p.putCounter c { p.counter c with token := true }

/-- The pair of an index. -/
def Pkg.pair (p : Pkg) (q : Nat) : TilePair := Store.get TilePair.fresh p.tiles q

/-- Replace a pair. -/
def Pkg.putPair (p : Pkg) (q : Nat) (t : TilePair) : Pkg :=
  { p with tiles := Store.set TilePair.fresh p.tiles q t }

/-- The earlier of two enqueues of a pair: sequence numbers wrap (R278). -/
def seqBefore (a b : Nat) : Bool := a != b && (b + (2 ^ 32 - a % 2 ^ 32)) % 2 ^ 32 < 2 ^ 31

/-- The tile that became eligible first (R279), ties broken by enqueue order. -/
def firstTile : List Tile → Option Tile
  | [] => none
  | t :: rest =>
    match t.moment, firstTile rest with
    | none, r => r
    | some _, none => some t
    | some m, some r =>
      match r.moment with
      | none => some t
      | some n => if m < n ∨ (m = n ∧ seqBefore t.seq r.seq) then some t else some r

/-- The tile a `TAKE` would get: the high queue first (R279). -/
def TilePair.choose (q : TilePair) : Option (Bool × Tile) :=
  match firstTile q.high with
  | some t => some (true, t)
  | none => (firstTile q.low).map fun t => (false, t)

/-- Take a tile out of its queue. -/
def TilePair.remove (q : TilePair) (high : Bool) (t : Tile) : TilePair :=
  if high then { q with high := q.high.filter (·.seq != t.seq) }
  else { q with low := q.low.filter (·.seq != t.seq) }

/-- The 64-byte result of a `TAKE` (R279). -/
def takeBytes (payload code seq : Nat) : List Byte :=
  natBytes 48 payload ++ natBytes 4 code ++ natBytes 4 seq ++ natBytes 8 0

/-- Complete a `TAKE` with its result and status word (R279). -/
def State.finishTake (s : State) (e : Engine) (off payload code seq : Nat) : State :=
  s.finish e (((off : Int), takeBytes payload code seq) :: (match e.status with
    | none => []
    | some a => [((a : Int), statusWord code seq)])) (code != 0)

/-- Serve the first pending `TAKE` of a pair, if a tile is eligible or the pair is closed and empty
(R279). -/
def State.takeServe (s : State) (q : Nat) : State :=
  let pr := s.pkg.pair q
  match pr.takers with
  | [] => s
  | id :: rest =>
    match s.pkg.engine id with
    | none => s.modPkg (·.putPair q { pr with takers := rest })
    | some e =>
      match e.job with
      | .take _ off =>
        match pr.choose with
        | some (high, t) =>
          let cancelled := (t.ctr != 0xFFFF) && (s.pkg.counter t.ctr).token
          let s0 := s.modPkg fun p =>
            (p.putPair q { (pr.remove high t) with takers := rest })
          let s1 := s0.discharge .qent t.rcb 1
          let s2 := if cancelled then s1 else s1.modPkg fun p =>
            { p with taken := p.taken ++ [⟨e.sock, e.kern, q, high, t⟩] }
          s2.finishTake e off t.payload.toNat (if cancelled then 2 else 0) t.seq
        | none =>
          if pr.closed ∧ pr.high.isEmpty ∧ pr.low.isEmpty then
            (s.modPkg (·.putPair q { pr with takers := rest })).finishTake e off 0 1 0
          else s
      | _ => s.modPkg (·.putPair q { pr with takers := rest })

/-- A barrier. -/
def Pkg.barrier (p : Pkg) (b : Nat) : Barrier := Store.get Barrier.fresh p.barriers b

def Pkg.putBarrier (p : Pkg) (b : Nat) (x : Barrier) : Pkg :=
  { p with barriers := Store.set Barrier.fresh p.barriers b x }

/-- Decide every operation of a list with a code; each completes later, with VALUE 0, of which R277 says nothing.
[DEDUCED, log 25] -/
def Pkg.decideAll (p : Pkg) (ids : List Nat) (code : Nat) : Pkg :=
  ids.foldl (fun p id => p.engineStage id (.decided code 0)) p

/-- Complete the phase of a barrier when its count is reached, or when only abandoned participants are
missing, and at least one is (R282, R399). -/
def Pkg.barrierSettle (p : Pkg) (b : Nat) : Pkg :=
  let x := p.barrier b
  let next : Barrier := { x with waiting := [], arrived := [] }
  if ¬ x.init ∨ x.waiting.isEmpty then p
  else if x.expected ≤ x.waiting.length then (p.decideAll x.waiting 0).putBarrier b next
  else if (x.abandoned.any fun m => !x.arrived.contains m) ∧
      (x.counted.all fun m => x.abandoned.contains m || x.arrived.contains m) then
    (p.decideAll x.waiting 7).putBarrier b next
  else p

/-- An arrival at a barrier (R282); a participant that was abandoned stays marked (R399). -/
def Pkg.barrierArrive (p : Pkg) (b id member : Nat) : Pkg :=
  let x := p.barrier b
  let x1 : Barrier := { x with
    waiting := x.waiting ++ [id]
    arrived := x.arrived ++ [member]
    counted := if x.counted.contains member then x.counted else x.counted ++ [member] }
  (p.putBarrier b x1).barrierSettle b

/-- A participant is abandoned at a barrier that counts it: in the current phase when it has not arrived, and in those
that follow (R23, R220, R282, R399). -/
def Pkg.barrierAbandon (p : Pkg) (b member : Nat) : Pkg :=
  let x := p.barrier b
  if x.counted.contains member ∧ ¬ x.abandoned.contains member then
    (p.putBarrier b { x with abandoned := x.abandoned ++ [member] }).barrierSettle b
  else p

/-- Abandon a participant at every barrier. -/
def Pkg.abandonAll (p : Pkg) (member : Nat) : Pkg :=
  (p.barriers.map (·.1)).foldl (fun p b => p.barrierAbandon b member) p

/-- Return a barrier to uninitialised (R354): pending arrivals complete with `ABANDONED`. [DEDUCED, log 25] -/
def Pkg.barrierReset (p : Pkg) (b : Nat) : Pkg :=
  (p.decideAll (p.barrier b).waiting 7).putBarrier b Barrier.fresh

/-- Does an object with this owner belong to a region of a partition. -/
def ownedBy (owner : Owner) (part region : Nat) : Bool := owner.region != 0 && owner == ⟨part, region⟩

/-- The tile a 64-byte record describes (R278). -/
def tileOf (rec : BitVec 512) (seq rcb : Nat) (p : Pkg) : Tile :=
  let ctr := fieldAt rec 384 16
  let target := fieldAt rec 400 32
  let k := p.counter ctr
  let now := ctr == 0xFFFF || k.token || decide (target ≤ k.value.toNat)
  ⟨seq, rec.setWidth 384, ctr, target, rcb, if now then some p.nextId else none⟩

/-- `ENQT` at Brocade (R278): the code, the sequence number, the state after. A tile takes one entry of
the region's `QENT` budget until it is taken (R360, R362). -/
def State.enqt (s : State) (part region rcb q : Nat) (rec : BitVec 512) (inside : Bool) : Nat × Nat × State :=
  let p := s.pkg
  let pr := p.pair q
  let high := rec.getLsbD 433
  let bad := fieldAt rec 434 78 != 0 || rec.getLsbD 432
  let ctr := fieldAt rec 384 16
  let idOk := ownedBy pr.owner part region &&
    (ctr == 0xFFFF || ownedBy (p.counter ctr).owner part region)
  let full := decide (Config.tileEntries ≤ (if high then pr.high.length else pr.low.length)) ||
    !s.fits .qent rcb 1
  if ¬ inside ∨ bad then (9, 0, s)
  else if ¬ idOk then (5, 0, s)
  else if pr.closed then (4, 0, s)
  else if full then (3, 0, s)
  else
    let t := tileOf rec pr.nextSeq rcb p
    let pr1 := { pr with nextSeq := (pr.nextSeq + 1) % 2 ^ 32 }
    let pr2 := if high then { pr1 with high := pr1.high ++ [t] } else { pr1 with low := pr1.low ++ [t] }
    (0, pr.nextSeq, (s.modPkg fun p => { (p.putPair q pr2) with nextId := p.nextId + 1 }).charge .qent rcb 1)

/-- Close a pair (R278). -/
def Pkg.closePair (p : Pkg) (q : Nat) : Pkg := p.putPair q { p.pair q with closed := true }

/-- Reopen an empty pair (R354); ignored when it holds entries. -/
def Pkg.openPair (p : Pkg) (q : Nat) : Pkg :=
  let pr := p.pair q
  if pr.high.isEmpty ∧ pr.low.isEmpty then p.putPair q { pr with closed := false } else p

end Sys2Proof.Machine
end

