-- ==== Sys2Proof/Machine/Contain.lean ====
section
/-! DEFINITION. How a stream ends: lock transactions, barrier participation, completion records, fencing
a die, region faults and their domain (R22, R23, R220, R349, R376, R377, R394-R398). -/
namespace Sys2Proof.Machine

/-- Apply what Garnet answered: its state, completions, lock-entry charges, wounds (chapter 14). -/
def State.applyLock (s : State) (o : LockOut) : State :=
  let s1 := s.modPkg fun p => { p with garnet := o.g }
  let s2 := o.done.foldl (fun s d => s.modPkg (·.engineStage d.1 (.decided d.2 0))) s1
  let s3 := o.taken.foldl (fun s r => s.charge .locks r 1) s2
  let s4 := o.freed.foldl (fun s r => s.discharge .locks r 1) s3
  o.wounds.foldl (fun s w =>
    match s.pkg.garnet.txnOf w.1 with
    | none => s
    | some t =>
      if s.resident t.sock t.kern then
        s.modDie t.sock fun d => { d with ctl.wounds := d.ctl.wounds ++ [w] }
      else
        let put (d : Die) : Die := { d with ctl.wounds := d.ctl.wounds ++ [w] }
        let mark (i : Image) : Image :=
          if i.away && i.kern == t.kern && i.sock == t.sock then { i with die := put i.die } else i
        s.modPkg fun p => { p with images := p.images.map mark }) s4

/-- `TXN` is written when `LKTXN` opens, and cleared when `LKREL.all` or `LKABT` ends (R318); `LKABT` takes
back a wound of its transaction that has not been delivered (R328). -/
def Die.noteTxn (d : Die) (op code : Nat) (txn : Word) : Die :=
  let d1 := if op = 6 then { d with ctl.wounds := d.ctl.wounds.filter (·.1 != txn) } else d
  if op = 0 ∧ code = 0 then { d1 with sr.txn := txn }
  else if (op = 5 ∨ op = 6) ∧ (code = 0 ∨ code = 4) then { d1 with sr.txn := 0#64 }
  else d1

/-- The open transaction of a kernel's die. -/
def Garnet.txnAt (g : Garnet) (sock kern : Nat) : Option Txn := g.txns.find? fun t => t.sock == sock && t.kern == kern

/-- End the open transaction of a kernel's die as `LKABT` would (R220, R318, R328). -/
def State.abortLocks (s : State) (sock kern : Nat) : State :=
  match s.pkg.garnet.txnAt sock kern with
  | none => s
  | some t => (s.applyLock (endTxn s.pkg.ptime.toNat ⟨s.pkg.garnet, [], [], [], []⟩ t.id)).modKernelDie sock kern
      fun d => d.noteTxn 6 0 t.id

/-- A participant of a barrier. -/
def member (sock kern : Nat) : Nat := 16 * kern + sock

/-- Discard what is in flight on a die, its handler state included, and let it go (R220, R349, R394). -/
def Die.stop (d : Die) (st : BitVec 16) : Die :=
  { d with
    ctl := { Ctl.cold with bank := d.ctl.bank, endStatus := st }
    pipe := Pipes.cold
    tab.inp := [], tab.outp := [], tab.outq := [] }

/-- Take a requester's requests out of the fault records; a record with none is no longer outstanding
(R393). -/
def Pkg.dropWaiters (p : Pkg) (gone : Waiter → Bool) : Pkg :=
  let rest := p.faults.map fun f => { f with waiters := f.waiters.filter (!gone ·) }
  { p with faults := rest.filter fun f => !f.waiters.isEmpty }

/-- A landing request waits on a fault that is reported (R34). -/
def State.markLanding (s : State) (id : Nat) (b : Bool) : State :=
  match s.pkg.reqs.find? (·.id == id) with
  | none => s
  | some r => s.modDie r.sock fun d =>
    let mark (l : Landing) : Landing := if l.id == id then { l with faulted := b } else l
    { d with
      pipe.landings := d.pipe.landings.map mark
      ctl.snapshot := d.ctl.snapshot.map fun x => { x with landings := x.landings.map mark } }

/-- Mark what a waiter waits for. -/
def State.markWaiter (s : State) (w : Waiter) (b : Bool) : State :=
  match w with
  | .request id => s.markLanding id b
  | _ => s

/-- Records outstanding (R392). -/
def Pkg.recorded (p : Pkg) : Nat := (p.faults.filter (·.recorded)).length

/-- Requests that waited for one of the 256 records get it, in fault order, while there is room (R392). -/
def State.promoteSome : Nat → State → State
  | 0, s => s
  | n + 1, s =>
    match s.pkg.faults.find? fun r => !r.recorded with
    | none => s
    | some r =>
      if Config.faultRecords ≤ s.pkg.recorded then s
      else
        let fix (x : FaultRec) : FaultRec := if x == r then { x with recorded := true, seq := s.pkg.faultSeq + 1 } else x
        let s1 := s.modPkg fun p => { p with faults := p.faults.map fix, faultSeq := p.faultSeq + 1 }
        State.promoteSome n (r.waiters.foldl (fun s w => s.markWaiter w true) s1)

/-- Records that have gone make room for those that wait (R392). [DEDUCED, log 26] -/
def State.promoteFaults (s : State) : State := s.promoteSome s.pkg.faults.length

/-- Drop the requests that a predicate names, from their records too (R393). -/
def Pkg.dropReqsWhere (p : Pkg) (f : Req → Bool) : Pkg :=
  let ids := (p.reqs.filter f).map (·.id)
  let p1 := p.dropWaiters fun w => match w with
    | .request i => ids.contains i
    | _ => false
  { p1 with reqs := p1.reqs.filter fun r => !f r }

/-- A kernel that is away from its die: it has an image and is not the one named. -/
def Pkg.away (p : Pkg) (sock kern k : Nat) : Bool := k != kern && (p.imageOf sock k).isSome

/-- Drop a die's own requests, those of a descheduled kernel excepted. -/
def Pkg.dropReqs (p : Pkg) (sock kern : Nat) : Pkg :=
  p.dropReqsWhere fun r => r.sock == sock && !p.away sock kern r.kern

/-- The kind of request writes memory or the control space. -/
def ReqKind.writes : ReqKind → Bool
  | .store | .atom | .cas | .red | .heap | .kwr => true
  | _ => false

/-- A killed stream: its accesses are dropped from their fault records, and its loads; the other stores it has issued are
performed, those that wait for a migrating page among them (R393, R404, R437). -/
def Pkg.killReqs (p : Pkg) (sock kern : Nat) : Pkg :=
  p.dropReqsWhere fun r => r.sock == sock && r.kern == kern &&
    ((r.stage == .held && !r.phys.any (·.mig)) || !r.kind.writes)

/-- The access of a copy that the fault service holds takes the fate of an address outside its class; the copy goes on
(R393). -/
def Engine.abortHere (e : Engine) : Engine :=
  match e.held with
  | none => e
  | some a => if e.stage = .stalled then { e with aborts := a :: e.aborts, held := none, stage := .begun } else e

/-- The accesses of a die's copies that the fault service holds complete as under `ABORT` (R393). -/
def Pkg.abortHeld (p : Pkg) (sock kern : Nat) : Pkg :=
  let mine (e : Engine) : Bool := e.sock == sock && e.kern == kern
  let ids := (p.engines.filter mine).map (·.id)
  { p with engines := p.engines.map fun e => if mine e then e.abortHere else e }.dropWaiters fun w => match w with
    | .engine i => ids.contains i
    | _ => false

/-- The launch whose kernel an id names. -/
def Pkg.launch (p : Pkg) (id : Nat) : Option Launch := p.launches.find? (·.id == id)

/-- The launch waits to be selected; it has been selected and has not started (R370, R371); it has never started
(R369, R383). -/
def Launch.waits (l : Launch) : Bool := l.stage == .queued || l.stage == .descheduled
def Launch.chosen (l : Launch) : Bool :=
  match l.stage with
  | .selected | .ready | .timed _ => true
  | _ => false
def Launch.unstarted (l : Launch) : Bool := !l.resume && (l.stage == .queued || l.chosen)

/-- A region takes its place in the round of a level when a launch of it comes to wait there; it has left the round
if no other waits (R370). -/
def Pkg.joinRound (p : Pkg) (level rcb id : Nat) : Pkg :=
  let r := Store.get [] p.rounds level
  let others := p.launches.any fun l => l.id != id && l.waits && l.level == level && l.rcb == rcb
  if others ∧ r.any (·.1 == rcb) then p
  else { p with rounds := Store.set [] p.rounds level (r.filter (·.1 != rcb) ++ [(rcb, 0)]) }

def Pkg.putLaunch (p : Pkg) (l : Launch) : Pkg :=
  { p with launches := p.launches.map fun x => if x.id == l.id then l else x }

/-- Fields of a launch packet (R366). -/
def pktDonev (b : BitVec 1024) : Bool := b.getLsbD (64 * 10 + 10)
def pktDonectr (b : BitVec 1024) : Nat := fieldAt b (64 * 15 + 16) 16
def pktScbase (b : BitVec 1024) : Nat := fieldAt b (64 * 12) 24
def pktScmask (b : BitVec 1024) : Nat := fieldAt b (64 * 12 + 24) 24
def pktDies (b : BitVec 1024) : Nat := fieldAt b (64 * 12 + 48) 16
def pktNdim (b : BitVec 1024) : Nat := fieldAt b (64 * 11) 5
def pktRcb (b : BitVec 1024) : Nat := fieldAt b (64 * 11 + 8) 49 * 256
def pktKdesc (b : BitVec 1024) : Nat := fieldAt b (64 * 10 + 12) 45 * 4096

/-- Physical dimensions 4-19 of a subcube, ascending, and the packages they lead to from here: each by its id. -/
def linkDims (b : BitVec 1024) : List Nat := ((List.range 20).filter (pktScmask b).testBit).filter (4 ≤ ·)

def packagesOver (own : Nat) (dims : List Nat) : List Nat :=
  (dims.foldl (fun l d => l ++ l.map (· + 2 ^ (d - 4))) [0]).tail.map (own ^^^ ·)

def otherPackages (own : Nat) (b : BitVec 1024) : List Nat := packagesOver own (linkDims b)

/-- A physical dimension of a logical one, the global id of a rank (R14, R17). -/
def pktDim (b : BitVec 1024) (i : Nat) : Nat :=
  if i < 12 then fieldAt b (64 * 13 + 5 * i) 5 else fieldAt b (64 * 14 + 5 * (i - 12)) 5

/-- A route-table entry (R358, R410): bank 0 or 1, physical dimension; its port, and whether it is valid. -/
def Pkg.route (p : Pkg) (bank : Bool) (dim : Nat) : BitVec 64 :=
  Store.get 0#64 p.routes ((if bank then 32 else 0) + dim)

def routePort (e : BitVec 64) : Nat := fieldAt e 0 5
def routeValid (e : BitVec 64) : Bool := e.getLsbD 7

/-- A port. -/
def Pkg.port (p : Pkg) (n : Nat) : Port := Store.get Port.reset p.ports n

/-- The port that the active bank gives a dimension (R410). -/
def Pkg.portOf (p : Pkg) (d : Nat) : Nat := routePort (p.route p.regs.rtact d)

/-- A dimension's link carries traffic: its entry is valid and its port up (R407, R410), and no `RETOPO` has drained it since
the last swap (R413). -/
def Pkg.linkUp (p : Pkg) (d : Nat) : Bool :=
  let x := p.port (p.portOf d)
  routeValid (p.route p.regs.rtact d) && x.state == .up && !x.lost

/-- A dimension may serve as a detour of another (R308, R415). -/
def Pkg.detourFor (p : Pkg) (dead d : Nat) : Bool := d != dead && 4 ≤ d && d < 20 && p.linkUp d

/-- What crosses a dimension leaves on the port of its link, or of the first detour that is up (R308, R410); with neither it
waits in the package. [DEDUCED, log 31] -/
def Pkg.across (p : Pkg) (d : Nat) (m : LinkMsg) : HostMsg :=
  let ways := (if p.linkUp d then [d] else []) ++
    [p.regs.detour.toNat, p.regs.detour2.toNat].filter (p.detourFor d)
  match ways with
  | w :: _ => .link w (p.portOf w) m
  | [] => .waiting d m

/-- A message that waits in the package for a way out. -/
def HostMsg.waits : HostMsg → Bool
  | .waiting _ _ => true
  | _ => false

/-- What waits leaves, as far as there is a way. -/
def Pkg.sendWaiting (p : Pkg) : Pkg :=
  let again : HostMsg → HostMsg
    | .waiting d m => p.across d m
    | m => m
  { p with outbox := p.outbox.filter (!·.waits) ++ (p.outbox.filter (·.waits)).map again }

/-- Some messages no longer wait. -/
def Pkg.forgetWaiting (p : Pkg) (l : List LinkMsg) : Pkg :=
  let gone : HostMsg → Bool
    | .waiting _ m => l.contains m
    | _ => false
  { p with outbox := p.outbox.filter (!gone ·) }

/-- The physical dimensions of a message's route, in the order in which they are crossed: a fan-out row goes by logical
dimensions, ascending (R303). [DEDUCED, log 31] -/
def LinkMsg.order : LinkMsg → List Nat
  | .row _ b _ _ => (List.range (pktNdim b)).map (pktDim b)
  | _ => List.range 20

/-- The dimension that leads towards another package: the first of the route in which the two differ, not the one just
crossed while another is left. -/
def Pkg.towards (p : Pkg) (dest from_ : Nat) (m : LinkMsg) : Nat :=
  let x := dest ^^^ p.regs.pkgid.toNat
  let l := m.order.filter fun d => 4 ≤ d && x.testBit (d - 4)
  ((l.find? (· != from_)).or l.head?).getD 4

/-- A message for another package. -/
def Pkg.toPackage (p : Pkg) (dest : Nat) (m : LinkMsg) : HostMsg := p.across (p.towards dest 31 m) m

def gidOf (b : BitVec 1024) (r : Nat) : Nat :=
  pktScbase b + ((List.range (pktNdim b)).map fun i => if r.testBit i then 2 ^ pktDim b i else 0).sum

/-- The launch spans packages. -/
def Launch.multi (l : Launch) : Bool := pktScmask l.packet / 16 != 0

/-- Codes of a completion record beside those of R277 (R376). -/
def codeKilled : Nat := 12
def codeFaulted : Nat := 13

/-- The package that a launch was enqueued on. -/
def Pkg.originPkg (p : Pkg) (l : Launch) : Nat := if 33 ≤ l.origin then l.origin - 33 else p.regs.pkgid.toNat

/-- A message about a launch for every other package of its subcube. -/
def State.tellOthers (s : State) (l : Launch) (m : Nat → LinkMsg) : State := s.modPkg fun p => { p with
  outbox := p.outbox ++ (otherPackages p.regs.pkgid.toNat l.packet).map fun d => p.toPackage d (m d) }

/-- The origin of a replicated launch hears that its kernel is away here, or no longer (R374, R382). -/
def State.tellAway (s : State) (l : Launch) (is : Bool) : State :=
  let own := s.pkg.regs.pkgid.toNat
  let o := s.pkg.originPkg l
  if o = own then s
  else s.modPkg fun p => { p with outbox := p.outbox ++ [p.toPackage o (.away o own l.packet l.when is)] }

/-- When no die runs a kernel any more and some have saved, it is descheduled: queued again at its level with its age
(R378, R382). -/
def State.leftDies (s : State) (l : Launch) : State :=
  if l.running.isEmpty ∧ ¬ l.saved.isEmpty then
    (s.modPkg fun p => (p.putLaunch { l with
      stage := .descheduled, resume := true, reported := false }).joinRound l.level l.rcb l.id).tellAway l true
  else s

/-- The other packages of a launch hear that a die has ended, and whether it was fenced (R304, R307). -/
def State.tellGone (s : State) (l : Launch) (sock code : Nat) : State :=
  let gid := s.pkg.regs.pkgid.toNat * 16 + sock
  s.tellOthers l fun d => .gone d l.packet l.when gid (if code = codeFaulted then 9 else 8)

/-- A die of a kernel has ended with a status and a code (R376): its share of the `DIES` charge is
returned (R370). -/
def State.dieEnded (s : State) (sock kern : Nat) (code : Nat) (st : BitVec 16) (halted : Bool) : State :=
  match s.pkg.launch kern with
  | none => s
  | some l =>
    let l1 := { l with
      running := l.running.filter (· != sock)
      ended := l.ended ++ [sock]
      fenced := if code = codeFaulted then l.fenced ++ [sock] else l.fenced
      code := max l.code code
      status := Store.set 0#16 l.status sock st
      halted := if halted then l.halted ||| BitVec.ofNat 16 (2 ^ sock) else l.halted }
    (((s.modPkg (·.putLaunch l1)).tellGone l sock code).discharge .dies l.rcb 1).leftDies l1

/-- The launch's completion record (R376). -/
def completionBytes (l : Launch) (time : Nat) : List Byte :=
  natBytes 4 l.id ++ natBytes 2 l.code ++ natBytes 2 l.halted.toNat ++ natBytes 8 time ++
    (List.range 16).flatMap (fun k => natBytes 2 (Store.get 0#16 l.status k).toNat) ++ natBytes 16 0

/-- The function of the host bridge whose launch ring a launch came from: origin 0 the PF, 16 + v VF v; 1-16
a kernel on socket 0-15; from 33 on, the package id + 33 that a copy was replicated from (R366, R374). -/
def originFn (o : Nat) : Option Nat :=
  if o = 0 ∨ 33 ≤ o then some 0 else if 17 ≤ o then some (o - 16) else none

/-- A launch ring of the bridge. -/
def Pkg.ring (p : Pkg) (fn : Nat) : Ring := Store.get Ring.reset p.bridge.launch fn

def Pkg.setRing (p : Pkg) (fn : Nat) (r : Ring) : Pkg :=
  { p with bridge.launch := Store.set Ring.reset p.bridge.launch fn r }

/-- A completion record goes to the host: the next entry of the function's completion ring, and a VF's
vector (R376, R423, R425). -/
def State.hostRecord (s : State) (fn : Nat) (bytes : List Byte) : State :=
  let r := s.pkg.ring fn
  let s1 := if r.cqsize = 0 then s
    else (s.physWrite true (r.cqbase.toNat + 64 * (r.cqprod % 2 ^ r.cqsize)) bytes).modPkg
      (·.setRing fn { r with cqprod := r.cqprod + 1 })
  let vec : List HostMsg := if fn = 0 then [] else [.vector fn (32 + 2 * (fn - 1))]
  s1.modPkg fun p => { p with outbox := p.outbox ++ .launchDone fn bytes :: vec }

/-- The package that writes the completion record: that of rank 0, or the origin when rank 0 is absent (R376). -/
def Pkg.completer (p : Pkg) (l : Launch) : Nat :=
  if l.absent.contains 0 then p.originPkg l else pktScbase l.packet / 16

/-- Every present die in the other packages has ended (R376). -/
def Pkg.farDone (p : Pkg) (l : Launch) : Bool :=
  let own := p.regs.pkgid.toNat
  !l.multi || (List.range (2 ^ pktNdim l.packet)).all fun r =>
    let k := gidOf l.packet r / 16
    l.absent.contains r || k == own || l.farEnded.any (·.pkg == k)

/-- The record of kind 4 (R397) that holds the first 48 bytes of a completion record. -/
def callRecordBytes (b : BitVec 1024) (time : Nat) (record : List Byte) : List Byte :=
  natBytes 4 (4 + pktScbase b % 16 * 65536) ++ natBytes 4 0 ++ natBytes 8 time ++ record.take 48

/-- What this package reports of a launch (R376). -/
def Pkg.endReport (p : Pkg) (l : Launch) : EndReport := ⟨p.regs.pkgid.toNat, l.code, l.halted, l.status⟩

/-- The report of rank 0's package, from which a completion record takes `HALTED` and `STATUS` (R376). -/
def Pkg.rankZero (p : Pkg) (l : Launch) : EndReport :=
  let k := pktScbase l.packet / 16
  ((p.endReport l :: l.farEnded).find? (·.pkg == k)).getD ⟨k, 0, 0#16, []⟩

/-- The completion record of a launch goes where its kind reports: to the host ring of the package that it was enqueued on,
or to the region's fault ring here (R376). [DEDUCED, log 24] -/
def State.completionRecord (s : State) (l : Launch) : State :=
  let time := s.pkg.ptime.toNat
  let z := s.pkg.rankZero l
  let rec64 := completionBytes { l with halted := z.halted, status := z.status } time
  let o := s.pkg.originPkg l
  let own := s.pkg.regs.pkgid.toNat
  let tell (bytes : List Byte) (s : State) : State := if o = own then s else s.modPkg fun p => { p with
    outbox := p.outbox ++ [p.toPackage o (.finished o l.packet l.when bytes)] }
  match originFn l.kind with
  | some fn => if o = own then s.hostRecord fn rec64 else tell rec64 s
  | none => tell [] (s.regionRecord l.rcb (callRecordBytes l.packet time rec64))

/-- Its completion action, on a counter that its region may use, or an error token (R377, R398). -/
def State.completionAction (s : State) (l : Launch) : State :=
  let c := pktDonectr l.packet
  if ¬ pktDonev l.packet then s
  else if l.code ≠ 0 then s.modPkg (·.passToken c)
  else if ownedBy (s.pkg.counter c).owner l.part l.region then s.modPkg fun p => (p.arrive c 1#32).1
  else s

/-- A launch is here no more; a queue entry that it still holds is returned (R367). -/
def State.removeLaunch (s : State) (l : Launch) : State :=
  let s1 := s.modPkg fun p => { p with launches := p.launches.filter fun x => x.id != l.id }
  if l.qent then s1.discharge .qent l.rcb 1 else s1

/-- A launch completes: with the highest code that any die's end gives, its record and its action (R376, R377). -/
def State.finishLaunch (s : State) (l : Launch) : State :=
  let l1 := { l with code := l.farEnded.foldl (fun c e => max c e.code) l.code }
  ((s.removeLaunch l).completionRecord l1).completionAction l1

/-- A launch is done here: it completes, or the package that completes it hears of it; the package that it was enqueued on
keeps it until then (R374, R376, R377). [DEDUCED, log 24] -/
def State.completeLaunch (s : State) (l : Launch) : State :=
  let home := s.pkg.completer l
  let own := s.pkg.regs.pkgid.toNat
  if home = own then s.finishLaunch l
  else
    let s1 := if s.pkg.originPkg l = own then s.modPkg (·.putLaunch { l with stage := .done }) else s.removeLaunch l
    s1.modPkg fun p => { p with
      outbox := p.outbox ++ [p.toPackage home (.ended home l.packet l.when (p.endReport l))] }

/-- Nothing that the stream issued is still to land. -/
def Die.dropFlight (d : Die) : Die :=
  { d with pipe.due := [], pipe.landings := [], pipe.mdue := [], pipe.scales := [] }

/-- A stream's requests whose only effect is their result go with it. -/
def Pkg.dropReads (p : Pkg) (sock kern : Nat) : Pkg :=
  p.dropReqsWhere fun r => r.sock == sock && r.kern == kern && (r.kind == .load || r.kind == .loadRo || r.kind == .krd)

/-- Step 1 of R220: nothing in flight. -/
def State.quitFlight (s : State) (sock : Nat) : State :=
  ((s.modDie sock Die.dropFlight).modPkg (·.dropReads sock (s.die sock).sr.kernid.toNat)).promoteFaults

/-- Step 3 of R220: no barrier waits for the die. -/
def State.quitBarriers (s : State) (sock : Nat) : State :=
  s.modPkg (·.abandonAll (member sock (s.die sock).sr.kernid.toNat))

/-- Steps 1-3 of R220: nothing in flight, no transaction, no barrier. -/
def State.quitWork (s : State) (sock : Nat) : State :=
  ((s.quitFlight sock).abortLocks sock (s.die sock).sr.kernid.toNat).quitBarriers sock

/-- What ends a stream for good: steps 1-3 of R220, and the stream itself. -/
def State.endStream (s : State) (sock : Nat) (st : BitVec 16) : State :=
  (s.quitWork sock).modDie sock (·.stop st)

/-- `KSTOP.kill` of a die (R349), and the answer `KILL` (R393): outstanding engine operations run to
completion and their flags are discarded; no release is made. -/
def State.killStream (s : State) (sock : Nat) (st : BitVec 16) : State :=
  let kern := (s.die sock).sr.kernid.toNat
  let orphan (e : Engine) : Engine := if e.sock == sock && e.kern == kern then { e with orphan := true } else e
  let s1 := (s.endStream sock st).modPkg fun p =>
    let q := (p.killReqs sock kern).abortHeld sock kern
    { q with engines := q.engines.map orphan }
  s1.promoteFaults.dieEnded sock kern codeKilled st false

/-- The tiles a fenced die has taken for its running kernel are requeued or cancelled by its region's
policy (R23); a requeued tile keeps its original moment (R279). -/
def State.returnTiles (s : State) (sock kern : Nat) (cancel : Bool) : State :=
  let mine := s.pkg.taken.filter fun t => t.sock == sock && t.kern == kern
  let back (p : Pkg) (t : Taken) : Pkg :=
    if cancel then p
    else
      let q := p.pair t.pair
      if t.high then p.putPair t.pair { q with high := t.tile :: q.high }
      else p.putPair t.pair { q with low := t.tile :: q.low }
  s.modPkg fun p =>
    mine.foldl back { p with taken := p.taken.filter fun t => !(t.sock == sock && t.kern == kern) }

/-- A fenced die loses what R22 lists; its region number and runtime bank stay (R143, R400). [DEDUCED, log 21] -/
def Die.fenced (d : Die) : Die :=
  { Die.cold with
    sr.kvec := d.sr.kvec, sr.freezemax := d.sr.freezemax
    arr.rbank := d.arr.rbank, arr.rdict := d.arr.rdict, arr.rdictN := d.arr.rdictN
    regs.kbs := d.regs.kbs, regs.kbp := d.regs.kbp }

/-- Fence a die (R23, R150): in order, its requests end, its transactions abort, its barriers count it
abandoned, its tiles go back, and its lines are published. It is that of the kernel that runs on it, of 0 for none:
what kernels that have left the die hold stays. -/
def State.fence (s : State) (sock kern : Nat) (cancel : Bool) : State :=
  let gone (e : Engine) : Bool := e.sock == sock && !s.pkg.away sock kern e.kern
  let ids := (s.pkg.engines.filter gone).map (·.id)
  let s1 := s.modPkg fun p =>
    let p1 := (p.dropReqs sock kern).dropWaiters fun w => match w with
      | .engine i => ids.contains i
      | _ => false
    { p1 with
      engines := p1.engines.filter (!gone ·)
      tiles := p1.tiles.map fun e => (e.1, { e.2 with takers := e.2.takers.filter (!ids.contains ·) })
      socks := Store.set .empty p1.socks sock .fenced }
  let s2 := (s1.promoteFaults.abortLocks sock kern).modPkg (·.abandonAll (member sock kern))
  let s3 := s2.returnTiles sock kern cancel
  (s3.setDie sock (s3.die sock).fenced).modPkg (·.publish sock)

/-- The charges of a kernel's images return (R379, R381). -/
def State.dropImages (s : State) (l : Launch) : State :=
  let imgs := s.pkg.images.filter fun i => i.charged && i.kern == l.id
  let s1 := s.modPkg fun p => { p with
    images := p.images.filter fun i => i.kern != l.id
    backlog := p.backlog.filter fun b => b.kern != l.id }
  imgs.foldl (fun s _ => s.discharge .hbm l.rcb (s.imageCharge l.rcb)) s1

/-- A kernel that is away from its die ends there with a code and a status: its image goes, and the kernel with it when no
other die of it is left (R349, R393). -/
def State.endAway (s : State) (sock kern code : Nat) (st : BitVec 16) : State :=
  match s.pkg.launch kern with
  | none => s
  | some l =>
    if ¬ l.saved.contains sock then s
    else
      let s1 := ((s.modPkg fun p => (p.killReqs sock kern).abortHeld sock kern).promoteFaults.abortLocks sock kern).modPkg
        (·.abandonAll (member sock kern))
      let orphan (e : Engine) : Engine := if e.sock == sock && e.kern == kern then { e with orphan := true } else e
      let mine (i : Image) : Bool := i.away && i.kern == kern && i.sock == sock
      let charged := s1.pkg.images.any fun i => mine i && i.charged
      let left := l.saved.filter (· != sock)
      let l1 := { l with
        saved := left
        ended := l.ended ++ [sock]
        fenced := if code = codeFaulted then l.fenced ++ [sock] else l.fenced
        code := max l.code code
        status := Store.set 0#16 l.status sock st
        stage := if left.isEmpty then .running else l.stage
        resume := l.resume && !left.isEmpty }
      let s2 := s1.modPkg fun p => { p.putLaunch l1 with
        engines := p.engines.map orphan
        images := p.images.filter (!mine ·)
        backlog := p.backlog.filter fun b => !(b.kern == kern && b.sock == sock) }
      let s3 := (if charged then s2.discharge .hbm l.rcb (s2.imageCharge l.rcb) else s2).tellGone l1 sock code
      if left.isEmpty then s3.tellAway l1 false else s3

/-- As `KSTOP.kill` would end it (R349, R393). -/
def State.killAway (s : State) (sock kern : Nat) (st : BitVec 16) : State := s.endAway sock kern codeKilled st

/-- Remove a descheduled kernel, which completes with a code (R396, R425). -/
def State.dropAway (s : State) (l : Launch) (code : Nat) : State :=
  let s1 := l.saved.foldl (fun s k =>
    ((s.abortLocks k l.id).modPkg (·.abandonAll (member k l.id)))) s
  let orphan (e : Engine) : Engine := if e.kern == l.id then { e with orphan := true } else e
  let s2 := (s1.modPkg fun p => { p with engines := p.engines.map orphan }).dropImages l
  (s2.tellAway l false).completeLaunch { l with code := max code l.code }

/-- Remove a descheduled kernel whose domain has failed (R396). -/
def State.dropDescheduled (s : State) (l : Launch) : State := s.dropAway l codeFaulted

/-- A launch that waits or has been selected completes with a code (R367, R369, R376, R383); a descheduled kernel is
removed. A replicated launch completes on the package that it was enqueued on, which tells the others; another package tells
that one, and the others that it will not start here. [DEDUCED, log 24] -/
def State.cancelLaunch (s : State) (l : Launch) (code : Nat) : State :=
  let own := s.pkg.regs.pkgid.toNat
  let o := s.pkg.originPkg l
  if l.resume then s.dropAway l code
  else if o = own then
    (s.tellOthers l fun d => .cancel d l.packet l.when code).finishLaunch { l with code := code, halted := 0#16, status := [] }
  else
    let s1 := (s.removeLaunch l).tellOthers l fun d => .started d own l.packet l.when
    s1.modPkg fun p => { p with outbox := p.outbox ++ [p.toPackage o (.refused o own l.packet l.when code)] }

/-- A launch that has not started and never will: its region is `FAULTED`, or its start counter carries a token
(R369, R383). -/
def State.doomed (s : State) (l : Launch) : Bool :=
  l.unstarted && (s.regionFaulted l.rcb ||
    (l.packet.getLsbD (64 * 10 + 11) && (s.pkg.counter (fieldAt l.packet (64 * 14 + 40) 16)).token))

/-- Such launches complete with `CANCELLED` (R369, R383). -/
def State.cancelDoomed (s : State) : State :=
  (s.pkg.launches.filter s.doomed).foldl (fun s l => s.cancelLaunch l 2) s

/-- The record of a region fault (R397). -/
def State.faultRecord (s : State) (sock code : Nat) (st : BitVec 16) (addr : Nat) : State :=
  let d := s.die sock
  s.regionRecord d.sr.rcbaddr.toNat (regionRecordBytes 1 code sock d.sr.kernid.toNat s.pkg.ptime.toNat
    (d.sr.tepc.toNat + (if code = 6 then st.toNat * 65536 else 0)) (if code = 4 then addr else 0))

/-- A region fault of one die without its domain (R395 steps 1-3, 5, 6). -/
def State.faultDie (s : State) (sock code : Nat) (st : BitVec 16) (addr : Nat) : State :=
  let d := s.die sock
  let kern := d.sr.kernid.toNat
  let rcb := d.sr.rcbaddr.toNat
  if d.ctl.run = .idle then s.fence sock 0 false
  else
    let s1 := (s.modDie sock (·.stop st)).faultRecord sock code st addr
    let s2 := s1.fence sock kern (s1.effPolicy rcb)
    (s2.markFaulted rcb).dieEnded sock kern codeFaulted st false

/-- Every die of a partition here that runs a kernel of a fault domain takes region fault `PEER`, one die excepted;
its descheduled kernels are removed (R396). -/
def State.faultPeers (s : State) (part f : Nat) (but : Option Nat) : State :=
  let peers := sockets.filter fun k =>
    let e := s.die k
    but != some k && e.ctl.run != .idle && e.sr.partid.toNat == part && s.effFdom e.sr.rcbaddr.toNat == f
  let s1 := peers.foldl (fun s k => s.faultDie k 7 0#16 0) s
  let away := s1.pkg.launches.filter fun l => l.resume && l.part == part && s1.effFdom l.rcb == f
  away.foldl (fun s l => s.dropDescheduled l) s1

/-- The fault domain of a failure is fenced, in the other packages of the partition too (R396). -/
def State.faultDomain (s : State) (part f : Nat) (but : Option Nat) : State :=
  let own := s.pkg.regs.pkgid.toNat
  let mask := ((s.pkg.partitions.find? (·.id == part)).map (·.mask.toNat)).getD 0
  let dims := ((List.range 20).filter mask.testBit).filter (4 ≤ ·)
  let far := packagesOver own dims
  if f = 0 then s
  else (s.faultPeers part f but).modPkg fun p => { p with
    outbox := p.outbox ++ far.map fun d => p.toPackage d (.domain d part f) }

/-- A region fault (R394-R396): the die, then for codes other than `PEER` and `FENCECMD` its fault
domain; the queued launches of the faulted regions are cancelled. -/
def State.regionFault (s : State) (sock code : Nat) (st : BitVec 16) (addr : Nat) : State :=
  let d := s.die sock
  let f := s.effFdom d.sr.rcbaddr.toNat
  let s1 := s.faultDie sock code st addr
  let s2 := if d.ctl.run ≠ .idle ∧ code ≠ 7 ∧ code ≠ 8 then s1.faultDomain d.sr.partid.toNat f (some sock) else s1
  s2.cancelDoomed

end Sys2Proof.Machine
end

