-- ==== Sys2Proof/Machine/Crypto.lean ====
section
/-! DEFINITION. CRC-32C (R122), SHA-256 (R427, R432), and ECDSA over P-256 with the nonce of RFC 6979
(R427, R433). -/
namespace Sys2Proof.Machine

/-- One bit of the CRC, least significant first (R122). -/
def crcBit (c : BitVec 32) : BitVec 32 :=
  if c.getLsbD 0 then (c >>> 1) ^^^ 0x82F63B78#32 else c >>> 1

/-- One byte of the CRC. -/
def crcByte (c : BitVec 32) (b : Byte) : BitVec 32 :=
  crcBit (crcBit (crcBit (crcBit (crcBit (crcBit (crcBit (crcBit (c ^^^ b.setWidth 32))))))))

/-- The CRC-32C of a byte sequence (R122). -/
def crc32c (bytes : List Byte) : BitVec 32 :=
  bytes.foldl crcByte 0xFFFFFFFF#32 ^^^ 0xFFFFFFFF#32

/-- The round constants of SHA-256 (FIPS 180-4). -/
def shaK : List (BitVec 32) :=
  [0x428a2f98#32, 0x71374491#32, 0xb5c0fbcf#32, 0xe9b5dba5#32, 0x3956c25b#32, 0x59f111f1#32,
   0x923f82a4#32, 0xab1c5ed5#32, 0xd807aa98#32, 0x12835b01#32, 0x243185be#32, 0x550c7dc3#32,
   0x72be5d74#32, 0x80deb1fe#32, 0x9bdc06a7#32, 0xc19bf174#32, 0xe49b69c1#32, 0xefbe4786#32,
   0x0fc19dc6#32, 0x240ca1cc#32, 0x2de92c6f#32, 0x4a7484aa#32, 0x5cb0a9dc#32, 0x76f988da#32,
   0x983e5152#32, 0xa831c66d#32, 0xb00327c8#32, 0xbf597fc7#32, 0xc6e00bf3#32, 0xd5a79147#32,
   0x06ca6351#32, 0x14292967#32, 0x27b70a85#32, 0x2e1b2138#32, 0x4d2c6dfc#32, 0x53380d13#32,
   0x650a7354#32, 0x766a0abb#32, 0x81c2c92e#32, 0x92722c85#32, 0xa2bfe8a1#32, 0xa81a664b#32,
   0xc24b8b70#32, 0xc76c51a3#32, 0xd192e819#32, 0xd6990624#32, 0xf40e3585#32, 0x106aa070#32,
   0x19a4c116#32, 0x1e376c08#32, 0x2748774c#32, 0x34b0bcb5#32, 0x391c0cb3#32, 0x4ed8aa4a#32,
   0x5b9cca4f#32, 0x682e6ff3#32, 0x748f82ee#32, 0x78a5636f#32, 0x84c87814#32, 0x8cc70208#32,
   0x90befffa#32, 0xa4506ceb#32, 0xbef9a3f7#32, 0xc67178f2#32]

/-- The initial hash value of SHA-256. -/
def shaInit : List (BitVec 32) :=
  [0x6a09e667#32, 0xbb67ae85#32, 0x3c6ef372#32, 0xa54ff53a#32, 0x510e527f#32, 0x9b05688c#32,
   0x1f83d9ab#32, 0x5be0cd19#32]

def shaAt (l : List (BitVec 32)) (i : Nat) : BitVec 32 := l.getD i 0#32

/-- The next word of the message schedule; the newest word comes first in `w`. -/
def shaExtend (w : List (BitVec 32)) : List (BitVec 32) :=
  let a := shaAt w 1
  let b := shaAt w 14
  let s1 := a.rotateRight 17 ^^^ a.rotateRight 19 ^^^ (a >>> 10)
  let s0 := b.rotateRight 7 ^^^ b.rotateRight 18 ^^^ (b >>> 3)
  (s1 + shaAt w 6 + s0 + shaAt w 15) :: w

/-- The 64 schedule words of a block of sixteen. -/
def shaSchedule (block : List (BitVec 32)) : List (BitVec 32) :=
  ((List.range 48).foldl (fun w _ => shaExtend w) block.reverse).reverse

/-- One round. -/
def shaRound (h : List (BitVec 32)) (kw : BitVec 32 × BitVec 32) : List (BitVec 32) :=
  let a := shaAt h 0
  let e := shaAt h 4
  let s1 := e.rotateRight 6 ^^^ e.rotateRight 11 ^^^ e.rotateRight 25
  let ch := (e &&& shaAt h 5) ^^^ (~~~e &&& shaAt h 6)
  let t1 := shaAt h 7 + s1 + ch + kw.1 + kw.2
  let s0 := a.rotateRight 2 ^^^ a.rotateRight 13 ^^^ a.rotateRight 22
  let maj := (a &&& shaAt h 1) ^^^ (a &&& shaAt h 2) ^^^ (shaAt h 1 &&& shaAt h 2)
  [t1 + s0 + maj, a, shaAt h 1, shaAt h 2, shaAt h 3 + t1, e, shaAt h 5, shaAt h 6]

/-- One block. -/
def shaBlock (h : List (BitVec 32)) (block : List (BitVec 32)) : List (BitVec 32) :=
  let r := (shaK.zip (shaSchedule block)).foldl shaRound h
  (h.zip r).map fun x => x.1 + x.2

/-- The value of big-endian bytes. -/
def beNat (bytes : List Byte) : Nat := bytes.foldl (fun n b => n * 256 + b.toNat) 0

/-- `n` big-endian bytes of a number. -/
def beBytes (n v : Nat) : List Byte := (natBytes n v).reverse

/-- The message padded to whole blocks. -/
def shaPad (bytes : List Byte) : List Byte :=
  let n := bytes.length
  bytes ++ [0x80#8] ++ List.replicate ((119 - n % 64) % 64) 0#8 ++ beBytes 8 (8 * n)

/-- The words of a block. -/
def shaWords (bytes : List Byte) : List (BitVec 32) :=
  (List.range 16).map fun i => BitVec.ofNat 32 (beNat ((bytes.drop (4 * i)).take 4))

/-- SHA-256 over the blocks of a padded message. -/
def shaBlocks (msg : List Byte) : Nat → List (BitVec 32) → List (BitVec 32)
  | 0, h => h
  | n + 1, h => shaBlocks (msg.drop 64) n (shaBlock h (shaWords (msg.take 64)))

/-- SHA-256. -/
def sha256 (bytes : List Byte) : List Byte :=
  let m := shaPad bytes
  (shaBlocks m (m.length / 64) shaInit).flatMap fun w => beBytes 4 w.toNat

/-- HMAC-SHA-256 (RFC 2104), for keys of at most 64 bytes. -/
def hmac (key msg : List Byte) : List Byte :=
  let k := key ++ List.replicate (64 - key.length) 0#8
  sha256 (k.map (· ^^^ 0x5c#8) ++ sha256 (k.map (· ^^^ 0x36#8) ++ msg))

/-! P-256. -/

def p256P : Nat := 0xffffffff00000001000000000000000000000000ffffffffffffffffffffffff
def p256N : Nat := 0xffffffff00000000ffffffffffffffffbce6faada7179e84f3b9cac2fc632551
def p256B : Nat := 0x5ac635d8aa3a93e7b3ebbd55769886bc651d06b0cc53b0f63bce3c3e27d2604b
def p256Gx : Nat := 0x6b17d1f2e12c4247f8bce6e563a440f277037d812deb33a0f4a13945d898c296
def p256Gy : Nat := 0x4fe342e2fe1a7f9b8ee7eb4a7c0f9e162bce33576b315ececbb6406837bf51f5

/-- Modular power by the bits of the exponent, the lowest first. -/
def powMod (m : Nat) : Nat → Nat → Nat → Nat → Nat
  | 0, _, _, acc => acc
  | n + 1, b, e, acc => powMod m n (b * b % m) (e / 2) (if e % 2 = 1 then acc * b % m else acc)

/-- The inverse modulo a prime. -/
def invMod (m a : Nat) : Nat := powMod m 256 (a % m) (m - 2) 1

/-- A point of the curve; `none` is the point at infinity. -/
abbrev Point := Option (Nat × Nat)

/-- Subtraction modulo `m`. -/
def subMod (m a b : Nat) : Nat := (a + (m - b % m)) % m

/-- Point addition. -/
def pointAdd (a b : Point) : Point :=
  match a, b with
  | none, q => q
  | q, none => q
  | some (x1, y1), some (x2, y2) =>
    if x1 = x2 ∧ (y1 + y2) % p256P = 0 then none
    else
      let l := if x1 = x2 then (3 * x1 * x1 + (p256P - 3)) % p256P * invMod p256P (2 * y1) % p256P
        else subMod p256P y2 y1 * invMod p256P (subMod p256P x2 x1) % p256P
      let x3 := subMod p256P (l * l) (x1 + x2)
      some (x3, subMod p256P (l * subMod p256P x1 x3) y1)

/-- Scalar multiplication by the bits of the scalar, the lowest first. -/
def pointMul : Nat → Nat → Point → Point → Point
  | 0, _, _, acc => acc
  | n + 1, k, q, acc => pointMul n (k / 2) (pointAdd q q) (if k % 2 = 1 then pointAdd acc q else acc)

def pointTimes (k : Nat) (q : Point) : Point := pointMul 256 k q none

def p256G : Point := some (p256Gx, p256Gy)

/-- The point lies on the curve. -/
def onCurve (x y : Nat) : Bool :=
  x < p256P && y < p256P && y * y % p256P == (x * x * x + (p256P - 3) * x + p256B) % p256P

/-- ECDSA verification of a hash under a public key. -/
def ecdsaVerify (x y : Nat) (hash : List Byte) (r s : Nat) : Bool :=
  if r = 0 ∨ p256N ≤ r ∨ s = 0 ∨ p256N ≤ s ∨ ¬ onCurve x y then false
  else
    let w := invMod p256N s
    let z := beNat hash
    match pointAdd (pointTimes (z * w % p256N) p256G) (pointTimes (r * w % p256N) (some (x, y))) with
    | none => false
    | some (px, _) => px % p256N == r

/-- The nonce of RFC 6979 with SHA-256: tries until one lies in range. -/
def rfcNonce : Nat → List Byte → List Byte → Nat
  | 0, _, _ => 1
  | n + 1, k, v =>
    let v1 := hmac k v
    let t := beNat v1
    if 0 < t ∧ t < p256N then t
    else
      let k1 := hmac k (v1 ++ [0#8])
      rfcNonce n k1 (hmac k1 v1)

/-- ECDSA signature of a hash (RFC 6979). -/
def ecdsaSign (d : Nat) (hash : List Byte) : Nat × Nat :=
  let z := beNat hash
  let seed := beBytes 32 d ++ beBytes 32 (z % p256N)
  let v0 := List.replicate 32 1#8
  let k0 := List.replicate 32 0#8
  let k1 := hmac k0 (v0 ++ [0#8] ++ seed)
  let v1 := hmac k1 v0
  let k2 := hmac k1 (v1 ++ [1#8] ++ seed)
  let k := rfcNonce 16 k2 (hmac k2 v1)
  match pointTimes k p256G with
  | none => (0, 0)
  | some (px, _) =>
    let r := px % p256N
    (r, invMod p256N k * (z + r * d) % p256N)

end Sys2Proof.Machine
end

