-- ==== Sys2Proof/Machine/Service.lean ====
section
/-! DEFINITION. The fault service, migration, measurements and attestation, route banks (R358, R389-R393,
R404, R405, R410, R431-R433). -/
namespace Sys2Proof.Machine

/-- A fault to be reported: partition, address, access class, cause, requester (R391). -/
structure FaultSite where
  part : Nat
  va : Int
  access : Nat
  cause : Nat
  sock : Nat
  kern : Nat
  region : Nat
deriving DecidableEq, Repr

/-- The virtual address a record shows. -/
def FaultSite.word (f : FaultSite) : Word := wordOf f.va

/-- Report a failed translation (R390-R392): join a record of the same partition, page and class, make a
new one, or wait unrecorded beyond 256, behind those that wait already. [DEDUCED, log 26] -/
def State.reportFault (s : State) (f : FaultSite) (w : Waiter) : State :=
  let page := f.word.toNat / 4096
  let same (r : FaultRec) : Bool := r.part == f.part && r.page == page && r.access == f.access
  if s.pkg.faults.any same then
    let join (r : FaultRec) : FaultRec :=
      if same r then { r with waiters := r.waiters ++ [w], joined := min 255 (r.joined + 1) } else r
    let on := s.pkg.faults.any fun r => same r && r.recorded
    (s.modPkg fun p => { p with faults := p.faults.map join }).markWaiter w on
  else
    let on := decide (s.pkg.recorded < Config.faultRecords) && s.pkg.faults.all (·.recorded)
    let r : FaultRec := ⟨none, f.part, page, f.word, f.access, f.cause, f.sock, f.kern, f.region, 0, on,
      if on then s.pkg.faultSeq + 1 else 0, s.pkg.ptime, [w]⟩
    let s1 := s.modPkg fun p => { p with
      faults := p.faults ++ [r], faultSeq := if on then p.faultSeq + 1 else p.faultSeq }
    s1.markWaiter w on

/-- The state of a socket. -/
def Pkg.sock (p : Pkg) (k : Nat) : SockState := Store.get .empty p.socks k

/-- A write of a remote copy is over: its sender is told a status code, the bytes written, the status of a kill (R121,
R124, R393). -/
def State.answerCopy (s : State) (x : Inbound) (code bytes : Nat) (kill : Option (BitVec 16)) : State :=
  s.modPkg fun p => { p with
    inbound := p.inbound.filter fun y => y.id != x.id
    outbox := p.outbox ++ [p.toPackage x.sender (.copyDone x.sender x.op x.index code bytes kill)] }

/-- A write of a remote copy of another package: translated here under the partition's tables, it is an inbound write; it
may wait on the fault service or a migrating page; a fenced partner or stack gives `FENCED` (R124, R143, R384, R390,
R402, R404). -/
def State.serveInbound (s : State) (x : Inbound) : State :=
  let hold (s : State) : State := s.modPkg fun p => { p with
    inbound := (p.inbound.filter fun y => y.id != x.id) ++ [x] }
  if s.pkg.sock x.sock = .fenced then s.answerCopy x 8 0 none
  else if x.aborted ∨ x.va < 0 ∨ 2 ^ 57 ≤ x.va then s.answerCopy x 3 0 none
  else match s.translate 16 x.part x.va true with
    | (.error f, s1) => (hold s1).reportFault ⟨x.part, x.va, 4, f.code, x.sock, x.kern, x.region⟩ (.inbound x.id)
    | (.ok ph, s1) =>
      if ph.mig then hold s1
      else if ph.host then (s1.physWrite true ph.pa x.bytes).answerCopy x 0 x.bytes.length none
      else if s1.pkg.badStacks.contains (Config.homeStack (lineOf false ph.pa)) then s1.answerCopy x 8 0 none
      else (s1.inboundWrite ph.pa x.bytes).answerCopy x 0 x.bytes.length none

/-- Serve a remote copy's write that waits. -/
def State.retryInbound (s : State) (id : Nat) (abort : Bool) : State :=
  match s.pkg.inbound.find? (·.id == id) with
  | none => s
  | some x => s.serveInbound { x with aborted := x.aborted || abort }

/-! BAR2 (R423, R424). -/

/-- A range cut at 4 KiB boundaries. -/
def pieces : Nat → Nat → Nat → List (Nat × Nat)
  | 0, _, _ => []
  | fuel + 1, a, n =>
    if n = 0 then []
    else
      let k := min n (4096 - a % 4096)
      (a, k) :: pieces fuel (a + k) (n - k)

/-- Send something to the host. -/
def State.tellHost (s : State) (m : HostMsg) : State := s.modPkg fun p => { p with outbox := p.outbox ++ [m] }

/-- A write of one piece: of the PF by physical address, of a VF by its partition's tables. [DEDUCED, log 23] -/
def State.windowWrite (s : State) (part : Option Nat) (a : Nat) (bytes : List Byte) : State :=
  match part with
  | none => s.inboundWrite a bytes
  | some q => match s.translate 16 q a true with
    | (.error _, s1) => s1
    | (.ok ph, s1) => if ph.host then s1.physWrite true ph.pa bytes else s1.inboundWrite ph.pa bytes

/-- A read of one piece; `none` when it is aborted. [DEDUCED, log 23] -/
def State.windowRead (s : State) (part : Option Nat) (a n : Nat) : Option (List Byte) × State :=
  let get (s : State) (host : Bool) (pa : Nat) : Option (List Byte) :=
    if (linesOf host pa n).any s.pkg.lineBad then none else some (s.memRead host pa n)
  match part with
  | none => (get s false a, s)
  | some q => match s.translate 16 q a false with
    | (.error _, s1) => (none, s1)
    | (.ok ph, s1) => (get s1 ph.host ph.pa, s1)

/-- Write pieces in order (R393). -/
def State.windowWrites (part : Option Nat) : List (Nat × Nat) → List Byte → State → State
  | [], _, s => s
  | (a, n) :: rest, l, s => State.windowWrites part rest (l.drop n) (s.windowWrite part a (l.take n))

/-- Read pieces. -/
def State.windowReads (part : Option Nat) : List (Nat × Nat) → State → Option (List Byte) × State
  | [], s => (some [], s)
  | (a, n) :: rest, s =>
    match s.windowRead part a n with
    | (none, s1) => (none, s1)
    | (some l, s1) => match State.windowReads part rest s1 with
      | (none, s2) => (none, s2)
      | (some m, s2) => (some (l ++ m), s2)

/-- The pieces of an access. -/
def WindowOp.pieces (x : WindowOp) : List (Nat × Nat) :=
  let n := if x.write then x.bytes.length else x.len
  Machine.pieces (n + 1) x.addr n

/-- A page of an access is migrating (R404). -/
def State.windowMig (s : State) (x : WindowOp) : Bool :=
  match x.part with
  | none => false
  | some q => x.pieces.any fun e => match (s.translate 16 q e.1 x.write).1 with
    | .ok ph => ph.mig
    | .error _ => false

/-- A page of a VF's access fails its translation: the access is logged through AER (R422, R424). -/
def State.windowFails (s : State) (x : WindowOp) : Bool :=
  match x.part with
  | none => false
  | some q => x.pieces.any fun e => match (s.translate 16 q e.1 x.write).1 with
    | .ok _ => false
    | .error _ => true

/-- What the host gets for an access; where another package's bridge brought it, over the links (R424). -/
def State.answerHost (s : State) (bridge fn : Nat) (answer : Option (List Byte)) : State :=
  if bridge = s.pkg.regs.pkgid.toNat then
    s.tellHost (match answer with
      | none => .aborted fn
      | some l => .readDone fn l)
  else s.modPkg fun p => { p with outbox := p.outbox ++ [p.toPackage bridge (.hostReply bridge fn answer)] }

/-- Carry an access out (R424). -/
def State.windowDo (s : State) (x : WindowOp) : State :=
  let s0 := if s.windowFails x then s.tellHost (.aer x.fn) else s
  if x.write then State.windowWrites x.part x.pieces x.bytes s0
  else
    let (answer, s1) := State.windowReads x.part x.pieces s0
    s1.answerHost x.bridge x.fn answer

/-- An access comes in: it keeps its place behind those that wait (R393, R404). -/
def State.windowEnter (s : State) (x : WindowOp) : State :=
  if ¬ s.pkg.windowQ.isEmpty ∨ s.windowMig x then s.modPkg fun p => { p with windowQ := p.windowQ ++ [x] }
  else s.windowDo x

/-- The accesses that wait are tried again, in order (R404). -/
def State.windowDrain (s : State) : State :=
  let q := s.pkg.windowQ
  q.foldl (fun s x => s.windowEnter x) (s.modPkg fun p => { p with windowQ := [] })

/-- The 64 bytes of a fault record (R391). [DEDUCED, log 26] -/
def faultBytes (r : FaultRec) : List Byte :=
  natBytes 8 r.va.toNat ++ natBytes 4 r.kern ++ natBytes 4 r.region ++ natBytes 2 r.part ++
    natBytes 1 r.sock ++ natBytes 1 r.access ++ natBytes 1 r.cause ++ natBytes 1 r.joined ++
    natBytes 2 0 ++ natBytes 8 r.seq ++ natBytes 8 r.time.toNat ++ natBytes 24 0

/-- Write the oldest record that is not in the ring yet, if the ring has room, and signal the vector (R391). The ring lies
in host memory (R389, R423). [DEDUCED, log 26] -/
def State.writeFaultRecord (s : State) : State :=
  let g := s.pkg.regs
  match s.pkg.faults.find? fun r => r.recorded && r.index.isNone with
  | none => s
  | some r =>
    let size := g.frsize.toNat
    let head := g.frhead.toNat
    if size = 0 ∨ (head + 1) % size = g.frtail.toNat then s
    else
      let fix (x : FaultRec) : FaultRec := if x.seq == r.seq && x.recorded then { x with index := some head } else x
      let s1 := s.physWrite true (g.frbase.toNat + 64 * head) (faultBytes r)
      s1.modPkg fun p => { p with
        faults := p.faults.map fix
        regs := { p.regs with frhead := BitVec.ofNat 16 ((head + 1) % size) }
        outbox := p.outbox ++ [.vector 0 g.frvec.toNat] }

/-- A waiter's access is walked again (R393). -/
def State.rewalk (s : State) (w : Waiter) : State :=
  match w with
  | .request id =>
    let back (r : Req) : Req := if r.id == id then { r with stage := .issued } else r
    (s.markLanding id false).modPkg fun p => { p with reqs := p.reqs.map back }
  | .engine id => s.modPkg (·.engineStage id .begun)
  | .inbound id => s.retryInbound id false
  | .launch id => s.modPkg fun p => { p with
      launches := p.launches.map fun l => if l.id == id then { l with faulted := false } else l }

/-- The driver aborts an engine's access (R393). -/
def State.abortAccess (s : State) (id : Nat) : State :=
  s.modPkg fun p => { p with engines := p.engines.map fun e => if e.id == id then e.abortHere else e }

/-- A launch whose preparation cannot go on takes region fault `LAUNCH` on its reserved dies, and its fault domain
fails with it (R394-R396). -/
def State.launchFault (s : State) (l : Launch) : State :=
  let bytes := fun k => regionRecordBytes 1 5 k l.id s.pkg.ptime.toNat 0 0
  let s1 := l.reserved.foldl (fun s k => (s.regionRecord l.rcb (bytes k)).fence k l.id (s.effPolicy l.rcb)) s
  let s2 := (s1.faultDomain l.part (s.effFdom l.rcb) none).markFaulted l.rcb
  match s2.pkg.launch l.id with
  | none => s2.cancelDoomed
  | some m => (s2.cancelLaunch m codeFaulted).cancelDoomed

/-- A kernel's stream on a die ends as `KSTOP.kill` ends it, whether it runs there or is away (R349, R393). -/
def State.killOf (s : State) (sock kern : Nat) (st : BitVec 16) : State :=
  if s.resident sock kern then s.killStream sock st else s.killAway sock kern st

/-- The answer `KILL` for one waiter (R393): the requesting stream ends; a copy's access then completes
as under `ABORT`; a launch takes region fault `LAUNCH`. -/
def State.killWaiter (s : State) (w : Waiter) (cause : Nat) : State :=
  let st := BitVec.ofNat 16 (0xF000 + cause)
  match w with
  | .request id =>
    match s.pkg.reqs.find? (·.id == id) with
    | none => s
    | some r => (s.modPkg (·.dropReqsWhere (·.id == id))).killOf r.sock r.kern st
  | .engine id =>
    match s.pkg.engine id with
    | none => s
    | some e =>
      let s1 := s.abortAccess id
      if e.orphan then s1 else s1.killOf e.sock e.kern st
  | .inbound id =>
    match s.pkg.inbound.find? (·.id == id) with
    | none => s
    | some x => s.answerCopy x 3 0 (some st)
  | .launch id =>
    match s.pkg.launch id with
    | none => s
    | some l => s.launchFault l

/-- Answer one waiter: 1 `RETRY`, 2 `KILL`, 3 `ABORT` (R393). -/
def State.answerWaiter (s : State) (ans cause : Nat) (w : Waiter) : State :=
  if ans = 1 then s.rewalk w
  else if ans = 2 then s.killWaiter w cause
  else match w with
    | .engine id => s.abortAccess id
    | .inbound id => s.retryInbound id true
    | _ => s.killWaiter w cause

/-- A write of `FRANS` (R393): an answer to an index with no outstanding record, or while `SIZE` is 0
(R391), is ignored. Where the ring has come round, an index may name more than one record that is unanswered: the answer
is that of the oldest. [DEDUCED, log 26] -/
def State.answerFault (s : State) (ans index : Nat) : State :=
  if ans = 0 ∨ s.pkg.regs.frsize = 0#16 then s
  else match s.pkg.faults.find? fun r => r.index == some index with
    | none => s
    | some r =>
      let s1 := s.modPkg fun p => { p with faults := p.faults.filter fun x => !(x.recorded && x.seq == r.seq) }
      (r.waiters.foldl (fun s w => s.answerWaiter ans r.cause w) s1).promoteFaults

/-- Write records while they fit (R391). -/
def State.writeFaultRecords : Nat → State → State
  | 0, s => s
  | n + 1, s => State.writeFaultRecords n s.writeFaultRecord

/-- A write of `FRCTL` (R389, R391): the records that wait are written, in fault order, while the ring has
room. -/
def State.writeFrctl (s : State) (v : Word) : State :=
  let s1 := s.modPkg fun p => { p with regs := { p.regs with
    frvec := (v >>> 32).setWidth 8, frtail := (v >>> 16).setWidth 16, frsize := v.setWidth 16 } }
  State.writeFaultRecords s1.pkg.faults.length s1

/-- A write of `MIGCMD` (R389): W1C bits, then `GO`, ignored while `BUSY`. -/
def State.writeMigcmd (s : State) (v : Word) : State :=
  let g := s.pkg.regs
  let keep : BitVec 4 := g.migcmd &&& ~~~(v.setWidth 4 &&& 12#4)
  if v.getLsbD 0 ∧ ¬ g.migcmd.getLsbD 1 then
    s.modPkg fun p => { p with
      regs := { p.regs with migcmd := keep ||| 2#4 }
      migration := some ⟨bitsAt g.migsrc.toNat 12 40 * 4096, bitsAt g.migdst.toNat 12 40 * 4096,
        pageBytes (bitsAt g.migsrc.toNat 0 3)⟩ }
  else s.modPkg fun p => { p with regs := { p.regs with migcmd := keep } }

/-- The measurement registers. -/
def Pkg.measure (p : Pkg) (i : Nat) : BitVec 256 := Store.get 0#256 p.regs.meas i

/-- Extend a measurement register with a digest (R432). -/
def Pkg.extend (p : Pkg) (i : Nat) (digest : List Byte) : Pkg :=
  let h := sha256 (natBytes 32 (p.measure i).toNat ++ digest)
  { p with regs := { p.regs with meas := Store.set 0#256 p.regs.meas i (BitVec.ofNat 256 (bytesNat h)) } }

/-- `MEXT` (R431, R432). -/
def State.mext (s : State) (v : Word) : State :=
  let i := bitsAt v.toNat 57 3
  let a := bitsAt v.toNat 0 57
  if i < 4 ∨ a % 32 ≠ 0 ∨ s.pkg.lineBad (lineOf false a) then
    s.modPkg fun p => { p with regs := { p.regs with attcmd := p.regs.attcmd ||| 8#4 } }
  else s.modPkg (·.extend i (s.memRead false a 32))

/-- A write of `ATTCMD` (R431, R433): W1C bits, then `GO` snapshots the report, ignored while `BUSY`. -/
def State.writeAttcmd (s : State) (v : Word) : State :=
  let g := s.pkg.regs
  let keep : BitVec 4 := g.attcmd &&& ~~~(v.setWidth 4 &&& 12#4)
  if v.getLsbD 0 ∧ ¬ g.attcmd.getLsbD 1 then
    s.modPkg fun p => { p with
      regs := { p.regs with attcmd := keep ||| 2#4 }
      report := some ⟨g.attnonce, p.ptime, (List.range 8).map p.measure⟩ }
  else s.modPkg fun p => { p with regs := { p.regs with attcmd := keep } }

/-- The bytes of a report before its signature (R433): like every value in memory, the key's coordinates are little-endian
(R3). [DEDUCED, log 22] -/
def reportBytes (p : Pkg) (r : Report) : List Byte :=
  let key := match pointTimes (Config.identityKey (p.regs.fwver.setWidth 64 >>> 32 |>.setWidth 32)).toNat p256G with
    | none => (0, 0)
    | some q => q
  natBytes 4 1 ++ natBytes 4 p.regs.pkgid.toNat ++ natBytes 8 p.regs.fwver.toNat ++
    natBytes 8 r.nonce.toNat ++ natBytes 8 r.time.toNat ++
    r.meas.flatMap (fun m => natBytes 32 m.toNat) ++ natBytes 32 key.1 ++ natBytes 32 key.2

/-- The report is written (R433); a bad address, or one on a fenced stack (R402), sets `ERR` with `DONE` and writes
nothing. -/
def State.finishReport (s : State) : State :=
  match s.pkg.report with
  | none => s
  | some r =>
    let a := s.pkg.regs.attaddr.toNat
    let away (line : Nat) : Bool := s.pkg.badStacks.contains (Config.homeStack line)
    let bad := a % 4096 ≠ 0 ∨ Config.installedBytes < a + 416 ∨ (linesOf false a 416).any away = true
    let body := reportBytes s.pkg r
    let d := (Config.identityKey (s.pkg.regs.fwver >>> 32 |>.setWidth 32)).toNat
    let sig := ecdsaSign d (sha256 body)
    let s1 := if bad then s else s.inboundWrite a (body ++ natBytes 32 sig.1 ++ natBytes 32 sig.2)
    s1.modPkg fun p => { p with
      report := none
      regs := { p.regs with attcmd := (p.regs.attcmd &&& 8#4) ||| (if bad then 12#4 else 4#4) } }

def Pkg.setRoute (p : Pkg) (bank : Bool) (dim : Nat) (e : BitVec 64) : Pkg :=
  { p with routes := Store.set 0#64 p.routes ((if bank then 32 else 0) + dim) e }

/-- The package id that an entry expects. -/
def routeExpect (e : BitVec 64) : Nat := fieldAt e 12 20

/-- The dimension a bank assigns to a port; 0x1F none (R411). -/
def Pkg.dimOfPort (p : Pkg) (bank : Bool) (port : Nat) : Nat :=
  ((List.range 16).find? fun i =>
    routeValid (p.route bank (i + 4)) && routePort (p.route bank (i + 4)) == port).elim 0x1F (· + 4)

/-- Write an entry of the inactive bank (R358, R410). -/
def Pkg.writeRoute (p : Pkg) (bank : Bool) (dim : Nat) (e : BitVec 64) : Pkg :=
  let q := p.setRoute bank dim e
  { q with regs := { q.regs with armed := true } }

def Pkg.setPort (p : Pkg) (n : Nat) (x : Port) : Pkg :=
  { p with ports := Store.set Port.reset p.ports n x }

/-- The code of a port's state (R407). -/
def PortState.code : PortState → Nat
  | .up => 0 | .draining => 1 | .quiet => 2 | .dark => 3 | .training => 4 | .verify => 5 | .failed => 6

/-- The code of a socket's state (R353). -/
def SockState.code : SockState → Nat
  | .empty => 0 | .admitting => 1 | .active => 2 | .fenced => 3 | .resetting => 4

def Pkg.setSock (p : Pkg) (k : Nat) (x : SockState) : Pkg :=
  { p with socks := Store.set .empty p.socks k x }

end Sys2Proof.Machine
end

