-- ==== Sys2Proof/Machine/Special.lean ====
section
/-! DEFINITION. The special registers by number: which exist, what each reads, what a write does
(R14, R32, R47, R68-R71, R347, R351, R352, R389, R411, R431). -/
namespace Sys2Proof.Machine

/-- The assigned numbers below 0x100 (R14, R47, R69). -/
def sregRO (n : Nat) : Bool := n ≤ 0x08 || (0x10 ≤ n && n ≤ 0x21)

/-- The assigned numbers of 0x100-0x1FF (R32, R47, R69). -/
def sregRW (n : Nat) : Bool := (0x100 ≤ n && n ≤ 0x10D) || (0x110 ≤ n && n ≤ 0x114)

/-- The assigned numbers of 0x800-0xFFF (R351, R389, R411, R431). -/
def sregK (n : Nat) : Bool :=
  (0x800 ≤ n && n ≤ 0x80B) || (0x820 ≤ n && n ≤ 0x829) || (0x840 ≤ n && n ≤ 0x859) ||
    (0x860 ≤ n && n ≤ 0x86C)

/-- Registers that exist once per package (R351, R389, R411, R431). -/
def sregPkg (n : Nat) : Bool :=
  (0x803 ≤ n && n ≤ 0x808) || (0x820 ≤ n && n ≤ 0x829) || (0x840 ≤ n && n ≤ 0x859) ||
    (0x865 ≤ n && n ≤ 0x86C)

/-- The fate of `SRD` and `SWR` that the number and the level decide (R68, R347); `none` allows it. -/
inductive SregFate where
  | illegal | priv
deriving DecidableEq, Repr

/-- `SRD` (R68). -/
def srdFate (k : Bool) (n : Nat) : Option SregFate :=
  if 0x800 ≤ n then if !k then some .priv else if sregK n then none else some .illegal
  else if sregRO n || sregRW n then none else some .illegal

/-- `SWR` (R68); in K `TEPC` may be written (R347). -/
def swrFate (k : Bool) (n : Nat) : Option SregFate :=
  if 0x800 ≤ n then if !k then some .priv else if sregK n then none else some .illegal
  else if sregRW n || (k && n == 0x21) then none else some .illegal

/-- `REFWIN` at a die clock (R69, R71). [DEDUCED, log 35] -/
def refwin (clk : Nat) : Word :=
  let phase (b : Nat) : Nat := (clk + 8 * Config.refreshPeriod - 512 * b) % Config.refreshPeriod
  match (List.range 8).find? fun b => phase b < Config.refreshLen with
  | some b => BitVec.ofNat 64 (64 * 2 ^ 32 + 4096 * 2 ^ 16 + b)
  | none =>
    let b := ((clk % Config.refreshPeriod) / 512 + 1) % 8
    BitVec.ofNat 64 ((4096 - phase b) * 2 ^ 48 + 64 * 2 ^ 32 + 4096 * 2 ^ 16 + b)

/-- The refresh window of a weight-store bank is open (R71, R111). -/
def refreshOpen (clk bank : Nat) : Bool :=
  (clk + 8 * Config.refreshPeriod - 512 * bank) % Config.refreshPeriod < Config.refreshLen

/-- `LOOPCNT` of a level, 0 outermost (R51, R214); an absent level reads 0. -/
def Die.loopcnt (d : Die) (i : Nat) : Word :=
  match d.ctl.loops.reverse[i]? with
  | none => 0#64
  | some l => BitVec.ofNat 64 (l.remain * 8 + l.stages)

/-- `PORTST` of a port (R411). [DEDUCED, log 29] -/
def portst (p : Pkg) (n : Nat) : Word :=
  let x := p.port n
  BitVec.ofNat 64 (x.nbr.toNat * 2 ^ 44 + x.retrain.toNat * 2 ^ 32 + p.dimOfPort p.regs.rtact n * 2 ^ 11 +
    p.dimOfPort (!p.regs.rtact) n * 2 ^ 6 + x.state.code)

/-- A measurement word (R431). -/
def mdata (p : Pkg) (sel w : Nat) : Word := (p.measure sel >>> (64 * w)).setWidth 64

/-- A register of the package (R351, R389, R411, R431). -/
def Pkg.readReg (p : Pkg) (part : Nat) (pwr : BitVec 16) (n : Nat) : Word :=
  let g := p.regs
  match n with
  | 0x803 => g.ybound.setWidth 64
  | 0x804 => g.wgrace.setWidth 64
  | 0x805 => g.agep.setWidth 64
  | 0x806 => g.detour.setWidth 64
  | 0x807 => g.detour2.setWidth 64
  | 0x808 => if g.rtact then 1#64 else 0#64
  | 0x820 => Store.get 0#64 g.ptroot part
  | 0x821 => g.frbase
  | 0x822 => BitVec.ofNat 64 (g.frvec.toNat * 2 ^ 32 + g.frtail.toNat * 2 ^ 16 + g.frsize.toNat)
  | 0x823 => g.frhead.setWidth 64
  | 0x824 => 0#64
  | 0x825 => BitVec.ofNat 64 (p.recorded % 512)
  | 0x826 => g.migsrc
  | 0x827 => g.migdst
  | 0x828 => g.migcmd.setWidth 64
  | 0x829 => BitVec.ofNat 64 (g.errUncorr.toNat * 2 ^ 32 + g.errCorr.toNat)
  | 0x858 => BitVec.ofNat 64 ((if g.lostw then 4 else 0) + (if g.swaplk then 2 else 0) + (if g.armed then 1 else 0))
  | 0x859 => BitVec.ofNat 64 ((if g.hold then 128 else 0) + (if g.gm then 64 else 0) + g.parent.toNat)
  | 0x865 => 0#64
  | 0x866 => g.attnonce
  | 0x867 => g.attaddr.setWidth 64
  | 0x868 => g.attcmd.setWidth 64
  | 0x869 => BitVec.ofNat 64 ((if g.pwrcapEn then 65536 else 0) + g.pwrcap.toNat)
  | 0x86A => BitVec.ofNat 64 (pwr.toNat * 2 ^ 48 + g.mhz.toNat * 2 ^ 32 + g.pwrCause.toNat)
  | 0x86B => g.fwver
  | 0x86C => BitVec.ofNat 64 (g.bootCode.toNat * 256 + g.bootStep.toNat)
  | _ => if 0x840 ≤ n ∧ n ≤ 0x857 then portst p (n - 0x840) else 0#64

/-- A register of a die (R14, R32, R47, R69, R351). -/
def Die.readReg (d : Die) (p : Pkg) (sock n : Nat) : Word :=
  let r := d.sr
  match n with
  | 0x000 => r.rank.setWidth 64
  | 0x001 => r.ndim.setWidth 64
  | 0x002 => r.dmaplo.setWidth 64
  | 0x003 => r.dmaphi.setWidth 64
  | 0x004 => r.scbase.setWidth 64
  | 0x005 => r.scmask.setWidth 64
  | 0x006 => r.present.setWidth 64
  | 0x007 => BitVec.ofNat 64 (sock % 16)
  | 0x008 => (p.regs.pkgid &&& 0xFFFF#20).setWidth 64
  | 0x010 => p.ptime
  | 0x011 => p.pskew.setWidth 64
  | 0x012 => r.cycle
  | 0x013 => r.frozen
  | 0x014 => refwin p.clk
  | 0x015 => r.spsize.setWidth 64
  | 0x016 => BitVec.ofNat 64 Config.wsSize
  | 0x017 => r.kernid.setWidth 64
  | 0x018 => r.regionid.setWidth 64
  | 0x019 => r.statlost
  | 0x01A => r.yskip
  | 0x01B => r.conflict
  | 0x01C => r.txn
  | 0x01D => r.tcause.setWidth 64
  | 0x01E => r.tinfo0
  | 0x01F => r.tinfo1
  | 0x020 => r.tmask.setWidth 64
  | 0x021 => r.tepc.setWidth 64
  | 0x100 => r.flg.setWidth 64
  | 0x101 => r.flgerr.setWidth 64
  | 0x102 => r.status.setWidth 64
  | 0x103 => r.oobaddr.setWidth 64
  | 0x104 => BitVec.ofNat 64 (r.rclampEng.toNat * 2 ^ 38 + r.rclampReg.toNat * 2 ^ 36 + r.rclampVal.toNat)
  | 0x105 => r.fpmode.setWidth 64
  | 0x106 => r.atland.setWidth 64
  | 0x107 => r.uhandler.setWidth 64
  | 0x108 => r.umask.setWidth 64
  | 0x109 => BitVec.ofNat 64 (r.statbase.toNat * 16)
  | 0x10A => BitVec.ofNat 64 (r.staten.toNat * 65536 + r.statsize.toNat)
  | 0x10B => BitVec.ofNat 64 (r.stattail.toNat * 65536 + r.stathead.toNat)
  | 0x10C => r.ysave.setWidth 64
  | 0x10D => r.monstat.setWidth 64
  | 0x110 => d.loopcnt 0
  | 0x111 => d.loopcnt 1
  | 0x112 => d.loopcnt 2
  | 0x113 => d.loopcnt 3
  | 0x114 => r.rotbase.setWidth 64
  | 0x800 => r.kstat.setWidth 64
  | 0x801 => r.kvec.setWidth 64
  | 0x802 => r.freezemax.setWidth 64
  | 0x809 => r.partid.setWidth 64
  | 0x80A => r.rcbaddr.setWidth 64
  | 0x80B => BitVec.ofNat 64 Config.ctxSize
  | 0x860 => r.msel.setWidth 64
  | 0x861 => mdata p r.msel.toNat 0
  | 0x862 => mdata p r.msel.toNat 1
  | 0x863 => mdata p r.msel.toNat 2
  | 0x864 => mdata p r.msel.toNat 3
  | _ => 0#64

/-- The package registers that `SWR` writes (R351, R389, R411, R431). -/
def sregPkgRW (n : Nat) : Bool :=
  (0x803 ≤ n && n ≤ 0x807) || (0x820 ≤ n && n ≤ 0x822) || (0x826 ≤ n && n ≤ 0x828) || n == 0x858 ||
    (0x866 ≤ n && n ≤ 0x869)

/-- A write is of a register; of `PTROOT`, of a partition's copy (R389). -/
def Unpublished.of (u : Unpublished) (n part : Nat) : Bool := u.num == n && (n != 0x820 || u.part == part)

/-- The writes of a package register that a die need not have seen: those of other dies after its own last one
(R352). -/
def unseen (sock n part : Nat) (l : List Unpublished) : List Unpublished :=
  ((l.filter (·.of n part)).reverse.takeWhile (·.sock != sock)).reverse

/-- The value that a die reads of a register with such writes: what one of them replaced, or what is there now (R352). -/
def State.readPending (s : State) (now : Word) : List Unpublished → Word × State
  | [] => (now, s)
  | u :: rest =>
    let (new, s1) := s.choose
    if new then State.readPending s1 now rest else (u.old, s1)

/-- What `SRD` reads on a die: a package register written by other dies and not yet published reads any of the values
that they replaced or its new value (R352). -/
def State.readSreg (s : State) (n : Nat) : Word × State :=
  let d := s.here
  if sregPkg n then
    let part := d.sr.partid.toNat
    let now := s.pkg.readReg part (Config.powerReading s.fresh) n
    let s0 := if n = 0x86A then { s with fresh := s.fresh + 1 } else s
    s0.readPending now (unseen s.cur n part s.pkg.unpub)
  else (d.readReg s.pkg s.cur n, s)

/-- A write of a register of the package, as Brocade applies it (R352). -/
def State.writePkg (s : State) (part n : Nat) (v : Word) : State :=
  let set (f : PkgRegs → PkgRegs) : State := s.modPkg fun p => { p with regs := f p.regs }
  match n with
  | 0x803 => set fun g => { g with ybound := v.setWidth 32 }
  | 0x804 => s.modPkg fun p => { p with regs.wgrace := v.setWidth 32, garnet.grace := bitsAt v.toNat 0 32 }
  | 0x805 => set fun g => { g with agep := v.setWidth 32 }
  | 0x806 => set fun g => { g with detour := v.setWidth 5 }
  | 0x807 => set fun g => { g with detour2 := v.setWidth 5 }
  | 0x820 => set fun g => { g with ptroot := Store.set 0#64 g.ptroot part (v &&& 0xFFFFFFFFFF001#64) }
  | 0x821 => set fun g => { g with frbase := v &&& 0xFFFFFFFFFFFC0#64 }
  | 0x822 => s.writeFrctl v
  | 0x824 => s.answerFault (bitsAt v.toNat 16 2) (bitsAt v.toNat 0 16)
  | 0x826 => set fun g => { g with migsrc := v &&& 0xFFFFFFFFFF007#64 }
  | 0x827 => set fun g => { g with migdst := v &&& 0xFFFFFFFFFF000#64 }
  | 0x828 => s.writeMigcmd v
  | 0x858 => set fun g => { g with lostw := g.lostw && !v.getLsbD 2 }
  | 0x865 => s.mext v
  | 0x866 => set fun g => { g with attnonce := v }
  | 0x867 => set fun g => { g with attaddr := v.setWidth 57 }
  | 0x868 => s.writeAttcmd v
  | 0x869 => set fun g => { g with
      pwrcapEn := v.getLsbD 16
      pwrcap := BitVec.ofNat 16 (max 2000 (min 6500 (bitsAt v.toNat 0 16))) }
  | _ => s

/-- A write of a die's own register (R32, R47, R69, R70, R347, R351). -/
def Die.writeReg (d : Die) (n : Nat) (v : Word) : Die :=
  match n with
  | 0x021 =>
    let snap := d.ctl.snapshot.map fun x =>
      { x with transfer := none, done := 0#10, popped := [], switch := false, dskip := false }
    { d with sr.tepc := v.setWidth 15, sr.kstat := (d.sr.kstat ||| 8#8) &&& ~~~16#8, ctl.snapshot := snap }
  | 0x100 => { (d.forget (~~~v.setWidth 32)) with sr.flg := v.setWidth 32 }
  | 0x101 => { d with sr.flgerr := d.sr.flgerr &&& ~~~v.setWidth 32 }
  | 0x102 =>
    let gone := d.sr.status &&& v.setWidth 10 &&& ~~~d.iss.raised
    { d with sr.status := d.sr.status &&& ~~~gone, iss.cleared := d.iss.cleared ||| gone }
  | 0x103 => { d with sr.oobaddr := v.setWidth 26 }
  | 0x104 => { d with sr.rclampEng := (v >>> 38).setWidth 2, sr.rclampReg := (v >>> 36).setWidth 2,
                      sr.rclampVal := v.setWidth 32 }
  | 0x105 => { d with sr.fpmode := v.setWidth 3 }
  | 0x106 => { d with sr.atland := if v.setWidth 7 = 0#7 then 1#7 else v.setWidth 7 }
  | 0x107 => { d with sr.uhandler := v.setWidth 15 }
  | 0x108 => { d with sr.umask := v.setWidth 2 }
  | 0x109 => { d with sr.statbase := (v >>> 4).setWidth 22 }
  | 0x10A => { d with sr.staten := (v >>> 16).setWidth 16, sr.statsize := v.setWidth 16 }
  | 0x10B => { d with sr.stattail := (v >>> 16).setWidth 16, sr.stathead := v.setWidth 16 }
  | 0x10C => { d with sr.ysave := v.setWidth 56 }
  | 0x10D => { d with sr.monstat := d.sr.monstat &&& ~~~(v.setWidth 3 &&& 6#3) }
  | 0x114 => { d with sr.rotbase := v.setWidth 5 }
  | 0x800 => { d with sr.kstat := (d.sr.kstat &&& ~~~(v.setWidth 8 &&& 128#8) &&& ~~~4#8) ||| (v.setWidth 8 &&& 4#8) }
  | 0x801 => { d with sr.kvec := v.setWidth 12 }
  | 0x802 => { d with sr.freezemax := if bitsAt v.toNat 0 32 < 1024 then 1024#32 else v.setWidth 32 }
  | 0x860 => { d with sr.msel := v.setWidth 3 }
  | _ => d

/-- A write by the acting die (R68): of a package register, other dies may read the old value until the
writer's release (R352). [DEDUCED, log 9] -/
def State.writeSreg (s : State) (n : Nat) (v : Word) : State :=
  if sregPkg n then
    let part := s.here.sr.partid.toNat
    let old := s.pkg.readReg part 0#16 n
    let s1 := s.writePkg part n v
    if sregPkgRW n then s1.modPkg fun p => { p with unpub := p.unpub ++ [⟨s.cur, n, part, old⟩] } else s1
  else s.mod (·.writeReg n v)

/-- The writes that stay unpublished when a die's release completes: its own are seen, and with them those of the same
register that they follow (R352). -/
def stillUnseen (sock : Nat) : List Unpublished → List Unpublished
  | [] => []
  | u :: rest =>
    if u.sock == sock || rest.any fun v => v.sock == sock && v.of u.num u.part then stillUnseen sock rest
    else u :: stillUnseen sock rest

/-- The writes of a die are published by its release (R352). -/
def Pkg.publishRegs (p : Pkg) (sock : Nat) : Pkg := { p with unpub := stillUnseen sock p.unpub }

end Sys2Proof.Machine
end

