-- ==== Sys2Proof/Machine/Ops.lean ====
section
/-! DEFINITION. The operations every meaning is written over: guards, results, the end of an issue cycle,
taking an exception and returning from one, engine operations, memory requests. -/
namespace Sys2Proof.Machine

/-- Change the issue context of the acting die. -/
def State.setIss (s : State) (f : Issue → Issue) : State := s.mod fun d => { d with iss := f d.iss }

/-- The bit field of a tensor entry's field number (R64): lowest bit and width. -/
def tensorField (f : Nat) : Nat × Nat :=
  match f with
  | 0 => (0, 5)
  | 1 => (5, 4)
  | 2 => (9, 3)
  | 3 => (12, 3)
  | 4 => (16, 57)
  | 5 => (73, 40)
  | _ => if f % 2 = 0 then (120 + 56 * ((f - 8) / 2), 24) else (144 + 56 * ((f - 9) / 2), 32)

/-- The width of an address-generator field (R58). -/
def agWidth (f : Nat) : Nat :=
  match f with
  | 0 => 28
  | 1 => 1
  | 2 => 4
  | 11 => 1
  | _ => 32

/-! The end of an issue cycle. -/

/-- The counts and strides of an address-generator set (R59). -/
def Die.agCounts (d : Die) (n : Nat) : List Nat := (List.range 4).map fun i => (d.agField n (3 + i)).toNat
def Die.agStrides (d : Die) (n : Nat) : List Int := (List.range 4).map fun i => (d.agField n (7 + i)).toInt

/-- The port a set is bound to (R58): 0-3 `j`, 4-5 `y`. -/
def Die.agPort (d : Die) (n : Nat) : Nat := fieldAt (d.agField n 2) 0 3

/-- Disarm a set (R60): its port becomes IDLE. -/
def Die.disarm (d : Die) (n : Nat) : Die :=
  let clear : Die := { d with tab.ag := Store.set 0#32 d.tab.ag (16 * n + 11) 0#32 }
  let inp := d.tab.inp.filter fun e => !(e.2.map (·.set) == some n)
  let outp := d.tab.outp.filter fun e => !(e.2.map (·.set) == some n)
  if d.agField n 11 = 1#32 then { clear with tab.inp := inp, tab.outp := outp } else clear

/-- Arm a set (R59, R60): its port starts the sequence; a product of counts of zero drains it at once.
A set that was armed leaves its earlier port. -/
def Die.arm (d0 : Die) (clk n : Nat) : Die :=
  let d := d0.disarm n
  let port := d.agPort n
  let cnt := d.agCounts n
  let none_ := cnt.any (· == 0)
  let base : Int := (d.agField n 0).toNat
  let armed := Store.set 0#32 d.tab.ag (16 * n + 11) 1#32
  if port < 4 then
    let x : InPort := ⟨!none_, none_, n, base, (d.agField n 1).getLsbD 0, cnt, d.agStrides n, 0, 0, clk + 1, []⟩
    { d with tab.ag := armed, tab.inp := Store.set none d.tab.inp port (some x) }
  else
    let x : OutPort := ⟨!none_, none_, n, base, cnt, d.agStrides n, 0, d.tab.armings⟩
    { d with tab.ag := armed, tab.outp := Store.set none d.tab.outp (port - 4) (some x),
             tab.armings := d.tab.armings + 1 }

/-- One write at the end of the cycle that is not of a status bit or a flag. -/
def applyWrite (s : State) (l : Later) : State :=
  match l with
  | .sreg n v => s.writeSreg n v
  | .shape eng reg field v => s.mod fun d =>
    let key := shapeKey eng reg (1 - d.activeCopy eng reg) field
    { d with tab.shape := Store.set 0#32 d.tab.shape key v }
  | .tensor id field v => s.mod fun d =>
    let (lo, n) := tensorField field
    { d with tab.tid := Store.set 0#512 d.tab.tid id (putBits (d.tensor id) lo n v.toNat) }
  | .ag set field v =>
    if field = 11 then s.mod fun d => if v = 0#32 then d.disarm set else d.arm s.pkg.clk set
    else s
  | .spWrite a bytes => s.mod (·.spWrite a bytes)
  | .pred phys b => s.mod fun d => { d with regs.p := Store.set false d.regs.p phys b }
  | _ => s

/-- The cursors an engine instruction advances, before any `SHW` of the cycle (R249). -/
def applyCursor (s : State) (l : Later) : State :=
  match l with
  | .cursor eng reg copy field v => s.mod fun d =>
    { d with tab.shape := Store.set 0#32 d.tab.shape (shapeKey eng reg copy field) v }
  | _ => s

/-- The writes of address-generator fields, after any arming of the bundle (R206). -/
def applyAg (s : State) (l : Later) : State :=
  match l with
  | .ag set field v =>
    if field = 11 then s
    else s.mod fun d => { d with tab.ag := Store.set 0#32 d.tab.ag (16 * set + field) v }
  | _ => s

/-- The stream's writes of flags: clears before sets (R57, R207, R209). -/
def applyClear (s : State) (l : Later) : State :=
  match l with
  | .flagClear m => s.mod fun d =>
    { (d.forget m) with sr.flg := d.sr.flg &&& ~~~m, sr.flgerr := d.sr.flgerr &&& ~~~m }
  | _ => s

def applySet (s : State) (l : Later) : State :=
  match l with
  | .flagSet m => s.mod fun d => { d with sr.flg := d.sr.flg ||| m }
  | _ => s

/-- The status bits the bundle sets: a write of `STATUS` in the same cycle acts only from the next one on, and leaves
them set (R68, R70). -/
def applyStatus (s : State) (l : Later) : State :=
  match l with
  | .status b => s.mod (·.setStatus b)
  | .oob off => s.mod (·.oobNow off)
  | .rclamp eng reg limit => s.mod fun d =>
    if d.statusNow.getLsbD 1 then d.setStatus 2#10
    else { (d.setStatus 2#10) with sr.rclampEng := BitVec.ofNat 2 eng,
                                   sr.rclampReg := BitVec.ofNat 2 reg, sr.rclampVal := limit }
  | _ => s

/-- A flag that the stream clears while a `SLEEPT` waits is clear from then on (R216). -/
def Sleep.seen (flg : BitVec 32) : Sleep → Sleep
  | .flags old => .flags (old &&& flg)
  | x => x

/-- Apply writes of the end of a cycle, in the order the rules give the kinds. -/
def applyAll (ls : List Later) (s : State) : State :=
  let s0 := ls.foldl applyStatus s
  let s1 := ls.foldl applyAg (ls.foldl applyWrite (ls.foldl applyCursor s0))
  let s2 := ls.foldl applySet (ls.foldl applyClear s1)
  s2.mod fun d => { d with ctl.sleep := d.ctl.sleep.seen d.sr.flg }

/-- Apply everything the bundle scheduled for the end of its cycle. -/
def applyLater (s : State) : State :=
  applyAll (s.here.pipe.next.map (·.2)) (s.mod fun d => { d with pipe.next := [] })

/-- A write that a wait bundle makes in the die clock cycle of the evaluation: of the flags (R207), of scratchpad
(R107). The others wait for the next issue cycle. [DEDUCED, log 14] -/
def Later.prompt : Later → Bool
  | .flagSet _ | .flagClear _ | .spWrite _ _ => true
  | .sreg n _ => n == 0x100 || n == 0x101
  | _ => false

/-- What is left of a write that has been made: its target, for the conflicts of later evaluations (R209). -/
def Later.spent : Later → Later
  | .flagSet _ => .flagSet 0#32
  | .flagClear _ => .flagClear 0#32
  | .spWrite a _ => .spWrite a []
  | .sreg n _ => .applied n
  | l => l

/-- Make the prompt writes of an evaluation that leaves its wait bundle incomplete (R37, R57). -/
def applyPrompt (s : State) : State :=
  let spend (x : Nat × Later) : Nat × Later := (x.1, if x.2.prompt then x.2.spent else x.2)
  applyAll ((s.here.pipe.next.map (·.2)).filter Later.prompt)
    (s.mod fun d => { d with pipe.next := d.pipe.next.map spend })

/-- A word, or one of those that it replaced, by free choice (R217). [DEDUCED, log 17] -/
def pickWord (new : BitVec 16) (s : State) : List OldWord → BitVec 16 × State
  | [] => (new, s)
  | x :: rest =>
    let (old, s1) := s.choose
    if old then (x.old, s1) else pickWord new s1 rest

/-- An index word: one that copies have written, without an `IFENCE` after their observation, reads as an old or
the new value (R217). [DEDUCED, log 17] -/
def fetchWord (a : Nat) (s : State) : BitVec 16 × State :=
  let d := s.here
  if d.inK then (Store.get 0#16 d.arr.rbank a, s)
  else pickWord (Store.get 0#16 d.arr.ib a) s (d.arr.ibOld.filter (·.word == a))

/-- Index words a bundle at an address takes (R155): 25 for an escape. The word is read as a fetch reads it (R217). -/
def State.wordsAt (s : State) (a : Nat) : Nat × State :=
  let (w, s1) := fetchWord a s
  (if w = 0xFFFF#16 then 25 else 1, s1)

/-- A loop level's body holds an address (R51). -/
def Loop.holds (l : Loop) (a : Nat) : Bool := l.first ≤ a && a ≤ l.last

/-- Rotate the register files at a taken back edge (R52), and set the stage predicate of the iteration
about to run (R53). -/
def Die.rotate (d : Die) (more : Bool) : Die :=
  let d1 := { d with sr.rotbase := d.sr.rotbase + 1#5 }
  { d1 with regs.p := Store.set false d1.regs.p (rotated 8 8 d1.sr.rotbase.toNat 8) more }

/-- A word of a topology table: a wait bundle's back edges have read theirs in its issue cycle (R37, R214). -/
def Die.tableWord (d : Die) (a : Nat) : Nat := (d.ctl.tables.lookup a).getD (d.spNat (a : Nat) 8)

/-- What the back edges of the bundle at the program counter read of topology tables (R214). -/
def Die.sampleTables (d : Die) : Die :=
  let ends := d.ctl.loops.filter fun l => l.table && l.last == d.ctl.pc
  let words := ends.flatMap fun l => [l.base, l.base + 8 + 8 * l.remain]
  { d with ctl.tables := words.map fun a => (a, d.spNat (a : Nat) 8) }

/-- The entry of a topology table that a `BLOOP` walk reads (R214), landing at the next cycle. -/
def Die.loadEntry (d : Die) (t i : Nat) : Die :=
  let e := d.tableWord (t + 8 + 8 * i)
  let put (k : Nat) : Due :=
    ⟨d.now + 1, d.now, .s (24 + k), false, BitVec.allOnes 512, BitVec.ofNat 16384 (bitsAt e (16 * k) 16), none, 0#10, [], []⟩
  let d1 := (d.noteOob (t + 8 + 8 * i : Nat) 8)
  { d1 with pipe.due := d1.pipe.due ++ [put 0, put 1, put 2, put 3] }

/-- The count of a topology table, reread every time (R214). -/
def Die.tableCount (d : Die) (t : Nat) : Nat := d.tableWord t % 2 ^ 32

/-- The back edges of the levels that end at the program counter, innermost first (R51, R214). Answers
the next address; `next` is where sequence goes when every level exits. -/
def backEdges (next : Nat) : List Loop → Die → Die × Nat
  | [], d => ({ d with ctl.loops := [] }, next)
  | l :: rest, d =>
    if l.last ≠ d.ctl.pc then ({ d with ctl.loops := l :: rest }, next)
    else if l.table then
      let d0 := d.noteOob (l.base : Nat) 8
      if l.remain < d0.tableCount l.base then
        let d1 := d0.loadEntry l.base l.remain
        ({ d1 with ctl.loops := { l with remain := l.remain + 1 } :: rest }, l.first)
      else backEdges next rest d0
    else if 1 < l.remain then
      let l1 := { l with remain := l.remain - 1, iter := l.iter + 1 }
      (({ d with ctl.loops := l1 :: rest }).rotate (l1.iter < l1.base), l.first)
    else backEdges next rest d

/-- Where the stream goes after its bundle (R43, R50, R51, R155): a transfer that has run its delay
bundles goes to its target and pops the levels it leaves; otherwise back edges, otherwise sequence.
Loop sequencing is suspended in handler state. -/
def Die.advance (d : Die) (next : Nat) : Die :=
  match d.ctl.transfer with
  | some x =>
    if x.left ≤ 1 then
      let loops := if d.handler then d.ctl.loops
        else if x.swap then [] else d.ctl.loops.filter (·.holds x.target)
      let d1 := { d with ctl.pc := x.target, ctl.transfer := none, ctl.loops := loops }
      if x.swap then { d1 with ctl.bank := 16384 ≤ x.target, ctl.switch := true } else d1
    else
      let d0 := { d with ctl.transfer := some { x with left := x.left - 1 } }
      let (d1, a) := if d.handler then (d0, next) else backEdges next d.ctl.loops d0
      { d1 with ctl.pc := a }
  | none =>
    let (d1, a) := if d.handler then (d, next) else backEdges next d.ctl.loops d
    { d1 with ctl.pc := a }

/-- Write the oldest statistics record (R74): an ordinary scratchpad write, which takes a port that the stream
leaves free on its bank (R107, R108). -/
def Die.drainStats (d : Die) : Die :=
  match d.pipe.statq with
  | [] => d
  | r :: rest =>
    let d1 := { d with pipe.statq := rest }
    let size := d.sr.statsize.toNat
    let head := d.sr.stathead.toNat
    let a : Int := (16 * (d.sr.statbase.toNat + head) : Nat)
    let banks := d.banksOf a 16
    if size = 0 then d1
    else if (head + 1) % size = d.sr.stattail.toNat then { d1 with sr.statlost := d.sr.statlost + 1#64 }
    else if banks.any fun b => 2 ≤ d.iss.banks.count b then d
    else
      let d2 := d1.spWrite a (natBytes 16 r.toNat)
      let d3 := match d.spOffending a 16 with
        | none => d2
        | some o => d2.oobNow o
      { d3 with sr.stathead := BitVec.ofNat 16 ((head + 1) % size), iss.banks := d3.iss.banks ++ banks }

/-- An issue cycle counts (R26, R36, R41). -/
def Die.counted (d : Die) : Die :=
  { d with sr.cycle := d.sr.cycle + 1#64, ctl.yieldCount := d.ctl.yieldCount + 1, ctl.watchdog := 0 }

/-- No bundle is being issued; what the die clock cycle has used and raised stands. -/
def Issue.idle (i : Issue) : Issue := { Issue.none with banks := i.banks, raised := i.raised, cleared := i.cleared }

/-- The bundle at the program counter is done. -/
def Die.bundleDone (d : Die) : Die :=
  { d with ctl.waiting := none, ctl.issued := false, ctl.popped := [], ctl.samples := [], ctl.tables := [], ctl.paid := 0,
           ctl.waited := 0, ctl.fetched := none, ctl.dskip := false, ctl.releasing := false,
           ctl.released := false, iss := d.iss.idle }

/-- The end of an issue cycle: a statistics record is written, what the bundle scheduled takes effect, the program
counter moves on, and the counters count, once for a wait bundle (R26, R37, R41, R74). -/
def endCycle (s : State) : State :=
  let iss := s.here.iss
  let s1 := s.mod fun d => (if iss.lBusy || d.ctl.issued then d else d.drainStats).advance iss.nextPc
  (applyLater s1).mod fun d => (if d.ctl.issued then d else d.counted).bundleDone

/-! Exceptions (R42-R47, R345, R346). -/

/-- What trap entry moves into the snapshot buffer, each result tagged with what is left of its latency
(R43). -/
def Die.takeSnapshot (d : Die) (clk : Nat) : Snapshot where
  results := d.pipe.due.map fun x => { x with land := x.land - d.now }
  landings := d.pipe.landings.map fun x => { x with land := x.land - d.now }
  q := d.regs.q
  qv := d.regs.qv
  transfer := d.ctl.transfer
  done := d.ctl.waiting.getD 0#10
  popped := d.ctl.popped
  switch := d.ctl.switch
  dskip := d.ctl.dskip
  cycle := d.now
  clk := clk

/-- The trap is of the user class and its `UMASK` bit is set (R44). -/
def Die.userTrap (d : Die) (cause : Nat) : Bool :=
  (cause == 1 && d.sr.umask.getLsbD 0) || (cause == 2 && d.sr.umask.getLsbD 1)

/-- Trap entry on a die (R43, R44, R346): the snapshot, the trap registers, the level, the handler, whose first die
clock cycle is given. -/
def Die.enterTrap (d : Die) (clk : Nat) (t : TrapInfo) (mask : BitVec 10) (epc : Nat) : Die :=
  let user := d.userTrap t.cause
  let kstat := if user then d.sr.kstat
    else (d.sr.kstat &&& 0x87#8) ||| (if t.cause = 0x19 then 0x10#8 else 0#8)
  { d with
    sr.tcause := BitVec.ofNat 8 t.cause, sr.tinfo0 := t.info0, sr.tinfo1 := t.info1,
    sr.tmask := mask, sr.tepc := BitVec.ofNat 15 epc, sr.kstat := kstat,
    ctl.level := if user then .user else .kernel,
    ctl.pc := if user then d.sr.uhandler.toNat else d.sr.kvec.toNat,
    ctl.snapshot := some (d.takeSnapshot clk), ctl.transfer := none, ctl.waiting := none,
    ctl.issued := false, ctl.samples := [], ctl.tables := [], ctl.switch := false, ctl.dskip := false,
    ctl.stall := 0, ctl.clash := 0, ctl.paid := 0, ctl.waited := 0, ctl.fetched := none, ctl.popped := [], ctl.sleep := .none,
    ctl.releasing := false, ctl.released := false,
    pipe.due := [], pipe.landings := [], pipe.next := [] }

/-- Take an exception on the acting die, the handler beginning at a die clock: in handler state a synchronous trap
is a double trap and the stream is killed as a region fault (R45, R394). -/
def takeTrapAt (clk : Nat) (s : State) (t : TrapInfo) (mask : BitVec 10) (epc : Nat) : State :=
  if s.here.handler then s.regionFault s.cur 1 0#16 0
  else s.mod (·.enterTrap clk t mask epc)

/-- A trap whose bundle does not issue: the handler begins in this die clock cycle (R42, R44). -/
def takeTrap (s : State) (t : TrapInfo) (mask : BitVec 10) (epc : Nat) : State := takeTrapAt s.pkg.clk s t mask epc

/-- Shift the pipelines that a handler held, by issue cycles and, for vectors fetched, by die clock cycles (R43,
R46). -/
def Die.shiftHeld (d : Die) (n clk : Nat) : Die :=
  let port (e : Nat × Option InPort) : Nat × Option InPort :=
    (e.1, e.2.map fun x => { x with queue := x.queue.map fun v => (v.1 + clk, v.2) })
  { d with
    pipe.mdue := d.pipe.mdue.map fun x => { x with land := x.land + n },
    pipe.scales := d.pipe.scales.map fun x => { x with land := x.land + n },
    tab.outq := d.tab.outq.map fun x => { x with land := x.land + n },
    tab.inp := d.tab.inp.map port,
    arr.trans := { d.arr.trans with pipe := d.arr.trans.pipe.map fun x => (x.1 + n, x.2) } }

/-- Restore the snapshot in the handler's last die clock cycle: the saved results land relative to the resumed
bundle's cycle (R46, R348); `skip` says whether it ignores `D` (R159). -/
def Die.restore (d : Die) (clk : Nat) (skip : Bool) : Die :=
  match d.ctl.snapshot with
  | none => d
  | some x =>
    let u := d.now
    let n := u - x.cycle
    let d1 := d.shiftHeld n (clk + 1 - x.clk)
    { d1 with
      regs.q := x.q, regs.qv := x.qv
      pipe.due := x.results.map fun r => { r with land := r.land + u, issue := r.issue + n }
      pipe.landings := x.landings.map fun r => { r with land := r.land + u, issue := r.issue + n }
      ctl.snapshot := none, ctl.level := .user, ctl.transfer := x.transfer
      ctl.waiting := if x.done = 0#10 then none else some x.done
      ctl.popped := x.popped, ctl.switch := x.switch
      ctl.pc := d.sr.tepc.toNat, ctl.run := .running
      ctl.dskip := skip }

/-- Whether the resumed bundle ignores `D`: `ERET` goes by `KSTAT.DSKIP`, `TRET` by what stood at the trap (R159,
R348). -/
def Die.skipsD (d : Die) (eret : Bool) : Bool :=
  if eret then d.sr.kstat.getLsbD 4 else d.ctl.snapshot.any (·.dskip)

/-- Return from an exception after the returning bundle's cycle: at once when nothing that the handler
issued is still to land, otherwise through empty bundles (R46, R348). -/
def Die.comeBack (d : Die) (clk : Nat) (eret : Bool) : Die :=
  if d.pipe.due.isEmpty ∧ d.pipe.landings.isEmpty then d.restore clk (d.skipsD eret)
  else { d with ctl.run := .returning, ctl.dskip := d.skipsD eret }

/-! Meanings. -/

/-- The slot raises a trap at issue: nothing of it commits (R42). -/
def raise (s : State) (cause : Nat) (info0 info1 : Word) : Out :=
  let t : TrapInfo := ⟨cause, info0, info1⟩
  let d := s.here
  .next ((takeTrap s t d.iss.slot.bit d.ctl.pc).setIss fun i => { i with trap := some t })

/-- `ILLEGAL` and `PRIV` carry the slot's bits (R346). -/
def raiseIllegal (s : State) : Out := raise s 0x10 (BitVec.ofNat 64 s.here.iss.bits) 0#64
def raisePriv (s : State) : Out := raise s 0x11 (BitVec.ofNat 64 s.here.iss.bits) 0#64

/-- `ALIGN` with the offending address or offset (R346). -/
def raiseAlign (s : State) (a : Int) : Out := raise s 0x16 (wordOf a) 0#64

/-- A slot that raises a trap has no effect: the trap is taken from the state the slot found (R42). -/
def orUndo (s : State) (o : Out) : Out :=
  match o with
  | .next s1 => match s1.here.iss.trap with
    | some t => raise s t.cause t.info0 t.info1
    | none => o
  | _ => o

/-- The bundle freezes before it issues (R34). -/
def held (s : State) (h : Hold) : Out := .next (s.setIss fun i => { i with hold := some h })

/-- The predicate of an ordinary bundle's slot (R160): bit 4 negates. -/
def Die.predicate (d : Die) (p : BitVec 5) : Bool := d.readP (p.setWidth 4) != p.getLsbD 4

/-- The slot executes (R27, R37): its predicate is true; in a wait bundle its flag is set. -/
def Die.executes (d : Die) (p : BitVec 5) : Bool :=
  if d.iss.wait then d.sr.flg.getLsbD p.toNat else d.predicate p

/-- Run the rest of a meaning when the slot executes. A slot that does not execute does nothing; in a
wait bundle it is not done (R37). -/
def guarded (p : BitVec 5) (s : State) (k : State → Out) : Out :=
  if s.here.executes p then k s
  else if s.here.iss.wait then .next (s.setIss fun i => { i with undone := true })
  else .next s

/-- A privileged opcode (R171, R190): an operand that its instruction calls illegal is met first, when the slot
executes; in U it raises `PRIV`, whatever its predicate. -/
def privileged (p : BitVec 5) (bad : Bool) (s : State) (k : State → Out) : Out :=
  if bad && s.here.executes p then raiseIllegal s
  else if s.here.inK then guarded p s k
  else raisePriv s

/-- A statistics record (R73). -/
def Die.statRecord (d : Die) (event first count : Nat) : BitVec 128 :=
  BitVec.ofNat 128 (d.now % 2 ^ 64 * 2 ^ 64 + first % 65536 * 2 ^ 48 + min count 65535 * 2 ^ 32 +
    d.iss.slot.num * 2 ^ 24 + event * 2 ^ 16 + d.ctl.pc % 2 ^ 15)

/-- Schedule a result of the running slot (R27, R48, R89). -/
def Die.emit (d : Die) (lat : Nat) (ws : Bool) (dest : Dest) (lanes : Mask) (value : Vec) (status : BitVec 10)
    (stats : List (BitVec 128)) : Die :=
  { d with pipe.due := d.pipe.due ++
      [⟨d.now + lat, d.now, dest, ws, lanes, value, d.iss.slot.latch, status, stats, []⟩] }

/-- Schedule a scalar result (R192); `WS` suppresses the register write (R162). -/
def Die.emitS (d : Die) (lat : Nat) (ws : Bool) (x : BitVec 6) (v : Word) (status : BitVec 10) : Die :=
  d.emit lat ws (d.sDest x) (BitVec.allOnes 512) (v.setWidth 16384) status []

/-- The copies into the instruction banks that a register shows complete: those whose flags `FLG` shows (R134). -/
def Die.shownBy (d : Die) (n : Nat) (v : Word) : List Nat := if n = 0x100 then d.copiesShown (v.setWidth 32) else []

/-- Schedule what `SRD` reads (R203): when it lands, it observes the completions that it shows (R134). -/
def Die.emitSreg (d : Die) (ws : Bool) (x : BitVec 6) (v : Word) (shows : List Nat) : Die :=
  { d with pipe.due := d.pipe.due ++ [⟨d.now + 2, d.now, d.sDest x, ws, BitVec.allOnes 512, v.setWidth 16384,
      d.iss.slot.latch, 0#10, [], shows⟩] }

/-- Schedule a predicate result: 0 or 1 in the latch (R192). -/
def Die.emitP (d : Die) (lat : Nat) (x : BitVec 4) (b : Bool) : Die :=
  d.emit lat false (d.pDest x) (BitVec.allOnes 512) (if b then 1#16384 else 0#16384) 0#10 []

/-- A new number for a request or an engine operation, in the order Brocade receives them. -/
def State.newId (s : State) : Nat × State :=
  (s.pkg.nextId, s.modPkg fun p => { p with nextId := p.nextId + 1 })

/-- Send an engine operation of the acting die (R277). -/
def State.sendEngine (s : State) (flag : Nat) (status : Option Nat) (job : EngineJob) : State :=
  let d := s.here
  let (id, s1) := s.newId
  let e : Engine := ⟨id, s.cur, d.sr.kernid.toNat, d.sr.regionid.toNat, d.sr.partid.toNat,
    d.sr.rcbaddr.toNat, flag, d.now, status, job, .sent, Progress.none, Option.none, [], false⟩
  s1.modPkg fun p => { p with engines := p.engines ++ [e] }

/-- Send a memory request of the acting die. -/
def State.sendReq (s : State) (kind : ReqKind) (va : Int) (size : Nat) (data data2 : Word)
    (op scope order : Nat) (arv : Option Nat) : Nat × State :=
  let d := s.here
  let (id, s1) := s.newId
  let stage := match kind with
    | .krd | .kwr => ReqStage.walked
    | _ => ReqStage.issued
  let r : Req := ⟨id, s.cur, d.sr.partid.toNat, d.sr.kernid.toNat, d.sr.regionid.toNat, kind, va, size,
    stage, none, data, data2, op, scope, order, arv, .waiting, none⟩
  (id, s1.modPkg fun p => { p with reqs := p.reqs ++ [r] })

/-- Allocate a landing-buffer entry of the running slot (R29, R31). -/
def Die.allocLanding (d : Die) (id offset : Nat) (ws : Bool) (dest : Dest) : Die :=
  { d with pipe.landings := d.pipe.landings ++
      [⟨id, d.now + 8 * offset, d.now, dest, ws, d.iss.slot.latch.getD 5, .waiting, false⟩] }

/-- The landing buffer is full (R31). -/
def Die.landingFull (d : Die) : Bool := Config.landEntries ≤ d.pipe.landings.length

/-- Earlier requests of a die that are not yet performed (R130). -/
def Pkg.unperformed (p : Pkg) (sock before : Nat) : Bool :=
  p.reqs.any fun r => r.sock == sock && r.id < before && r.stage != .performed

/-- What a release of a die waits for, among the requests below a number: stores, `RED` and strong writes that are not
yet acknowledged (R137, R263), ordinary loads that are not yet performed (R135, R136). -/
def Pkg.unacknowledged (p : Pkg) (sock before : Nat) : Bool :=
  p.reqs.any fun r => r.sock == sock && r.id < before && (r.kind == .store || r.kind == .red || r.kind == .atom ||
    r.kind == .cas || r.kind == .heap || r.kind == .kwr || (r.kind == .load && r.stage != .performed))

/-- Strong reads of a die below a number whose replies have not arrived in the landing buffer (R273). -/
def Pkg.strongReadsOut (p : Pkg) (sock before : Nat) : Bool :=
  p.reqs.any fun r => r.sock == sock && r.id < before && (r.kind == .atom || r.kind == .cas || r.kind == .heap)

/-- A refused store waits to be reported at the next bundle that waits for acknowledgement (R147). -/
def Die.mmexDue (d : Die) : Option TrapInfo :=
  d.ctl.refused.map fun (_, line, agent, count) =>
    ⟨0x14, BitVec.ofNat 64 (line * 128), BitVec.ofNat 64 (agent % 256 + 256 + count % 2 ^ 32 * 65536)⟩

end Sys2Proof.Machine
end

