-- ==== Sys2Proof/Machine/Operands.lean ====
section
/-! DEFINITION. Every operand form (R161, R221): registers, immediates, latches, stream input ports, and
the elements of vectors (R55, R167, R223). -/
namespace Sys2Proof.Machine

/-- The value of a scalar operand (R192). -/
def Die.src (d : Die) : SSrc → Word
  | .reg r => d.readS r
  | .imm i => i.signExtend 64
  | .latch q => (d.readQ q).setWidth 64

/-- A read of an invalid latch sets `STATUS.LATCH` (R49). -/
def Die.noteS (d : Die) : SSrc → Die
  | .latch q => d.noteLatch q
  | _ => d

/-- Read two scalar operands and run the rest with their values. -/
def withTwo (a b : SSrc) (s : State) (k : Word → Word → State → Out) : Out :=
  let d := s.here
  k (d.src a) (d.src b) (s.put ((d.noteS a).noteS b))

/-- Read one scalar operand. -/
def withOne (a : SSrc) (s : State) (k : Word → State → Out) : Out :=
  let d := s.here
  k (d.src a) (s.put (d.noteS a))

/-- Whether a type is floating, and its format. -/
def vFmt : VType → Option FFmt
  | .f32 => some .f32 | .bf16 => some .bf16 | .f16 => some .f16 | .e4m3 => some .e4m3
  | .e5m2 => some .e5m2 | _ => none

/-- The element width of a type (R223). -/
def vWidth : VType → Nat
  | .f32 | .i32 | .z32 => 32
  | .bf16 | .f16 | .i16 | .z16 => 16
  | .e4m3 | .e5m2 | .i8 | .z8 => 8

/-- A signed integer type. -/
def vSigned : VType → Bool
  | .i32 | .i16 | .i8 => true
  | _ => false

/-- Elements of a width in a register. -/
def count (w : Nat) : Nat := 16384 / w

/-- The elements of a register, lowest first (R55). -/
def elems (w : Nat) (v : Vec) : List Nat := (List.range (count w)).map fun e => v.toNat / 2 ^ (w * e) % 2 ^ w

/-- The number elements of a width form. -/
def packNat (w : Nat) : List Nat → Nat
  | [] => 0
  | x :: rest => x % 2 ^ w + 2 ^ w * packNat w rest

/-- A register of elements. -/
def pack (w : Nat) (l : List Nat) : Vec := BitVec.ofNat 16384 (packNat w l)

/-- An element repeated over a register. -/
def splat (w x : Nat) : Vec := pack w (List.replicate (count w) x)

/-- The pattern of an immediate in a type (R161): sign-extended, or converted exactly; one that E5M2 does not
hold (9, 11, 13, 15 and their negatives) to the nearest, ties to even. [DEDUCED, log 40] -/
def immPat (ty : VType) (i : BitVec 5) : Nat :=
  match vFmt ty with
  | none => patOf (vWidth ty) i.toInt
  | some f => (f.round .fixed (.ofInt i.toInt)).1

/-- A stream input port holds a vector that is present (R60). -/
def InPort.ready (x : InPort) (clk : Nat) : Option Vec :=
  match x.queue with
  | [] => none
  | (t, v) :: _ => if t ≤ clk then some v else none

/-- Vectors an arming sends in all. -/
def seqLength (cnt : List Nat) : Nat := cnt.foldl (· * ·) 1

/-- Pop a port: the read of the last vector drains it (R60). -/
def InPort.pop (x : InPort) : InPort :=
  let y := { x with queue := x.queue.tail, read := x.read + 1 }
  if y.read = seqLength y.cnt then { y with armed := false, drained := true } else y

/-- Read an input port, once for each bundle (R222): a port pipeline is held in handler state (R45); an
IDLE or DRAINED port is `ILLEGAL`; an ARMED port without a vector freezes (R34). -/
def withPort (j : BitVec 2) (s : State) (k : Vec → State → Out) : Out :=
  let d := s.here
  if d.handler then raiseIllegal s
  else match d.iss.popped.find? (·.1 == j.toNat) with
    | some e => k e.2 s
    | none =>
      match Store.get none d.tab.inp j.toNat with
      | none => raiseIllegal s
      | some x =>
        if x.drained ∨ ¬ x.armed then raiseIllegal s
        else match x.ready s.pkg.clk with
          | none => held s .port
          | some v => k v (s.put { d with
              tab.inp := Store.set none d.tab.inp j.toNat (some x.pop)
              iss.popped := d.iss.popped ++ [(j.toNat, v)] })

/-- Read a vector operand of a type. -/
def withV (ty : VType) (a : VSrc) (s : State) (k : Vec → State → Out) : Out :=
  match a with
  | .reg r => k (s.here.readV r) s
  | .imm i => k (splat (vWidth ty) (immPat ty i)) s
  | .latch q => k (s.here.readQ q) (s.put (s.here.noteLatch q))
  | .port j => withPort j s k

/-- A vector operand names a port that no read may name (R60, R222). -/
def portIllegal (s : State) : VSrc → Bool
  | .port j => s.here.handler || (!s.here.iss.popped.any (·.1 == j.toNat) &&
      !(Store.get none s.here.tab.inp j.toNat).any fun x => x.armed && !x.drained)
  | _ => false

/-- Read two vector operands; when the second may not be read, the first is not read either (R42). -/
def withVV (ty : VType) (a b : VSrc) (s : State) (k : Vec → Vec → State → Out) : Out :=
  if portIllegal s b then raiseIllegal s
  else withV ty a s fun x s1 => withV ty b s1 fun y s2 => k x y s2

/-- Read the source of an M slot. -/
def withM (a : MSrc) (s : State) (k : Vec → State → Out) : Out :=
  match a with
  | .reg r => k (s.here.readV r) s
  | .latch q => k (s.here.readQ q) (s.put (s.here.noteLatch q))
  | .port j => withPort j s k

/-- Bits of a mask spread over the 32-bit lanes they govern (R55). -/
def spread (m : Mask) : Vec :=
  if m = BitVec.allOnes 512 then BitVec.allOnes 16384
  else pack 32 ((List.range 512).map fun i => if m.getLsbD i then 0xFFFFFFFF else 0)

/-- Write the governed lanes of a value over another. -/
def merge (m : Mask) (new old : Vec) : Vec :=
  if m = BitVec.allOnes 512 then new
  else let x := spread m; (new &&& x) ||| (old &&& ~~~x)

/-- An element lies in an unmasked lane. -/
def unmasked (m : Mask) (w e : Nat) : Bool := m.getLsbD (w * e / 32)

end Sys2Proof.Machine
end

