-- ==== Sys2Proof/Machine/Flags.lean ====
section
/-! DEFINITION. Every flag computation: `STATUS` bits of results, statistics records (R73, R89, R223),
the rounding rule in force (R86). -/
namespace Sys2Proof.Machine

/-- The rule of `FPMODE` (R86). -/
def Die.rule (d : Die) : Rule := ⟨fieldAt d.sr.fpmode 0 2, d.sr.fpmode.getLsbD 2⟩

/-- The `STATUS` bit of each event code (R73): `FPINV`, `FPOVF`, `FPUNF`, `FPINX`, `FPDZ`, `SAT`,
`RCLAMP`, `ABSENT`. -/
def eventBit (ev : Nat) : Nat :=
  match ev with
  | 1 => 3 | 2 => 4 | 3 => 5 | 4 => 6 | 5 => 7 | 6 => 8 | 7 => 1 | _ => 9

/-- All the bits of some flags. -/
def orFlags (l : List (BitVec 10)) : BitVec 10 := l.foldl (· ||| ·) 0#10

/-- The first place and the count of a bit. -/
def firstCount (b : Nat) (l : List (BitVec 10)) : Option (Nat × Nat) :=
  let n := (l.filter (·.getLsbD b)).length
  if n = 0 then none else some (l.findIdx (·.getLsbD b), n)

/-- The statistics records of some flags by element (R73). [DEDUCED, log 27] -/
def Die.records (d : Die) (l : List (BitVec 10)) : List (BitVec 128) :=
  if orFlags l = 0#10 then []
  else ([1, 2, 3, 4, 5, 6]).filterMap fun ev =>
    (firstCount (eventBit ev) l).map fun x => d.statRecord ev x.1 x.2

/-- Flags of the elements that lie in unmasked lanes (R223). [DEDUCED, log 27] -/
def maskFlags (m : Mask) (w : Nat) (l : List (BitVec 10)) : List (BitVec 10) :=
  if m = BitVec.allOnes 512 then l
  else l.zipIdx.map fun x => if unmasked m w x.2 then x.1 else 0#10

/-- Schedule a vector result with the flags of its elements. -/
def Die.emitV (d : Die) (lat : Nat) (ws : Bool) (dest : Dest) (m : Mask) (v : Vec)
    (flags : List (BitVec 10)) : Die :=
  d.emit lat ws dest m v (orFlags flags) (d.records flags)

/-- A record joins the statistics queue when its event is enabled (R73, R74). -/
def Die.pushStat (d : Die) (r : BitVec 128) : Die :=
  if ¬ d.sr.staten.getLsbD (fieldAt r 16 8) then d
  else if Config.statQueue ≤ d.pipe.statq.length then { d with sr.statlost := d.sr.statlost + 1#64 }
  else { d with pipe.statq := d.pipe.statq ++ [r] }

/-- Bring a limit into the active copy of a shape register: the swap and its clamp (R61, R62). Its record (R73) has
`FIRST` 0 and `COUNT` 1. [DEDUCED, log 41] -/
def Die.swapShape (d : Die) (eng reg : Nat) : Die :=
  let key := eng * 4 + reg
  let d1 := { d with tab.shapeSel := Store.set false d.tab.shapeSel key (!Store.get false d.tab.shapeSel key) }
  let lim := d1.shape eng reg 4
  let bnd := d1.shape eng reg 5
  if bnd.toNat < lim.toNat then
    let shapes := Store.set 0#32 d1.tab.shape (shapeKey eng reg (d1.activeCopy eng reg) 4) bnd
    let d2 := { d1 with tab.shape := shapes }
    (d2.later (.rclamp eng reg lim)).pushStat (d2.statRecord 7 0 1)
  else d1

/-- `SW` of an engine instruction (R61). -/
def Die.swapIf (d : Die) (sw : Bool) (eng reg : Nat) : Die := if sw then d.swapShape eng reg else d

/-- Set a field of the active copy from the next cycle on (R249). -/
def Die.advanceField (d : Die) (eng reg field : Nat) (v : BitVec 32) : Die :=
  d.later (.cursor eng reg (d.activeCopy eng reg) field v)

end Sys2Proof.Machine
end

