-- ==== Sys2Proof/Machine/Context.lean ====
section
/-! DEFINITION. Context images: what a save keeps, the bytes it writes, what a restoration reads,
descheduling (R72, R355, R378-R382). -/
namespace Sys2Proof.Machine

/-- State that `YSAVE` marks dead reads as zero after resumption (R69, R72). -/
def Die.dropDead (d : Die) : Die :=
  let y := d.sr.ysave
  let accLive (k : Nat) : Bool := y.getLsbD (40 + 8 * (k / 2048) + k % 2048 / 256)
  let planeLive (n : Nat) : Bool :=
    y.getLsbD (36 + 2 * (n / 2) + (if Store.get false d.arr.planeSel (n / 2) = (n % 2 == 1) then 0 else 1))
  { d with
    arr.acc := d.arr.acc.filter fun e => accLive e.1
    arr.plane := d.arr.plane.filter fun e => planeLive (e.1 / 512)
    arr.scale := d.arr.scale.filter fun e => planeLive (e.1 / 32)
    arr.sp := d.arr.sp.filter fun e => y.getLsbD (e.1 / Config.mib) }

/-- The die clock the ports of a die are counted from: the trap's when a snapshot holds them (R43). -/
def Die.clockBase (d : Die) (clk : Nat) : Nat := (d.ctl.snapshot.map (·.clk)).getD clk

/-- Move the port times of a die. -/
def Die.movePorts (d : Die) (f : Nat → Nat) : Die :=
  let port (e : Nat × Option InPort) : Nat × Option InPort :=
    (e.1, e.2.map fun x => { x with from_ := f x.from_, queue := x.queue.map fun v => (f v.1, v.2) })
  { d with tab.inp := d.tab.inp.map port }

/-- Port times relative to the die clock, as a save keeps them, and back (R378, R382). -/
def Die.unclock (d : Die) (clk : Nat) : Die :=
  let b := d.clockBase clk
  let d1 := d.movePorts (· - b)
  { d1 with ctl.snapshot := d1.ctl.snapshot.map fun x => { x with clk := 0 } }

def Die.reclock (d : Die) (clk : Nat) : Die :=
  let d1 := d.movePorts (· + clk)
  { d1 with ctl.snapshot := d1.ctl.snapshot.map fun x => { x with clk := clk } }

/-- The die as an image keeps it: dead state gone, the monitor lost (R380), no caches. -/
def Die.frozenImage (d : Die) (clk : Nat) : Die :=
  { (d.dropDead.unclock clk) with cache := Caches.cold, iss := Issue.none, arr.ws := [], ctl.fetched := none, pipe.next := [] }

/-! The bytes of an image, over the pages it lies in. -/

/-- The 4 KiB pages of an image: whether each is in host memory, and its physical address. -/
abbrev Place := List (Bool × Nat)

/-- Pages of an image. -/
def ctxPages : Nat := Config.ctxSize / 4096

/-- An image at a physical address (R379). -/
def placeAt (a : Nat) : Place := (List.range ctxPages).map fun i => (false, a + 4096 * i)

/-- Where an offset of the image lies. -/
def Place.at (l : Place) (off : Nat) : Bool × Nat :=
  let e := l.getD (off / 4096) (false, 0)
  (e.1, e.2 + off % 4096)

/-- The offset of the image that an address holds. -/
def Place.offset (l : Place) (host : Bool) (a : Nat) : Option Nat :=
  let i := l.findIdx fun e => e.1 == host && e.2 / 4096 == a / 4096
  if i < l.length then some (4096 * i + a % 4096) else none

/-- The offset lies in a section. -/
def inSection (off n : Nat) : Option Nat → Bool
  | none => false
  | some o => off ≤ o && o < off + n

/-- Zero a section of an image. -/
def Pkg.clearAt (p : Pkg) (l : Place) (off n : Nat) : Pkg :=
  { p with
    mem := p.mem.filter fun c => !inSection off n (l.offset false c.1)
    host := p.host.filter fun c => !inSection off n (l.offset true c.1) }

/-- Write listed bytes of a section. -/
def Pkg.setAt (p : Pkg) (l : Place) (off : Nat) (bytes : List (Nat × Byte)) : Pkg :=
  bytes.foldl (fun p e => let a := l.at (off + e.1); p.setByte a.1 a.2 e.2) p

/-- The bytes of entries of a fixed size, at their places. -/
def spreadBytes (size : Nat) (l : List (Nat × Nat)) : List (Nat × Byte) :=
  l.flatMap fun e => (natBytes size e.2).zipIdx.map fun b => (size * e.1 + b.2, b.1)

/-- A section of an image: its offset, its size, the bytes that are not zero. -/
structure Section where
  off : Nat
  size : Nat
  bytes : List (Nat × Byte)
deriving DecidableEq, Repr

/-- Write the sections. -/
def Pkg.putSections (p : Pkg) (l : Place) (ss : List Section) : Pkg :=
  ss.foldl (fun p x => (p.clearAt l x.off x.size).setAt l x.off x.bytes) p

/-- Active and shadow planes in the order of R379. -/
def planeOrder (d : Die) : List Nat :=
  [0, 1].flatMap fun u => if Store.get false d.arr.planeSel u then [2 * u + 1, 2 * u] else [2 * u, 2 * u + 1]

/-- The done-slot mask of the wait bundle that the stream will enter again: in the snapshot when there is one (R43,
R379), and a mask put back. -/
def Die.doneMask (d : Die) : BitVec 10 :=
  match d.ctl.snapshot with
  | some x => x.done
  | none => d.ctl.waiting.getD 0#10

def Die.setDoneMask (d : Die) (m : BitVec 10) : Die :=
  match d.ctl.snapshot with
  | some x => { d with ctl.snapshot := some { x with done := m } }
  | none => { d with ctl.waiting := if m = 0#10 then none else some m }

/-- The header of an image (R379). -/
def imageHeader (d : Die) (ptime : Word) : List Byte :=
  natBytes 8 1 ++ natBytes 8 d.sr.kernid.toNat ++ natBytes 8 d.sr.regionid.toNat ++
    natBytes 8 d.sr.ysave.toNat ++ natBytes 8 ptime.toNat ++ natBytes 8 d.sr.spsize.toNat ++
    natBytes 8 d.doneMask.toNat

/-- Sections for the live parts of an array of entries. -/
def entrySections {w : Nat} (off size part : Nat) (live : Nat → Bool) (parts : Nat) (l : Store (BitVec w)) :
    List Section :=
  ((List.range parts).filter live).map fun i =>
    ⟨off + part * size * i, part * size,
      spreadBytes size ((l.filter fun e => e.1 / part == i).map fun e => (e.1 % part, e.2.toNat))⟩

/-- What a save writes (R72, R379); `free` gives the bytes of the regions whose arrangement belongs to
the image version. -/
def imageSections (d : Die) (ptime : Word) (free : Nat → Byte) : List Section :=
  let y := d.sr.ysave
  let freeBytes (lo n : Nat) : List (Nat × Byte) := (List.range n).map fun i => (i, free (lo + i))
  let zero : Nat × Byte → Bool := fun b => b.2 != 0#8
  let all : Nat → Bool := fun _ => true
  let head := (imageHeader d ptime).zipIdx.map fun b => (b.2, b.1)
  let plane (x : Nat × Nat) : List Section :=
    if y.getLsbD (36 + x.2) then
      let rows := d.arr.plane.filter fun e => e.1 / 512 == x.1
      let recs := d.arr.scale.filter fun e => e.1 / 32 == x.1
      [⟨0x5E000 + 294912 * x.2, 262144, spreadBytes 512 (rows.map fun e => (e.1 % 512, e.2.toNat))⟩,
       ⟨0x5E000 + 294912 * x.2 + 262144, 32768, spreadBytes 1024 (recs.map fun e => (e.1 % 32, e.2.toNat))⟩]
    else []
  let bank (b : Nat) : List Section :=
    if y.getLsbD b ∧ b * Config.mib < d.spsize then
      [⟨0x97E000 + b * Config.mib, Config.mib,
        (d.arr.sp.filter fun e => e.1 / Config.mib == b).map fun e => (e.1 % Config.mib, e.2)⟩]
    else []
  let base : List Section :=
    [⟨0, 4096, head.filter zero⟩, ⟨0x1000, 16384, (freeBytes 0 16384).filter zero⟩,
     ⟨0x29000, 131072, (freeBytes 16384 131072).filter zero⟩]
  base ++ entrySections 0x5000 2048 64 all 1 d.regs.v ++ entrySections 0x25000 2048 8 all 1 d.regs.q ++
    entrySections 0x49000 64 256 all 1 d.tab.tid ++ entrySections 0x4D000 64 64 all 1 d.tab.chan ++
    entrySections 0x4E000 2 32768 all 1 d.arr.ib ++ (planeOrder d).zipIdx.flatMap plane ++
    entrySections 0x17E000 2048 256 (fun g => y.getLsbD (40 + g)) 16 d.arr.acc ++
    (List.range 36).flatMap bank

/-- A line lies in the pages of an image. -/
def Place.has (l : Place) (line : Nat) : Bool := (l.offset (lineHost line) (lineAddr line)).isSome

/-- The lines of an image are written back wherever they are dirty: a read obtains the current data, unchecked, and leaves
their tags (R109, R143, R145). -/
def State.bringHome (s : State) (l : Place) : State :=
  (sockets.flatMap fun k => ((s.die k).cache.l1.map (·.1)).filter l.has).foldl (fun s n => s.cohere n) s

/-- The lines of an image that a save writes: their tag is published, of which R143 says nothing, and their monitors end
(R275). [DEDUCED, log 21] -/
def State.takeLines (s : State) (l : Place) : State :=
  let watched := sockets.filterMap fun k => (s.die k).cache.mon.filter l.has
  let s1 := (s.bringHome l).modPkg fun p => { p with
    tags := p.tags.filter fun e => !l.has e.1
    late := p.late.filter fun x => !l.has x.line }
  watched.foldl (fun s n => s.noteWrite none n) s1

/-- Write a die's image (R379). -/
def State.writeImage (s : State) (l : Place) (d : Die) : State :=
  let put (p : Pkg) : Pkg :=
    p.putSections l (imageSections d s.pkg.ptime fun i => Config.ctxByte (s.fresh + i))
  { ((s.takeLines l).modPkg put) with fresh := s.fresh + 147456 }

/-- Where an image lies. -/
def Image.place (i : Image) : Place := if i.pages = [] then placeAt i.addr else i.pages

/-- Keep an image of a kernel's die. Those saved before it stay known, wherever copies of their bytes may lie. -/
def Pkg.keepImage (p : Pkg) (i : Image) : Pkg := { p with images := p.images ++ [i] }

/-- A kernel leaves its die with its latest image; the wounds that are pending stay so, and flags that
have been set since are in Brocade's shadow (R324, R380). [DEDUCED, log 21] -/
def Pkg.leaveImage (p : Pkg) (sock kern : Nat) (live : Die) : Pkg :=
  let mine (i : Image) : Bool := i.kern == kern && i.sock == sock
  match (p.images.filter mine).getLast? with
  | none => p
  | some i =>
    let j : Image := { i with
      away := true, die.ctl.wounds := live.ctl.wounds
      flg := i.flg ||| live.sr.flg, flgerr := i.flgerr ||| live.sr.flgerr }
    { p with images := p.images.map fun x => if x == i then j else x }

/-- Save a die's context in the pages named (R355, R378, R379). -/
def State.saveContext (s : State) (sock : Nat) (l : Place) (byRuntime : Bool) : State :=
  let d := (s.die sock).frozenImage s.pkg.clk
  let i : Image := ⟨(l.at 0).2, if l = placeAt (l.at 0).2 then [] else l, byRuntime, sock, d.sr.kernid.toNat, d.sr.regionid.toNat, d, s.fresh, d.sr.flg, d.sr.flgerr, false, false⟩
  (s.writeImage l d).modPkg (·.keepImage i)

/-! Reading an image. -/

/-- The bytes of an image that are not zero, by offset. -/
def State.imageCells (s : State) (l : Place) : List (Nat × Byte) :=
  l.zipIdx.flatMap fun e =>
    ((if e.1.1 then s.pkg.host else s.pkg.mem).filter fun c => c.1 / 4096 == e.1.2 / 4096).map fun c =>
      (4096 * e.2 + c.1 % 4096, c.2)

/-- The number some bytes of an image hold. -/
def cellsNat (cells : List (Nat × Byte)) (off n : Nat) : Nat :=
  cells.foldl (fun v c => if off ≤ c.1 ∧ c.1 < off + n then v + c.2.toNat * 256 ^ (c.1 - off) else v) 0

/-- Entries of a fixed size. -/
def readEntries (w : Nat) (cells : List (Nat × Byte)) (off size : Nat) (keys : List (Nat × Nat)) :
    Store (BitVec w) :=
  keys.foldl (fun m k => Store.set 0 m k.2 (BitVec.ofNat w (cellsNat cells (off + size * k.1) size))) []

/-- Entries in order from key 0. -/
def plainKeys (n : Nat) : List (Nat × Nat) := (List.range n).map fun i => (i, i)

/-- The header of an image agrees with a die, and its reserved fields are zero (R355). [DEDUCED, log 29] -/
def headerOk (cells : List (Nat × Byte)) (kern region : Nat) : Bool :=
  cellsNat cells 0 8 == 1 && cellsNat cells 8 8 == kern && cellsNat cells 16 8 == region &&
    cellsNat cells 24 8 < 2 ^ 56 && cellsNat cells 40 8 < 2 ^ 26 && cellsNat cells 48 8 < 2 ^ 10 &&
    cellsNat cells 56 4040 == 0

/-- The saved image that wrote the free bytes found here. -/
def State.imageHere (s : State) (cells : List (Nat × Byte)) : Option Image :=
  let agrees (i : Image) (off lo n : Nat) : Bool :=
    (List.range n).all fun k => cellsNat cells (off + k) 1 == (Config.ctxByte (i.base + lo + k)).toNat
  s.pkg.images.find? fun i => agrees i 0x1000 0 16384 && agrees i 0x29000 16384 131072

/-- A die as an image in memory gives it: the regions that R379 lays out from their bytes, the rest as
saved (R355, R382). -/
def imageDie (cells : List (Nat × Byte)) (i : Image) : Die :=
  let size := cellsNat cells 40 8
  let d := i.die.setDoneMask (BitVec.ofNat 10 (cellsNat cells 48 8))
  let order := (planeOrder d).zipIdx
  let rowKeys := order.flatMap fun x => (List.range 512).map fun r => (576 * x.2 + r, 512 * x.1 + r)
  let recKeys := order.flatMap fun x => (List.range 32).map fun g => (288 * x.2 + 256 + g, 32 * x.1 + g)
  let scratch : Store Byte := (cells.filter fun c => 0x97E000 ≤ c.1 && c.1 < 0x97E000 + size).map fun c =>
    (c.1 - 0x97E000, c.2)
  ({ d with
    regs.v := readEntries 16384 cells 0x5000 2048 (plainKeys 64)
    regs.q := readEntries 16384 cells 0x25000 2048 (plainKeys 8)
    tab.tid := readEntries 512 cells 0x49000 64 (plainKeys 256)
    tab.chan := readEntries 512 cells 0x4D000 64 (plainKeys 64)
    arr.ib := readEntries 16 cells 0x4E000 2 (plainKeys 32768)
    arr.plane := readEntries 4096 cells 0x5E000 512 rowKeys
    arr.scale := readEntries 8192 cells 0x5E000 1024 recKeys
    arr.acc := readEntries 16384 cells 0x17E000 2048 (plainKeys 4096)
    arr.sp := scratch
    sr.ysave := BitVec.ofNat 56 (cellsNat cells 24 8)
    sr.spsize := BitVec.ofNat 26 size }).dropDead

/-- What stays of a die when another context replaces its own: the K bank, the runtime's registers and
bank, the weight store, the caches (R345, R355, R400). -/
def Die.keepRuntime (old new : Die) : Die :=
  { new with
    regs.kbs := old.regs.kbs, regs.kbp := old.regs.kbp
    sr.kvec := old.sr.kvec, sr.freezemax := old.sr.freezemax, sr.msel := old.sr.msel
    arr.rbank := old.arr.rbank, arr.rdict := old.arr.rdict, arr.rdictN := old.arr.rdictN
    arr.ws := old.arr.ws, arr.dict := old.arr.dict, arr.dictN := old.arr.dictN
    cache := old.cache, iss := old.iss }

/-- The saved point of an image that the pre-emption save wrote: what was in flight, and the bundle to be resumed, as
a trap there would keep them (R43, R355, R378). [DEDUCED, log 21] -/
def Die.savedPoint (d : Die) (clk : Nat) : Die :=
  if d.handler then d
  else { d with
    sr.tepc := BitVec.ofNat 15 d.ctl.pc, ctl.snapshot := some (d.takeSnapshot clk)
    ctl.transfer := none, ctl.waiting := none, ctl.popped := [], ctl.switch := false, ctl.dskip := false
    pipe.due := [], pipe.landings := [] }

/-- `CTXRS` (R355): the kernel's state is the image's, the running code is still the runtime's. -/
def Die.adopt (old : Die) (new : Die) (clk : Nat) : Die :=
  let d0 := old.keepRuntime ((new.reclock clk).savedPoint clk)
  let d : Die := { d0 with
    ctl := { old.ctl with
      bank := d0.ctl.bank, loops := d0.ctl.loops, snapshot := d0.ctl.snapshot, yieldCount := d0.ctl.yieldCount
      refused := d0.ctl.refused, dataErr := d0.ctl.dataErr } }
  let back (x : Nat) : Nat := x - old.now + d.now
  { d with
    sr.kstat := old.sr.kstat
    pipe.due := old.pipe.due.map fun x => { x with land := back x.land, issue := back x.issue }
    pipe.landings := old.pipe.landings.map fun x => { x with land := back x.land, issue := back x.issue }
    pipe.next := old.pipe.next }

/-- The image and the backlog ring of a kernel that leaves a die are charged to `HBM`, when the charge fits (R362,
R379, R381). -/
def State.chargeImage (s : State) (sock : Nat) (l : Launch) : State :=
  let n := s.imageCharge l.rcb
  if s.fits .hbm l.rcb n then
    let mark (i : Image) : Image := if i.away && i.kern == l.id && i.sock == sock then { i with charged := true } else i
    (s.modPkg fun p => { p with images := p.images.map mark }).charge .hbm l.rcb n
  else s

/-- A die leaves its descheduled kernel: its share of the charge returns, its requests end, its engines
run on; with its last die the kernel is queued again with its age (R370, R378, R380, R382). [DEDUCED, log 21] -/
def State.deschedule (s : State) (sock : Nat) : State :=
  let kern := (s.die sock).sr.kernid.toNat
  let live := s.die sock
  let s1 := ((s.modDie sock fun d => (d.stop 0#16).loseMonitor).modPkg fun p =>
    (p.dropReqsWhere fun r => r.sock == sock && r.kern == kern && !r.kind.writes).leaveImage sock kern live).promoteFaults
  match s1.pkg.launch kern with
  | none => s1
  | some l =>
    let l1 := { l with
      running := l.running.filter (· != sock), saved := l.saved ++ [sock]
      runnable := some s.pkg.ptime.toNat }
    (((s1.modPkg (·.putLaunch l1)).discharge .dies l.rcb 1).chargeImage sock l).leftDies l1

end Sys2Proof.Machine
end

