-- ==== Sys2Proof/Machine/Tensor.lean ====
section
/-! DEFINITION. Tensor identifier entries as engines read them: fields, checks, element and scale addresses
(R64, R65, R83, R115, R116); the elements that a copy moves. -/
namespace Sys2Proof.Machine

/-- A tensor entry as an engine reads it at issue (R65). -/
def Die.tensorRead (d : Die) (id : Nat) : Tensor :=
  ⟨id, d.tensor id, if id < 255 then d.tensor (id + 1) else 0#512⟩

/-- The fields of an entry (R64). -/
def Tensor.fmt (t : Tensor) : Nat := fieldAt t.bits 0 5
def Tensor.rank (t : Tensor) : Nat := fieldAt t.bits 5 4
def Tensor.loc (t : Tensor) : Nat := fieldAt t.bits 9 3
def Tensor.sblk (t : Tensor) : Nat := fieldAt t.bits 12 3
def Tensor.base (t : Tensor) : Nat := fieldAt t.bits 16 57
def Tensor.scoff (t : Tensor) : Int := sextInt (fieldAt t.bits 73 40) 40

/-- Extent and stride of a dimension; 7 and above lie in the continuation entry. -/
def Tensor.ext (t : Tensor) (i : Nat) : Nat :=
  if i < 7 then fieldAt t.bits (120 + 56 * i) 24 else fieldAt t.cont (120 + 56 * (i - 7)) 24
def Tensor.str (t : Tensor) (i : Nat) : Int :=
  if i < 7 then sextInt (fieldAt t.bits (144 + 56 * i) 32) 32
  else sextInt (fieldAt t.cont (144 + 56 * (i - 7)) 32) 32

/-- The extents and strides of the dimensions below the rank. -/
def Tensor.exts (t : Tensor) : List Nat := (List.range t.rank).map t.ext
def Tensor.strs (t : Tensor) : List Int := (List.range t.rank).map t.str

/-- An assigned format that is no continuation mark (R64). -/
def fmtAssigned (f : Nat) : Bool := f ≤ 0x0E

/-- The entry at the next id is a continuation whose other fields are zero (R64). -/
def Tensor.contOk (t : Tensor) : Bool := t.id < 255 && fieldAt t.cont 0 5 == 0x1F && fieldAt t.cont 5 115 == 0

/-- The checks of R65: `BADTID` when false. -/
def Tensor.ok (t : Tensor) : Bool :=
  fmtAssigned t.fmt && t.loc < 4 && t.rank ≤ 14 && (t.rank ≤ 7 || t.contOk) &&
    !t.bits.getLsbD 15 && fieldAt t.bits 113 7 == 0

/-- Bytes of an element (R115); 0 for E2M1S, whose elements are nibbles. -/
def elemBytes (fmt : Nat) : Nat :=
  match fmt with
  | 3 => 1 | 4 => 1 | 6 => 1 | 10 => 1 | 14 => 1
  | 1 => 2 | 2 => 2 | 9 => 2 | 13 => 2
  | 0 => 4 | 8 => 4 | 12 => 4
  | 11 => 8 | 7 => 8
  | _ => 0

/-- The checks of R115 and R83 on strides, extents and blocks. -/
def Tensor.stridesOk (t : Tensor) : Bool :=
  let n := elemBytes t.fmt
  let dims := t.exts.zip t.strs
  let aligned := n = 0 || (t.base % n == 0 && dims.all fun x => x.1 ≤ 1 || x.2 % (n : Int) == 0)
  let blocks := t.fmt != 5 || (t.sblk == 2 && t.str 0 == 16 && t.ext 0 % 32 == 0)
  aligned && blocks && t.exts.all (· != 0)

/-- A sum of products of coordinates and strides. -/
def strideSum : List Nat → List Int → Int
  | i :: is, s :: ss => (i : Int) * s + strideSum is ss
  | _, _ => 0

/-- The address of an element (R115); for E2M1S the byte that holds its nibble. -/
def Tensor.addr (t : Tensor) (ix : List Nat) : Int :=
  if t.fmt = 5 then
    match ix with
    | [] => t.base
    | i :: rest => (t.base : Int) + t.str 0 * (i / 32 : Nat) + (i % 32 / 2 : Nat) + strideSum rest (t.strs.drop 1)
  else (t.base : Int) + strideSum ix t.strs

/-- Elements of a scale block (R64). -/
def Tensor.block (t : Tensor) : Nat := 2 ^ (t.sblk + 3)

/-- The dense index of coordinates above dimension 0 (R116). -/
def denseIndex : List Nat → List Nat → Nat
  | e :: es, i :: is => i + e * denseIndex es is
  | _, _ => 0

/-- The index of an element's scale (R116). -/
def Tensor.scaleIndex (t : Tensor) (ix : List Nat) : Nat :=
  let b := t.block
  match ix with
  | [] => 0
  | i :: rest => i / b + (t.ext 0 + b - 1) / b * denseIndex (t.exts.drop 1) rest

/-- The address of an element's scale record and its bytes (R116). -/
def Tensor.scaleAddr (t : Tensor) (ix : List Nat) : Int × Nat :=
  if t.fmt = 5 then ((t.base : Int) + t.scoff + 2 * t.scaleIndex ix, 2)
  else ((t.base : Int) + t.scoff + t.scaleIndex ix, 1)

/-! The descriptor of a copy and the places of its moves (R117, R119, R120). -/

def CopyJob.rank (c : CopyJob) : Nat := fieldAt c.desc 16 4
def CopyJob.remote (c : CopyJob) : Bool := c.desc.getLsbD 29
def CopyJob.rdim (c : CopyJob) : Nat := fieldAt c.desc 40 5
def CopyJob.stat (c : CopyJob) : Nat := fieldAt c.desc 48 26
def CopyJob.ext (c : CopyJob) (k : Nat) : Nat := fieldAt c.desc (128 + 24 * k) 24
def CopyJob.sperm (c : CopyJob) (k : Nat) : Nat := fieldAt c.desc (464 + 4 * k) 4
def CopyJob.dperm (c : CopyJob) (k : Nat) : Nat := fieldAt c.desc (520 + 4 * k) 4
def CopyJob.soff (c : CopyJob) (k : Nat) : Int := sextInt (fieldAt c.desc (576 + 16 * k) 16) 16
def CopyJob.doff (c : CopyJob) (k : Nat) : Int := sextInt (fieldAt c.desc (800 + 16 * k) 16) 16

/-- The elements are E2M1S blocks of 32 (R119). -/
def CopyJob.blocks (c : CopyJob) : Bool := c.src.fmt == 5

/-- The iteration extents; dimension 0 of E2M1S counts blocks (R119). -/
def CopyJob.exts (c : CopyJob) : List Nat :=
  (List.range c.rank).map fun k => if c.blocks ∧ k = 0 then c.ext 0 / 32 else c.ext k

/-- Elements the copy moves. -/
def CopyJob.total (c : CopyJob) : Nat := c.exts.foldl (· * ·) 1

/-- The iteration indices of the m-th move, index 0 fastest. -/
def CopyJob.index (c : CopyJob) (m : Nat) : List Nat :=
  match coordsOf c.exts m with
  | [] => []
  | i :: rest => (if c.blocks then 32 * i else i) :: rest
where
  /-- Indices in iteration order. -/
  coordsOf : List Nat → Nat → List Nat
    | [], _ => []
    | e :: rest, i => i % e :: coordsOf rest (i / e)

/-- An index clamped to an extent. -/
def clampTo (x : Int) (ext : Nat) : Nat := (max 0 (min x ((ext : Int) - 1))).toNat

/-- A coordinate of a dimension; along dimension 0 of E2M1S it steps in whole blocks (R119). -/
def CopyJob.coord (c : CopyJob) (k : Nat) (x : Int) (ext : Nat) : Nat :=
  let i := clampTo x ext
  if c.blocks ∧ k = 0 then i / 32 * 32 else i

/-- The source and destination coordinates of a move (R119). -/
def CopyJob.srcAt (c : CopyJob) (ix : List Nat) : List Nat :=
  (List.range c.src.rank).map fun k => c.coord k ((ix.getD (c.sperm k) 0 : Nat) + c.soff k) (c.src.ext k)

def CopyJob.dstAt (c : CopyJob) (ix : List Nat) : List Nat :=
  (List.range c.rank).map fun k => c.coord k ((ix.getD (c.dperm k) 0 : Nat) + c.doff k) (c.dst.ext k)

/-- The places of an element (R115, R116, R120): one aligned piece; for E2M1S the bytes of its codes and of
its scale record, one by one. -/
def Tensor.pieces (t : Tensor) (ix : List Nat) : List (Int × Nat) :=
  if t.fmt = 5 then
    let a := t.addr ix
    let (b, n) := t.scaleAddr ix
    ((List.range 16).map fun (i : Nat) => (a + i, 1)) ++ (List.range n).map fun (i : Nat) => (b + i, 1)
  else [(t.addr ix, elemBytes t.fmt)]

end Sys2Proof.Machine
end

