-- ==== Sys2Proof/Machine/Control.lean ====
section
/-! DEFINITION. The C slot (chapter 09, R349): transfers, loops, waits, banks, traps, the end of a
kernel. -/
namespace Sys2Proof.Machine

/-- The bundle ends the stream's stay: no sequencing follows it. -/
def leave (s : State) : Out := .next (s.setIss fun i => { i with leaves := true })

/-- A C-slot operation that no wait bundle may hold (R160). -/
def unlessWait (p : BitVec 5) (s : State) (k : State → Out) : Out :=
  if s.here.iss.wait then raiseIllegal s else guarded p s k

/-- A C-slot operation that no delay bundle may hold either (R212). -/
def unlessDelay (p : BitVec 5) (s : State) (k : State → Out) : Out :=
  unlessWait p s fun s => if s.here.iss.delay then raiseIllegal s else k s

/-- Begin a transfer with two delay bundles (R50). -/
def transferTo (target : Nat) (swap : Bool) (s : State) : Out :=
  .next (s.mod fun d => { d with ctl.transfer := some ⟨target, 3, swap⟩ })

/-- A relative target in range, or `ILLEGAL` (R211, R344). -/
def relative (o : Int) (s : State) (k : Nat → State → Out) : Out :=
  let t := (s.here.ctl.pc : Int) + o
  let top : Int := if s.here.inK then 4096 else 32768
  if t < 0 ∨ top ≤ t then raiseIllegal s else k t.toNat s

/-- `CNOP` (R190). -/
def execCnop (p : BitVec 5) (s : State) : Out := guarded p s .next

/-- `BR` (R211). -/
def execBr (p : BitVec 5) (o : BitVec 21) (s : State) : Out :=
  unlessDelay p s fun s => relative o.toInt s fun t s => transferTo t false s

/-- `JMP` (R211). -/
def execJmp (p : BitVec 5) (r : BitVec 6) (s : State) : Out :=
  unlessDelay p s fun s => transferTo (bitsAt (s.here.readS r).toNat 0 15) false s

/-- The index address of the bundle after the two delay bundles, in code order (R50). -/
def State.returnAddress (s : State) : Nat × State :=
  let a := s.here.iss.nextPc
  let (n, s1) := s.wordsAt a
  let (m, s2) := s1.wordsAt (a + n)
  (a + n + m, s2)

/-- `CALL` (R50, R211): `s1` at t + 1. -/
def execCall (p : BitVec 5) (o : BitVec 21) (s : State) : Out :=
  unlessDelay p s fun s => relative o.toInt s fun t s =>
    transferTo t false (s.returnAddress.2.mod fun d => d.emitS 1 false 1#6 (BitVec.ofNat 64 s.returnAddress.1) 0#10)

/-- `RET` (R211). -/
def execRet (p : BitVec 5) (s : State) : Out :=
  unlessDelay p s fun s => transferTo (bitsAt (s.here.readS 1#6).toNat 0 15) false s

/-- The end bundle of a loop, in the bank of the `LOOP` (R213, R214). -/
def loopEnd (e : BitVec 12) (s : State) (k : Nat → State → Out) : Out :=
  let a := s.here.ctl.pc + e.toNat
  if a / 16384 ≠ s.here.ctl.pc / 16384 then raiseIllegal s else k a s

/-- Entry of a `LOOP` sets the stage predicates (R53). -/
def Die.stagePreds (d : Die) (some_ : Bool) : Die :=
  (List.range 8).foldl (fun d i =>
    d.later (.pred (rotated 8 8 d.sr.rotbase.toNat (8 + i)) (i == 0 && some_))) d

/-- Go past the end bundle (R51, R214). -/
def State.skipBody (s : State) (last : Nat) : State :=
  (s.wordsAt last).2.setIss fun i => { i with nextPc := last + (s.wordsAt last).1 }

/-- `LOOP` (R51, R53, R213). -/
def execLoop (p : BitVec 5) (r : BitVec 6) (stages : BitVec 3) (e : BitVec 12) (s : State) : Out :=
  unlessDelay p s fun s =>
    if s.here.handler then raiseIllegal s
    else loopEnd e s fun last s =>
      let d := s.here
      let n := (d.readS r).toNat
      if 2 ^ 60 ≤ n ∨ (n ≠ 0 ∧ 4 ≤ d.ctl.loops.length) then raiseIllegal s
      else if n = 0 then .next ((s.put (d.stagePreds false)).skipBody last)
      else
        let l : Loop := ⟨false, d.iss.nextPc, last, n + stages.toNat, stages.toNat, n, 0⟩
        .next (s.put { (d.stagePreds true) with ctl.loops := l :: d.ctl.loops })

/-- `BLOOP` (R214). -/
def execBloop (p : BitVec 5) (r : BitVec 6) (e : BitVec 12) (s : State) : Out :=
  unlessDelay p s fun s =>
    if s.here.handler then raiseIllegal s
    else loopEnd e s fun last s =>
      let d := s.here
      let t := (d.readS r).toNat
      if 4 ≤ d.ctl.loops.length then raiseIllegal s
      else if t % 8 ≠ 0 then raiseAlign s t
      else
        let d1 := d.noteOob t 8
        if d1.tableCount t = 0 then .next ((s.put d1).skipBody last)
        else
          let l : Loop := ⟨true, d.iss.nextPc, last, 1, 0, t, 0⟩
          .next (s.put { (d1.loadEntry t 0) with ctl.loops := l :: d.ctl.loops })

/-- The slot of a wait bundle is not done (R37). -/
def notDone (s : State) : Out := .next (s.setIss fun i => { i with undone := true })

/-- `WAIT` (R215). -/
def execWait (p : BitVec 5) (r : BitVec 6) (all : Bool) (s : State) : Out :=
  if ¬ s.here.iss.wait then raiseIllegal s
  else
    let d := s.here
    let m : BitVec 32 := (d.readS r).setWidth 32 ||| (1#32 <<< p.toNat)
    let done := if all then d.sr.flg &&& m == m else d.sr.flg &&& m != 0#32
    if done then .next s else notDone s

/-- `BRF` (R211). -/
def execBrf (p : BitVec 5) (f : BitVec 5) (sense : Bool) (o : BitVec 15) (s : State) : Out :=
  unlessDelay p s fun s =>
    relative o.toInt s fun t s =>
      let s1 := s.mod fun d => d.observe (d.sr.flg &&& 1#32 <<< f.toNat)
      if s.here.sr.flg.getLsbD f.toNat = sense then transferTo t false s1 else .next s1

/-- `BRSW` (R211, R218): the target lies in the idle bank. -/
def execBrsw (p : BitVec 5) (a : BitVec 15) (s : State) : Out :=
  unlessDelay p s fun s =>
    if s.here.handler ∨ decide (16384 ≤ a.toNat) = s.here.ctl.bank then raiseIllegal s
    else transferTo a.toNat true s

/-- The words that stay uncertain after an `IFENCE`: those written by copies that have not been observed complete,
unless an observed copy has written them later (R217). [DEDUCED, log 17] -/
def uncertain (sure : List Nat) : List OldWord → List OldWord
  | [] => []
  | x :: rest =>
    if x.seen then uncertain (x.word :: sure) rest
    else if sure.contains x.word then uncertain sure rest
    else x :: uncertain sure rest

/-- `IFENCE` (R217): the words that copies observed complete have written are certain from here on.
[DEDUCED, log 17] -/
def execIfence (p : BitVec 5) (s : State) : Out :=
  unlessWait p s fun s => .next (s.mod fun d => { d with arr.ibOld := uncertain [] d.arr.ibOld })

/-- `TRAP` (R42, R219): its bundle commits, and the trap is taken at the next bundle. -/
def execTrap (p : BitVec 5) (c : BitVec 16) (s : State) : Out :=
  unlessWait p s fun s =>
    let s1 := endCycle s
    leave (takeTrapAt (s.pkg.clk + 1) s1 ⟨1, c.setWidth 64, 0#64⟩ Slot.c.bit s1.here.ctl.pc)

/-- `TRET` (R46). [DEDUCED, log 16] -/
def execTret (p : BitVec 5) (s : State) : Out :=
  unlessDelay p s fun s =>
    if s.here.handler then leave ((endCycle s).mod (·.comeBack s.pkg.clk false)) else raiseIllegal s

/-- An engine operation of the running kernel is outstanding (R220). -/
def State.outstanding (s : State) : Bool :=
  s.pkg.engines.any fun e => e.sock == s.cur && e.kern == s.here.sr.kernid.toNat && !e.orphan

/-- The scope that a release covers: `.sub` is `.pkg` when the subcube lies in one package (R127). -/
def Die.scope (d : Die) (scope : Nat) : Nat :=
  if scope = 4 ∧ d.sr.scmask.toNat / 16 = 0 then 2 else scope

/-- An exchange send or remote copy that has not delivered its data (R137): a ring step's send half may have, while its
receive half goes on. [DEDUCED, log 31] -/
def Engine.sending (e : Engine) : Bool :=
  match e.stage with
  | .decided _ _ => false
  | _ => match e.job with
    | .exchange x => x.opcode != 6 && x.opcode != 8 && !x.res.sent
    | .copy c => c.remote
    | _ => false

/-- A kernel's exchange send or remote copy on a socket, below a number, has not delivered its data (R137). -/
def Pkg.sentBefore (p : Pkg) (sock kern before : Nat) : Bool :=
  p.engines.any fun e => e.sock == sock && e.kern == kern && e.id < before && e.sending

/-- A page of package or host memory that an address translates to is behind the bridge. -/
def State.behindBridge (s : State) (part : Nat) (a : Int) : Bool :=
  match s.walk part a with
  | .ok (ph, _) => ph.host
  | .error _ => false

/-- A copy still writes through the bridge: a move that is left has a destination in host memory (R137). -/
def State.bridging (s : State) (e : Engine) : Bool :=
  match e.stage, e.job with
  | .decided _ _, _ => false
  | _, .copy c => c.inside && !c.remote && c.dst.loc == 0 && (List.range c.total).any fun m =>
      e.prog.moved ≤ m && (c.dst.pieces (c.dstAt (c.index m))).any fun x => s.behindBridge e.part x.1
  | _, _ => false

/-- Engine operations of a kernel below a number that a release at a scope waits for (R137): sends and remote copies from
`.brd` on, and at `.host` local copies through the bridge too. -/
def State.enginesOut (s : State) (sock kern before scope : Nat) : Bool :=
  (3 ≤ scope && s.pkg.sentBefore sock kern before) ||
    (scope == 7 && s.pkg.engines.any fun e => e.sock == sock && e.kern == kern && e.id < before && s.bridging e)

/-- What a release of the acting die's bundle at a scope waits for (R137, R263). -/
def State.releaseWaits (s : State) (scope : Nat) : Bool :=
  s.pkg.unacknowledged s.cur s.here.iss.first ||
    s.enginesOut s.cur s.here.sr.kernid.toNat s.here.iss.first scope

/-- Perform a release of the stream, freezing until it is complete; a refused store takes `MMEX` there,
and an error that a store met ends the stream (R137, R147, R263, R401). Below `.pkg` nothing is awaited.
[DEDUCED, log 18; DEDUCED, log 29] -/
def releaseThen (scope : Nat) (mmex : Bool) (s : State) (k : State → Out) : Out :=
  let d := s.here
  let e := d.scope scope
  if e < 2 ∨ d.ctl.released then k s
  else if s.releaseWaits e then held s .release
  else match d.ctl.dataErr with
    | some a => leave (s.regionFault s.cur 4 0#16 a.toNat)
    | none => match if mmex then d.mmexDue else none with
      | some t => raise (s.put { d with ctl.refused := none }) t.cause t.info0 t.info1
      | none =>
        let t := s.release s.cur
        match t.here.ctl.dataErr with
        | some a => leave (t.regionFault t.cur 4 0#16 a.toNat)
        | none => k t

/-- A freeze of `HALT` for its release keeps what its earlier steps did (R220). -/
def Hold.ofHalt : Hold → Hold
  | .release => .ending
  | h => h

/-- Step 2 of `HALT` (R220): an open transaction ends as `LKABT` would end it, which is a release at `.pkg` first (R328,
R133). -/
def quitLocks (s : State) (k : State → Out) : Out :=
  let kern := s.here.sr.kernid.toNat
  match s.pkg.garnet.txnAt s.cur kern with
  | none => k s
  | some _ => releaseThen 2 false s fun s =>
      k ((s.abortLocks s.cur kern).mod fun d => { d with ctl.releasing := false, ctl.released := false })

/-- The end of the kernel on the die: the accesses of `HALT`'s own bundle that write are performed (R220). -/
def State.halt (s : State) (st : BitVec 16) : State :=
  let s1 := endCycle s
  let kern := s1.here.sr.kernid.toNat
  let reads (r : Req) : Bool := r.sock == s1.cur && r.kern == kern && !r.kind.writes
  ((s1.modDie s1.cur (·.stop st)).modPkg (·.dropReqsWhere reads)).dieEnded s1.cur kern 0 st true

/-- `HALT` (R220): steps 1-3, then the release, then the end of the kernel on the die. -/
def execHalt (p : BitVec 5) (st : BitVec 16) (s : State) : Out :=
  unlessWait p s fun s =>
    if s.outstanding then raiseIllegal s
    else
      let o := quitLocks (s.quitFlight s.cur) fun s =>
        releaseThen 5 true (s.quitBarriers s.cur) fun s => leave (s.halt st)
      match o with
      | .next t => .next (t.setIss fun i => { i with hold := i.hold.map Hold.ofHalt })
      | o => o

/-- A user trap falls due (R216, R324). -/
def Die.userDue (d : Die) : Bool := !d.ctl.wounds.isEmpty && d.sr.umask.getLsbD 1 && !d.handler

/-- The wait of an `MWAIT` or a `SLEEPT` would end (R216). -/
def Die.sleepOver (d : Die) : Bool :=
  d.userDue || d.ctl.preempt ||
    match d.ctl.sleep with
    | .none => true
    | .monitor left => left == 0 || d.sr.monstat.getLsbD 1 || d.sr.monstat.getLsbD 2
    | .flags old => d.sr.flg &&& ~~~old != 0#32

/-- A sleep that has just begun, or goes on in a wait bundle (R37, R216). -/
def sleeping (p : BitVec 5) (start : Sleep) (s : State) : Out :=
  let d := s.here
  let d1 := if d.ctl.sleep = .none then { d with ctl.sleep := start } else d
  let ended := d1.sleepOver || (d.iss.wait && d.sr.flg.getLsbD p.toNat)
  if ended then .next (s.put { d1 with ctl.sleep := .none })
  else if d.iss.wait then notDone (s.put d1)
  else .next (s.put d1)

/-- `MWAIT` (R216). -/
def execMwait (p : BitVec 5) (r : BitVec 6) (s : State) : Out :=
  let d := s.here
  let left := if d.sr.monstat.getLsbD 0 then (d.readS r).toNat else 0
  if d.iss.wait ∨ d.predicate p then sleeping p (.monitor left) s else .next s

/-- `SLEEPT` (R216). -/
def execSleept (p : BitVec 5) (s : State) : Out :=
  let d := s.here
  if d.iss.wait ∨ d.predicate p then sleeping p (.flags d.sr.flg) s else .next s

/-- `KCALL` (R219): taken at issue; the stream resumes at the next bundle in sequence. It stands alone
in its bundle, whatever its predicate. -/
def execKcall (p : BitVec 5) (s : State) : Out :=
  if s.here.iss.shared then raiseIllegal s
  else unlessWait p s fun s =>
    let s1 := s.mod fun d => d.advance d.iss.nextPc
    leave (takeTrap s1 ⟨0x17, 0#64, 0#64⟩ Slot.c.bit s1.here.ctl.pc)

/-- `BRKPT` (R219). -/
def execBrkpt (p : BitVec 5) (s : State) : Out := unlessWait p s fun s => raise s 0x18 0#64 0#64

/-- A privileged C-slot opcode, which no wait bundle may hold (R160, R171, R190). -/
def kernelOnly (p : BitVec 5) (bad : Bool) (s : State) (k : State → Out) : Out :=
  if s.here.iss.wait then raiseIllegal s else privileged p bad s k

/-- `ERET` (R348). -/
def execEret (p : BitVec 5) (s : State) : Out :=
  kernelOnly p s.here.iss.delay s fun s => leave ((endCycle s).mod (·.comeBack s.pkg.clk true))

/-- `KSTOP.kill` (R349). -/
def execKstopKill (p : BitVec 5) (st : BitVec 16) (s : State) : Out :=
  kernelOnly p false s fun s => leave ((endCycle s).killStream s.cur st)

/-- `KSTOP.fault` (R349, R394). -/
def execKstopFault (p : BitVec 5) (st : BitVec 16) (s : State) : Out :=
  kernelOnly p false s fun s => leave (s.regionFault s.cur 6 st 0)

/-- `KSTOP.desched` (R349, R380): from the image that `CTXSV` wrote. -/
def execKstopDesched (p : BitVec 5) (st : BitVec 16) (s : State) : Out :=
  kernelOnly p (!s.here.sr.kstat.getLsbD 6) s fun s =>
    leave ((s.deschedule s.cur).modDie s.cur fun d => { d with ctl.endStatus := st })

end Sys2Proof.Machine
end

