-- ==== Sys2Proof/Machine/Privileged.lean ====
section
/-! DEFINITION. The privileged S slots (chapter 18): the Brocade control space, context save and restore,
translations, lock matrices, routes (R353-R359). -/
namespace Sys2Proof.Machine

/-- An object of the control space (R353). -/
inductive Obj where
  | die (sock : Nat)
  | pair (q : Nat)
  | counter (c : Nat)
  | barrier (b : Nat)
deriving DecidableEq, Repr

/-- The object of an index. [DEDUCED, log 29] -/
def objOf (i : Nat) : Option Obj :=
  if i < 16 then some (.die i)
  else if 0x100 ≤ i ∧ i < 0x140 then some (.pair (i - 0x100))
  else if 0x10000 ≤ i ∧ i < 0x20000 then some (.counter (i - 0x10000))
  else if 0x20000 ≤ i ∧ i < 0x21000 then some (.barrier (i - 0x20000))
  else none

/-- The owner is a region outside a partition. -/
def Owner.foreign (o : Owner) (part : Nat) : Bool := o.region != 0 && o.part != part

/-- The object belongs to a region outside the partition (R353). -/
def State.objForeign (s : State) (part : Nat) : Obj → Bool
  | .die k => (s.die k).ctl.run != .idle && (s.die k).sr.partid.toNat != part
  | .pair q => (s.pkg.pair q).owner.foreign part
  | .counter c => (s.pkg.counter c).owner.foreign part
  | .barrier b => (s.pkg.barrier b).owner.foreign part

/-- The word of an object (R353). -/
def State.objWord (s : State) (o : Obj) : Word :=
  BitVec.ofNat 64 (match o with
    | .die k => (s.pkg.sock k).code +
        (if (s.die k).ctl.run = .idle then 0 else (s.die k).sr.regionid.toNat * 2 ^ 32)
    | .pair q =>
      let x := s.pkg.pair q
      (if x.closed then 1 else 0) + x.high.length % 2048 * 2 + x.low.length % 2048 * 2 ^ 12 + x.owner.region * 2 ^ 32
    | .counter c => (s.pkg.counter c).value.toNat + (s.pkg.counter c).owner.region * 2 ^ 32
    | .barrier b =>
      let x := s.pkg.barrier b
      x.expected % 2 ^ 16 + x.waiting.length % 2 ^ 16 * 2 ^ 16 + x.scope % 8 * 2 ^ 32 +
        (if x.init then 2 ^ 35 else 0))

/-- What a kernel of a partition reads of it: an object of another partition's region reads as zero (R353). -/
def State.readObj (s : State) (part : Nat) (o : Obj) : Word := if s.objForeign part o then 0#64 else s.objWord o

/-- A command on a socket (R354, R400); one the state does not allow is ignored. -/
def State.dieCommand (s : State) (k cmd : Nat) : State :=
  match cmd, s.pkg.sock k with
  | 1, .active => if (s.die k).ctl.run = .idle then s.fence k 0 false else s.regionFault k 8 0#16 0
  | 2, .fenced =>
    { (s.modDie k fun _ => Die.cold) with pkg := s.pkg.setSock k .resetting }
  | 3, .empty => s.modPkg (·.setSock k .admitting)
  | _, _ => s

/-- The effect of a write on an object (R354), for a partition: an owner that it names is a region of it.
[DEDUCED, log 29] -/
def State.setObj (s : State) (part : Nat) (o : Obj) (v : Word) : State :=
  let owner : Owner := ⟨part, bitsAt v.toNat 32 32⟩
  match o with
  | .die k => s.dieCommand k v.toNat
  | .pair q =>
    let x := s.pkg.pair q
    let x1 := if x.high.isEmpty ∧ x.low.isEmpty then { x with owner := owner } else x
    let s1 := s.modPkg fun p =>
      let p1 := p.putPair q x1
      if v.getLsbD 0 then p1.closePair q else p1.openPair q
    s1.takeServe q
  | .counter c => s.modPkg fun p =>
    let p1 := p.arriveSet c (v.setWidth 32)
    p1.putCounter c { p1.counter c with owner := owner }
  | .barrier b => if v.getLsbD 0 then s.modPkg (·.barrierReset b) else s

/-- A write of a kernel of a partition; one to an object of another partition's region is ignored (R353). -/
def State.writeObj (s : State) (part : Nat) (o : Obj) (v : Word) : State :=
  if s.objForeign part o then s else s.setObj part o v

/-- `KRD` (R353, R354). -/
def execKrd (x : SOne) (s : State) : Out :=
  privileged x.p (objOf (s.here.src x.a).toNat).isNone s fun s => withOne x.a s fun i s =>
    if s.here.landingFull then held s .landingBuffer
    else
      let (id, s1) := s.sendReq .krd i.toNat 8 0#64 0#64 0 0 0 none
      .next (s1.mod fun d => d.allocLanding id d.sr.atland.toNat x.ws (d.sDest x.d))

/-- What `KWR` may not be given (R353, R354): an index without an object, a bad command, a command to the die's own
socket. -/
def controlBad (sock : Nat) (i v : Word) : Bool :=
  match objOf i.toNat with
  | none => true
  | some (.die k) => k == sock || v == 0#64 || decide (3 < v.toNat)
  | some _ => false

/-- `KWR` (R354): posted. [DEDUCED, log 9] -/
def writeControl (x : SPriv) (s : State) : Out :=
  privileged x.p (controlBad s.cur (s.here.src x.a) (s.here.src x.b)) s fun s => withTwo x.a x.b s fun i v s =>
    .next (s.sendReq .kwr i.toNat 8 v 0#64 0 0 0 none).2

/-- `KWR` of `DIESTATE`, command 1 (R354, R23). [DEDUCED, log 9] -/
def execKwrDiestateFence (x : SPriv) (s : State) : Out := writeControl x s
/-- `KWR` of `DIESTATE`, command 2 (R354, R400). -/
def execKwrDiestateReset (x : SPriv) (s : State) : Out := writeControl x s
/-- `KWR` of `DIESTATE`, command 3 (R354, R400). -/
def execKwrDiestateAdmit (x : SPriv) (s : State) : Out := writeControl x s
/-- `KWR` of `TQCTL` (R354). -/
def execKwrTqctl (x : SPriv) (s : State) : Out := writeControl x s
/-- `KWR` of `ARRCTR` (R354). -/
def execKwrArrctr (x : SPriv) (s : State) : Out := writeControl x s
/-- `KWR` of `BARCTL` (R354). -/
def execKwrBarctl (x : SPriv) (s : State) : Out := writeControl x s

/-- The translations that `TLBINV` drops (R356): TLB `k`, entry `e`. [DEDUCED, log 12] -/
def tlbNamed (sock part va b : Nat) (k : Nat) (e : TlbEntry) : Bool :=
  match b % 4 with
  | 0 => e.part == part && e.size == bitsAt b 4 3 && e.page == bitsAt va 0 57 / pageBytes e.size
  | 1 => e.part == part
  | 2 => k == sock
  | _ => true

/-- Accesses that wait on a migrating page are walked again when `TLBINV` drops it (R404). -/
def State.walkAgain (s : State) (dropped : Req → Bool) : State :=
  let again (r : Req) : Req :=
    if r.stage == .held && (r.phys.any (·.mig)) && dropped r then { r with stage := .issued, phys := none } else r
  let engines := s.pkg.engines.map fun e => match e.job with
    | .copy _ =>
      let reported := s.pkg.faults.any fun f => f.waiters.contains (.engine e.id)
      if e.stage == .stalled ∧ !reported then { e with stage := .begun } else e
    | _ => e
  let ids := (s.pkg.reqs.filter fun r => again r != r).map (·.id)
  let held := (s.pkg.inbound.filter fun x => !s.pkg.faults.any fun f => f.waiters.contains (.inbound x.id)).map (·.id)
  let s1 := ids.foldl (fun s id => s.markLanding id false)
    (s.modPkg fun p => { p with reqs := p.reqs.map again, engines := engines })
  (held.foldl (fun s id => s.retryInbound id false) s1).windowDrain

/-- A die's monitor whose page no longer maps to its line is lost (R275). -/
def State.unmapMonitor (s : State) (k : Nat) : State :=
  let d := s.die k
  match d.cache.mon with
  | none => s
  | some line =>
    let there := match s.walk d.sr.partid.toNat d.cache.monVa with
      | .ok (ph, _) => lineOf ph.host ph.pa == line
      | .error _ => false
    if there then s else s.setDie k d.loseMonitor

/-- `TLBINV` (R356): after a release at `.pkg`, the named translations are gone everywhere, and with them the monitors
of pages that are no longer mapped. [DEDUCED, log 12] -/
def execTlbinv (x : SPriv) (s : State) : Out :=
  privileged x.p false s fun s => withTwo x.a x.b s fun a b s => releaseThen 2 false s fun s =>
    let part := s.here.sr.partid.toNat
    let named := tlbNamed s.cur part a.toNat b.toNat
    let dropped (r : Req) : Bool :=
      (List.range 17).any fun k => named k
        ⟨r.part, r.va.toNat / pageBytes (bitsAt b.toNat 4 3), bitsAt b.toNat 4 3, ⟨0, false, false, true, false⟩⟩
    .next (sockets.foldl State.unmapMonitor ((s.modPkg (·.tlbDrop named)).walkAgain dropped))

/-- Translate the pages of an image in order; a fault, or a page that is migrating, names the page (R355, R404). -/
def translatePages (write : Bool) : Nat → Int → State → Except (Option TransFault × Int) Place × State
  | 0, _, s => (.ok [], s)
  | n + 1, va, s =>
    match s.translate s.cur s.here.sr.partid.toNat va write with
    | (.error e, s1) => (.error (some e, va), s1)
    | (.ok ph, s1) =>
      if ph.mig then (.error (none, va), s1)
      else match translatePages write n (va + 4096) s1 with
      | (.error e, s2) => (.error e, s2)
      | (.ok l, s2) => (.ok ((ph.host, ph.pa) :: l), s2)

/-- A context access waits for the fault service or a migrating page (R34, R355). -/
def contextReq (s : State) : Option Req := s.pkg.reqs.find? fun r => r.sock == s.cur && r.kind == .context

/-- Take the waiting access off the list. -/
def dropContext (s : State) : State :=
  s.modPkg fun p => { p with reqs := p.reqs.filter fun r => !(r.sock == s.cur && r.kind == .context) }

/-- Reach a context image (R355): its address is a multiple of 4,096; the stream's earlier writes are
released; a fault is reported once and freezes the die until it is answered; a migrating page is waited for. -/
def withImage (a : Word) (write : Bool) (s : State) (k : Place → State → Out) : Out :=
  if a.toNat % 4096 ≠ 0 then raiseAlign s a.toNat
  else releaseThen 2 false s fun s =>
    match contextReq s with
    | some r => if r.stage = .held then held s .service else
        held (dropContext s) .service
    | none =>
      match translatePages write ctxPages (bitsAt a.toNat 0 57) s with
      | (.ok l, s1) => k l s1
      | (.error (f, va), s1) =>
        let d := s.here
        let (id, s2) := s1.sendReq .context va 4096 0#64 0#64 0 0 0 none
        let mig : Option Phys := if f.isNone then some ⟨0, false, false, true, true⟩ else none
        let hold (r : Req) : Req := if r.id == id then { r with stage := .held, phys := mig } else r
        let s3 := s2.modPkg fun p => { p with reqs := p.reqs.map hold }
        match f with
        | none => held s3 .service
        | some f =>
          let site : FaultSite := ⟨d.sr.partid.toNat, va, if write then 1 else 0, f.code, s.cur,
            d.sr.kernid.toNat, d.sr.regionid.toNat⟩
          held (s3.reportFault site (.request id)) .service

/-- Set a bit of `KSTAT`. -/
def Die.setKstat (d : Die) (m : BitVec 8) : Die := { d with sr.kstat := d.sr.kstat ||| m }

/-- Every landing request of the die has its data, those in the snapshot included (R378). -/
def Die.landingsIn (d : Die) : Bool :=
  let here (x : Landing) : Bool := x.reply != .waiting
  d.pipe.landings.all here && (d.ctl.snapshot.elim true fun x => x.landings.all here)

/-- `CTXSV` (R355): as the pre-emption save, it waits for the landing data; it sets `KSTAT.CTXOK`. -/
def execCtxsv (x : SSink) (s : State) : Out :=
  privileged x.p false s fun s => withOne x.a s fun a s => withImage a true s fun l s =>
    if s.here.landingsIn then .next ((s.saveContext s.cur l true).mod (·.setKstat 64#8))
    else held s .context

/-- `CTXRS` (R355): on a mismatch, `KSTAT.CTXERR` and nothing else. [DEDUCED, log 29] -/
def execCtxrs (x : SSink) (s : State) : Out :=
  privileged x.p false s fun s => withOne x.a s fun a s => withImage a false s fun l s =>
    let s1 := s.bringHome l
    let cells := s1.imageCells l
    let d := s.here
    let bad : Out := .next (s1.mod (·.setKstat 128#8))
    if headerOk cells d.sr.kernid.toNat d.sr.regionid.toNat then
      match s1.imageHere cells with
      | none => bad
      | some i => .next (s1.mod fun d => d.adopt (imageDie cells i) s.pkg.clk)
    else bad

/-- A matrix that `LKMW` accepts (R357). -/
def matrixOk (m : Word) : Bool :=
  m.setWidth 8 == 0xFF#8 && (List.range 8).all fun r => m.getLsbD (8 * r)

/-- `LKMW` (R315, R357): the matrix, then a grant pass on every lock of the partition with waiters. -/
def execLkmw (x : SSink) (s : State) : Out :=
  privileged x.p (!matrixOk (s.here.src x.a)) s fun s => withOne x.a s fun m s =>
    let part := s.here.sr.partid.toNat
    let g0 := s.pkg.garnet
    let g : Garnet := { g0 with matrix := Store.set Config.lockMatrix g0.matrix part m }
    let waits := (g.locks.filter fun l => l.part == part && !l.queue.isEmpty).map fun l => (l.part, l.name)
    .next (s.applyLock (settleAll s.pkg.ptime.toNat ⟨g, [], [], [], []⟩ waits))

/-- The reserved bits of `RTBW`'s operands are zero, its bank idle, its dimension and port of one class
(R358). -/
def routeOk (active : Bool) (a b : Nat) : Bool :=
  let dim := bitsAt a 8 5
  let port := b % 32
  a / 2 ^ 13 == 0 && bitsAt a 1 7 == 0 && b / 2 ^ 32 == 0 && bitsAt b 5 2 == 0 && bitsAt b 8 4 == 0 &&
    (a % 2 == 1) != active && 4 ≤ dim && dim ≤ 19 && port ≤ 23 && (dim ≤ 5) == (port ≤ 3 : Bool)

/-- `RTBW` (R358, R410); while a swap is being decided the write is held (R414). -/
def execRtbw (x : SPriv) (s : State) : Out :=
  let bad := !routeOk s.pkg.regs.rtact (s.here.src x.a).toNat (s.here.src x.b).toNat
  privileged x.p bad s fun s => withTwo x.a x.b s fun a b s =>
    let dim := bitsAt a.toNat 8 5
    .next (s.modPkg fun p =>
      if p.regs.swaplk then { p with heldRoutes := p.heldRoutes ++ [⟨a.getLsbD 0, dim, b⟩] }
      else p.writeRoute (a.getLsbD 0) dim b)

end Sys2Proof.Machine
end

