-- ==== Sys2Proof/Machine/Scalar.lean ====
section
/-! DEFINITION. The S slots (chapter 09): integer, bit, predicate and scalar floating instructions,
special registers, tables, flags. -/
namespace Sys2Proof.Machine

/-- A two-source instruction with a result of 64 bits (R192). -/
def binary (lat : Nat) (x : SArgs) (f : Word → Word → Word) (s : State) : Out :=
  guarded x.p s fun s => withTwo x.a x.b s fun a b s => .next (s.mod (·.emitS lat x.ws x.d (f a b) 0#10))

/-- A one-source instruction (R195). -/
def unary (x : SOne) (f : Word → Word) (s : State) : Out :=
  guarded x.p s fun s => withOne x.a s fun a s => .next (s.mod (·.emitS 1 x.ws x.d (f a) 0#10))

/-- A division: a zero divisor sets `STATUS.FPDZ` (R194). -/
def dividing (x : SArgs) (zero : Word → Word) (f : Word → Word → Word) (s : State) : Out :=
  guarded x.p s fun s => withTwo x.a x.b s fun a b s =>
    .next (s.mod (·.emitS 18 x.ws x.d (if b = 0#64 then zero a else f a b) (if b = 0#64 then fDZ else 0#10)))

/-- The shift amount: the low six bits (R193). -/
def amount (b : Word) : Nat := b.toNat % 64

/-- Number of set bits. -/
def popcount (n : Nat) : Nat → Nat
  | 0 => 0
  | i + 1 => (if n.testBit i then 1 else 0) + popcount n i

/-- Leading zeros of 64 bits. -/
def leadingZeros (n : Nat) : Nat := if n = 0 then 64 else 63 - Nat.log2 n

/-- Trailing zeros, looking at `i` bits from bit `64 - i` up. -/
def trailingZeros (n : Nat) : Nat → Nat
  | 0 => 64
  | i + 1 => if n.testBit (63 - i) then 63 - i else trailingZeros n i

/-- The inverse of the Gray code: bit i is the parity of the bits from i up (R195). -/
def ungray (a : Word) : Word :=
  let b := a ^^^ (a >>> 1)
  let c := b ^^^ (b >>> 2)
  let d := c ^^^ (c >>> 4)
  let e := d ^^^ (d >>> 8)
  let f := e ^^^ (e >>> 16)
  f ^^^ (f >>> 32)

/-- The field of `EXT` and `INS`: lowest bit and length, cut at bit 63 (R196). -/
def fieldSpan (b : Word) : Nat × Nat :=
  let lo := b.toNat % 64
  (lo, min (b.toNat / 64 % 64 + 1) (64 - lo))

/-- `EXT` (R196). -/
def extractField (a b : Word) : Word :=
  let (lo, len) := fieldSpan b
  let f := bitsAt a.toNat lo len
  if b.getLsbD 12 then wordOf (sextInt f len) else BitVec.ofNat 64 f

/-- `INS` (R196). -/
def insertField (d a b : Word) : Word :=
  let (lo, len) := fieldSpan b
  putBits d lo len (bitsAt a.toNat 0 len)

/-- The conditions of `CMP` (R182). -/
def cmpTest (c : BitVec 3) (a b : Word) : Bool :=
  match c.toNat with
  | 0 => a == b
  | 1 => a != b
  | 2 => a.slt b
  | 3 => !a.slt b
  | 4 => a.ult b
  | 5 => !a.ult b
  | 6 => a &&& b != 0#64
  | _ => a &&& b == 0#64

/-- A scalar floating operand: bits [31:0], an immediate converted exactly (R201). -/
def Die.fsrc (d : Die) : SSrc → Nat
  | .imm i => immPat .f32 i
  | a => (d.src a).toNat % 2 ^ 32

/-- A scalar floating instruction of latency 3 (R201). -/
def scalarFloat (x : SArgs) (f : Rule → Nat → Nat → Nat × BitVec 10) (s : State) : Out :=
  guarded x.p s fun s =>
    let d := s.here
    let (r, g) := f d.rule (d.fsrc x.a) (d.fsrc x.b)
    .next (s.put (((d.noteS x.a).noteS x.b).emitS 3 x.ws x.d (BitVec.ofNat 64 r) g))

/-- A rounded F32 sum. -/
def addF32 (r : Rule) (x y : Nat) : Nat × BitVec 10 :=
  let (v, f) := (f32v x).add r.rm (f32v y)
  let (p, g) := FFmt.f32.round r v
  (p, f ||| g)

/-- A rounded F32 product. -/
def mulF32 (r : Rule) (x y : Nat) : Nat × BitVec 10 :=
  let (v, f) := (f32v x).mul (f32v y)
  let (p, g) := FFmt.f32.round r v
  (p, f ||| g)

/-- The difference is the sum with the second operand's sign changed. -/
def subF32 (r : Rule) (x y : Nat) : Nat × BitVec 10 :=
  let (v, f) := (f32v x).add r.rm (f32v y).neg
  let (p, g) := FFmt.f32.round r v
  (p, f ||| g)

/-- `PAND`, `POR`, `PXOR` (R200). -/
def combinePreds (x : SPred) (f : Bool → Bool → Bool) (s : State) : Out :=
  guarded x.p s fun s =>
    let d := s.here
    .next (s.put (d.emitP 1 x.x (f (d.readP x.y != x.ny) (d.readP x.z != x.nz))))

/-- `SNOP` (R190): nothing but its wait. -/
def execSnop (p : BitVec 5) (s : State) : Out :=
  guarded p s .next

/-- `ADD` (R193). -/
def execAdd (x : SArgs) (s : State) : Out :=
  binary 1 x (fun a b => a + b) s

/-- `SUB` (R193). -/
def execSub (x : SArgs) (s : State) : Out :=
  binary 1 x (fun a b => a - b) s

/-- `AND` (R193). -/
def execAnd (x : SArgs) (s : State) : Out :=
  binary 1 x (fun a b => a &&& b) s

/-- `OR` (R193). -/
def execOr (x : SArgs) (s : State) : Out :=
  binary 1 x (fun a b => a ||| b) s

/-- `XOR` (R193). -/
def execXor (x : SArgs) (s : State) : Out :=
  binary 1 x (fun a b => a ^^^ b) s

/-- `ANDN` (R193). -/
def execAndn (x : SArgs) (s : State) : Out :=
  binary 1 x (fun a b => a &&& ~~~b) s

/-- `SHL` (R193). -/
def execShl (x : SArgs) (s : State) : Out :=
  binary 1 x (fun a b => a <<< amount b) s

/-- `SHR` (R193). -/
def execShr (x : SArgs) (s : State) : Out :=
  binary 1 x (fun a b => a >>> amount b) s

/-- `SRA` (R193). -/
def execSra (x : SArgs) (s : State) : Out :=
  binary 1 x (fun a b => a.sshiftRight (amount b)) s

/-- `ROTR` (R193). -/
def execRotr (x : SArgs) (s : State) : Out :=
  binary 1 x (fun a b => a.rotateRight (amount b)) s

/-- `MUL` (R194): the low half of the product. -/
def execMul (x : SArgs) (s : State) : Out :=
  binary 3 x (fun a b => a * b) s

/-- `MULH` (R194): the high half of the signed product. -/
def execMulh (x : SArgs) (s : State) : Out :=
  binary 3 x (fun a b => wordOf (a.toInt * b.toInt / 2 ^ 64)) s

/-- `MULHZ` (R194): the high half of the unsigned product. -/
def execMulhz (x : SArgs) (s : State) : Out :=
  binary 3 x (fun a b => BitVec.ofNat 64 (a.toNat * b.toNat / 2 ^ 64)) s

/-- `DIV` (R194): truncated toward zero; -2^63 by -1 is -2^63. -/
def execDiv (x : SArgs) (s : State) : Out :=
  dividing x (fun _ => BitVec.allOnes 64) (fun a b => a.sdiv b) s

/-- `DIVZ` (R194). -/
def execDivz (x : SArgs) (s : State) : Out :=
  dividing x (fun _ => BitVec.allOnes 64) (fun a b => a / b) s

/-- `REM` (R194): the sign of the dividend. -/
def execRem (x : SArgs) (s : State) : Out :=
  dividing x (fun a => a) (fun a b => a.srem b) s

/-- `REMZ` (R194). -/
def execRemz (x : SArgs) (s : State) : Out :=
  dividing x (fun a => a) (fun a b => a % b) s

/-- `MIN` (R193). -/
def execMin (x : SArgs) (s : State) : Out :=
  binary 1 x (fun a b => if b.slt a then b else a) s

/-- `MAX` (R193). -/
def execMax (x : SArgs) (s : State) : Out :=
  binary 1 x (fun a b => if a.slt b then b else a) s

/-- `MINZ` (R193). -/
def execMinz (x : SArgs) (s : State) : Out :=
  binary 1 x (fun a b => if b.ult a then b else a) s

/-- `MAXZ` (R193). -/
def execMaxz (x : SArgs) (s : State) : Out :=
  binary 1 x (fun a b => if a.ult b then b else a) s

/-- `CMP` (R198). -/
def execCmp (x : SCmp) (s : State) : Out :=
  guarded x.p s fun s => withTwo x.a x.b s fun a b s => .next (s.mod (·.emitP 1 x.x (cmpTest x.c a b)))

/-- `SEL` (R199): the predicate selects and does not guard; `ILLEGAL` in a wait bundle (R160). -/
def execSel (x : SArgs) (s : State) : Out :=
  if s.here.iss.wait then raiseIllegal s
  else
    let c := s.here.predicate x.p
    withTwo x.a x.b s fun a b s => .next (s.mod (·.emitS 1 x.ws x.d (if c then a else b) 0#10))

/-- `MOVI` (R197). -/
def execMovi (x : SImm) (s : State) : Out :=
  guarded x.p s fun s => .next (s.mod (·.emitS 1 x.ws x.d (x.i.signExtend 64) 0#10))

/-- `MOVH` (R197): it reads its destination at issue. -/
def execMovh (x : SImm) (s : State) : Out :=
  guarded x.p s fun s =>
    let v := (s.here.readS x.d <<< 14) ||| x.i.setWidth 64
    .next (s.mod (·.emitS 1 x.ws x.d v 0#10))

/-- `POPC` (R195). -/
def execPopc (x : SOne) (s : State) : Out :=
  unary x (fun a => BitVec.ofNat 64 (popcount a.toNat 64)) s

/-- `CLZ` (R195). -/
def execClz (x : SOne) (s : State) : Out :=
  unary x (fun a => BitVec.ofNat 64 (leadingZeros a.toNat)) s

/-- `CTZ` (R195). -/
def execCtz (x : SOne) (s : State) : Out :=
  unary x (fun a => BitVec.ofNat 64 (trailingZeros a.toNat 64)) s

/-- `BREV` (R195). -/
def execBrev (x : SOne) (s : State) : Out :=
  unary x (fun a => a.reverse) s

/-- `GRAY` (R195). -/
def execGray (x : SOne) (s : State) : Out :=
  unary x (fun a => a ^^^ (a >>> 1)) s

/-- `IGRAY` (R195). -/
def execIgray (x : SOne) (s : State) : Out :=
  unary x (fun a => ungray a) s

/-- `EXT` (R196). -/
def execExt (x : SArgs) (s : State) : Out :=
  binary 1 x extractField s

/-- `INS` (R196): it reads its destination at issue. -/
def execIns (x : SArgs) (s : State) : Out :=
  guarded x.p s fun s => withTwo x.a x.b s fun a b s =>
    .next (s.mod (·.emitS 1 x.ws x.d (insertField (s.here.readS x.d) a b) 0#10))

/-- `FADD` (R201). -/
def execFadd (x : SArgs) (s : State) : Out :=
  scalarFloat x addF32 s

/-- `FSUB` (R201). -/
def execFsub (x : SArgs) (s : State) : Out :=
  scalarFloat x subF32 s

/-- `FMUL` (R201). -/
def execFmul (x : SArgs) (s : State) : Out :=
  scalarFloat x mulF32 s

/-- `FMIN` (R201, R88). -/
def execFmin (x : SArgs) (s : State) : Out :=
  scalarFloat x (fun _ a b => (FFmt.f32.minPat a b, 0#10)) s

/-- `FMAX` (R201, R88). -/
def execFmax (x : SArgs) (s : State) : Out :=
  scalarFloat x (fun _ a b => (FFmt.f32.maxPatOf a b, 0#10)) s

/-- `FCMP` (R182, R201): no flag. -/
def execFcmp (x : SCmp) (s : State) : Out :=
  guarded x.p s fun s =>
    let d := s.here
    let t := FVal.test x.c.toNat (f32v (d.fsrc x.a)) (f32v (d.fsrc x.b))
    .next (s.put (((d.noteS x.a).noteS x.b).emitP 3 x.x t))

/-- `FCVT` (R202). [DEDUCED, log 28] -/
def execFcvt (x : SCvt) (s : State) : Out :=
  guarded x.p s fun s => withOne x.a s fun a s =>
    let (r, g) := (fcvtPair x.c.toNat).run s.here.rule a.toNat
    .next (s.mod (·.emitS 3 x.ws x.d (BitVec.ofNat 64 r) g))

/-- `PAND` (R200). -/
def execPand (x : SPred) (s : State) : Out :=
  combinePreds x (· && ·) s

/-- `POR` (R200). -/
def execPor (x : SPred) (s : State) : Out :=
  combinePreds x (· || ·) s

/-- `PXOR` (R200). -/
def execPxor (x : SPred) (s : State) : Out :=
  combinePreds x (· != ·) s

/-- `SRD` (R68, R203): latency 2; the number decides its fate before the predicate (R171). In a wait bundle it gives
what it sampled in the issue cycle (R38). -/
def execSrd (p : BitVec 5) (ws : Bool) (d : BitVec 6) (n : BitVec 12) (s : State) : Out :=
  match srdFate s.here.inK n.toNat with
  | some .illegal => raiseIllegal s
  | some .priv => raisePriv s
  | none => guarded p s fun s =>
    match s.here.ctl.samples.lookup s.here.iss.slot.num with
    | some (v, l) => .next (s.mod (·.emitSreg ws d v l))
    | none =>
      let (v, s1) := s.readSreg n.toNat
      .next (s1.mod fun e => e.emitSreg ws d v (e.shownBy n.toNat v))

/-- `SWR` (R68, R203): it takes effect from the next issue cycle. -/
def execSwr (p : BitVec 5) (r : BitVec 6) (n : BitVec 12) (s : State) : Out :=
  match swrFate s.here.inK n.toNat with
  | some .illegal => raiseIllegal s
  | some .priv => raisePriv s
  | none => guarded p s fun s => .next (s.mod fun d => d.later (.sreg n.toNat (d.readS r)))

/-- `SHW` (R61, R204): the shadow copy, at t + 1. -/
def execShw (p : BitVec 5) (e : BitVec 2) (r : BitVec 2) (a : SSrc) (f : BitVec 4) (s : State) : Out :=
  guarded p s fun s => withOne a s fun v s =>
    .next (s.mod (·.later (.shape e.toNat r.toNat f.toNat (v.setWidth 32))))

/-- `TIDR` (R205): latency 3, zero-extended. -/
def execTidr (p : BitVec 5) (ws : Bool) (d : BitVec 6) (a : SSrc) (f : BitVec 5) (s : State) : Out :=
  guarded p s fun s => withOne a s fun v s =>
    let (lo, n) := tensorField f.toNat
    let x := fieldAt (s.here.tensor (v.toNat % 256)) lo n
    .next (s.mod (·.emitS 3 ws d (BitVec.ofNat 64 x) 0#10))

/-- `TIDW` (R205): visible from t + 1. -/
def execTidw (p : BitVec 5) (f : BitVec 5) (a : SSrc) (b : SSrc) (s : State) : Out :=
  guarded p s fun s => withTwo a b s fun i v s =>
    .next (s.mod (·.later (.tensor (i.toNat % 256) f.toNat v)))

/-- Another armed set is bound to a port (R59). -/
def Die.portTaken (d : Die) (n port : Nat) : Bool :=
  if port < 4 then ((Store.get none d.tab.inp port).map (·.set)).any (· != n)
  else ((Store.get none d.tab.outp (port - 4)).map (·.set)).any (· != n)

/-- The first base or stride of a set that is no multiple of 64 (R59). -/
def Die.agMisaligned (d : Die) (n : Nat) : Option Int :=
  (((d.agField n 0).toNat : Int) :: d.agStrides n).find? fun x => x % 64 != 0

/-- The checks of arming a set (R59), on the fields before the bundle: two `AGW` of one bundle may arm different
sets on one port, which the later slot's set then takes (R206). [DEDUCED, log 41] -/
def armCheck (n : Nat) (s : State) (k : Out) : Out :=
  let d := s.here
  let port := d.agPort n
  if ¬ (d.agField n 2).getLsbD 3 ∨ 6 ≤ port ∨ (4 ≤ port ∧ (d.agField n 1).getLsbD 0) ∨ d.portTaken n port then
    raiseIllegal s
  else match d.agMisaligned n with
    | some x => raiseAlign s x
    | none => k

/-- `AGW` (R58-R60, R206): arming is checked at issue on the fields before the bundle. -/
def execAgw (p : BitVec 5) (n : BitVec 3) (a : SSrc) (f : BitVec 4) (s : State) : Out :=
  guarded p s fun s => withOne a s fun v s =>
    let w := BitVec.ofNat 32 (bitsAt v.toNat 0 (agWidth f.toNat))
    let done : Out := .next (s.mod (·.later (.ag n.toNat f.toNat w)))
    if f = 11#4 ∧ w = 1#32 then armCheck n.toNat s done else done

/-- `FLGS` (R207). -/
def execFlgs (x : SSink) (s : State) : Out :=
  guarded x.p s fun s => withOne x.a s fun v s => .next (s.mod (·.later (.flagSet (v.setWidth 32))))

/-- `FLGC` (R207). -/
def execFlgc (x : SSink) (s : State) : Out :=
  guarded x.p s fun s => withOne x.a s fun v s => .next (s.mod (·.later (.flagClear (v.setWidth 32))))

/-- `PARTNER` (R208). -/
def execPartner (x : SOne) (s : State) : Out :=
  guarded x.p s fun s => withOne x.a s fun a s =>
    let d := s.here
    let v : Word := if a.toNat < d.sr.ndim.toNat then d.sr.rank.setWidth 64 ^^^ (1#64 <<< a.toNat)
      else BitVec.allOnes 64
    .next (s.put (d.emitS 1 x.ws x.d v 0#10))

end Sys2Proof.Machine
end

