-- ==== Sys2Proof/Machine/Requests.lean ====
section
/-! DEFINITION. The steps of a memory request: its walk, its service at the directory or at the line's
home, its reply or acknowledgement (R128-R151, R262-R275, R384-R390). -/
namespace Sys2Proof.Machine

/-- A request. -/
def Pkg.req (p : Pkg) (id : Nat) : Option Req := p.reqs.find? (·.id == id)

/-- Replace a request. -/
def Pkg.putReq (p : Pkg) (r : Req) : Pkg := { p with reqs := p.reqs.map fun x => if x.id == r.id then r else x }

/-- Take a request off the list. -/
def Pkg.dropReq (p : Pkg) (id : Nat) : Pkg := { p with reqs := p.reqs.filter fun x => x.id != id }

/-- The access class of a record (R391), and whether the access writes (R387). -/
def ReqKind.access : ReqKind → Nat
  | .store => 1
  | .atom | .cas | .red | .heap => 2
  | _ => 0

/-- The kind translates an address of package memory. -/
def ReqKind.memory : ReqKind → Bool
  | .krd | .kwr | .context => false
  | _ => true

/-- A `MON` whose translation faulted: not held; `LOST` is set and `ARMED` cleared (R274, R390). -/
def State.failMonitor (s : State) (r : Req) : State :=
  let s1 := s.modPkg (·.dropReq r.id)
  if (s1.die r.sock).cache.monArming = some r.id then s1.modDie r.sock Die.loseMonitor else s1

/-- The walk failed (R390): a request of a stream that has ended goes; a `MON` is not held; the others
are held and reported. -/
def State.failWalk (s : State) (r : Req) (f : TransFault) : State :=
  if r.kind = .monitor then s.failMonitor r
  else if ¬ s.resident r.sock r.kern then s.modPkg (·.dropReq r.id)
  else
    (s.modPkg (·.putReq { r with stage := .held })).reportFault
      ⟨r.part, r.va, r.kind.access, f.code, r.sock, r.kern, r.region⟩ (.request r.id)

/-- `PAGE_WALK` (R384-R390, R404): the request is translated, fails, or waits on a migrating page. -/
def execPageWalk (id : Nat) (s : State) : Out :=
  match s.pkg.req id with
  | none => .next s
  | some r =>
    if r.stage ≠ .issued ∨ ¬ r.kind.memory then .next s
    else match s.translate r.sock r.part r.va r.kind.writes with
      | (.error f, s1) => .next (s1.failWalk r f)
      | (.ok ph, s1) =>
        if ph.mig then .next ((s1.modPkg (·.putReq { r with stage := .held, phys := some ph })).markLanding id true)
        else .next (s1.modPkg (·.putReq { r with stage := .walked, phys := some ph }))

/-- Bytes that a request may touch: a heap record of the largest capacity (R272). -/
def Req.span (r : Req) : Nat := if r.kind = .heap then 16 + 8 * 4096 else r.size

/-- Two requests of a die may reach one line (R130, R131, R403): their lines once both are translated; until then any two
places whose offsets in their pages share a line, which may be one place under two addresses. [DEDUCED, log 19] -/
def Req.meets (a b : Req) : Bool :=
  match a.phys, b.phys with
  | some x, some y => x.host == y.host && decide (x.pa / 128 ≤ (y.pa + b.span - 1) / 128) &&
      decide (y.pa / 128 ≤ (x.pa + a.span - 1) / 128)
  | _, _ => a.kind == .heap || b.kind == .heap || a.va / 128 % 32 == b.va / 128 % 32

/-- An earlier request of the same die to the same line is not yet performed (R130, R131). [DEDUCED, log 19] -/
def Pkg.behind (p : Pkg) (r : Req) : Bool :=
  p.reqs.any fun x => x.sock == r.sock && x.id < r.id && x.stage != .performed && x.kind.memory && x.meets r

/-- The bytes of a line as the directory serves them. -/
def State.lineBits (s : State) (line : Nat) : BitVec 1024 :=
  BitVec.ofNat 1024 (s.memNat (lineHost line) (lineAddr line) 128)

/-- A request is performed, with its reply. -/
def State.perform (s : State) (r : Req) (reply : Reply) : State :=
  s.modPkg (·.putReq { r with stage := .performed, reply := reply })

/-! Reads that miss a write (R135, R141). [DEDUCED, log 18] -/

/-- A die meets a line: what happened to it, and what a strong access there may tell of, is in the die's past; its strong
accesses may tell others. One write, which the access has missed, stays unmet. -/
def Pkg.meet (p : Pkg) (sock line : Nat) (strong : Bool) (missed : Option Late) : Pkg :=
  let tell (x : Late) : Late :=
    if missed = some x then x
    else
      let known := x.aware.contains sock
      let y := if !known && (x.line == line || x.carriers.contains line) then { x with aware := sock :: x.aware } else x
      if strong && y.aware.contains sock && !y.carriers.contains line then { y with carriers := line :: y.carriers } else y
  { p with late := p.late.map tell }

/-- The write that a read of a die may still miss: nothing orders the read after it. A read with release ordering misses
none. -/
def Pkg.missable (p : Pkg) (r : Req) (ph : Phys) : Option Late :=
  if 2 ≤ r.order then none
  else p.late.find? fun x =>
    x.line == lineOf ph.host ph.pa && x.pa == ph.pa && x.size == r.size && !x.aware.contains r.sock

/-- Whether a read misses a write, which the spec leaves open. [DESIGN CHOICE, log 3] -/
def State.misses (s : State) (r : Req) (ph : Phys) : Option Late × State :=
  match s.pkg.missable r ph with
  | none => (none, s)
  | some x =>
    let (old, s1) := s.choose
    (if old then some x else none, s1)

/-- A strong write of a location, from one value to another: a reader that nothing orders after it may miss it. A die whose
monitor it ended does not. -/
def Pkg.addLate (p : Pkg) (x : Late) : Pkg := { p with late := p.late ++ [x] }

/-- The dies that monitor a line. -/
def State.watchers (s : State) (line : Nat) : List Nat := sockets.filter fun k => (s.die k).cache.mon == some line

/-- An ordinary load at the directory (R109, R141, R145, R146, R401), which brings its line in (R436). -/
def State.serveLoad (s : State) (r : Req) (ph : Phys) : State :=
  let line := lineOf ph.host ph.pa
  if s.pkg.lineBad line then s.perform r (.bad line)
  else if s.pkg.races r.sock line then s.perform r (.race line (s.pkg.tag line).agent)
  else
    let (missed, s1) := s.misses r ph
    let v := match missed with
      | some x => x.old
      | none => s.memNat ph.host ph.pa r.size
    ((s1.fillLine r.sock ph).modPkg (·.meet r.sock line false missed)).perform r (.data (BitVec.ofNat 64 v))

/-- `LDRO` on the read-only path (R114): a held line may answer; a memory-side page is read at the base
die. -/
def State.serveRo (t : State) (r : Req) (ph : Phys) : State :=
  let line := lineOf ph.host ph.pa
  let s := t.modPkg (·.meet r.sock line false none)
  let value (v : BitVec 1024) : Word :=
    BitVec.ofNat 64 ((v >>> (8 * (ph.pa % 128))).toNat % 256 ^ r.size)
  if s.pkg.lineBad line then s.perform r (.bad line)
  else if ph.ms then s.perform r (.data (BitVec.ofNat 64 (s.memNat ph.host ph.pa r.size)))
  else
    let d := s.die r.sock
    let now := s.lineBits line
    match Store.get none d.cache.ro line with
    | some v =>
      let s1 := { s with fresh := s.fresh + 1 }
      if Config.roHit s.fresh then s1.perform r (.data (value v))
      else (s1.setDie r.sock { d with cache.ro := Store.set none d.cache.ro line (some now) }).perform r
        (.data (value now))
    | none => (s.setDie r.sock { d with cache.ro := Store.set none d.cache.ro line (some now) }).perform r
        (.data (value now))

/-- An ordinary store at the directory (R109, R143, R145, R147, R275, R401): a racing store is refused
and leaves memory and tag as they are. -/
def State.serveStore (s : State) (r : Req) (ph : Phys) : State :=
  let line := lineOf ph.host ph.pa
  if s.pkg.lineBad line then s.perform r (.bad line)
  else if s.pkg.races r.sock line then
    s.modPkg (·.putReq { r with stage := .performed, refused := some (line, (s.pkg.tag line).agent) })
  else
    let s1 := s.ordinaryWrite r.sock ph (natBytes r.size r.data.toNat)
    (s1.noteWrite (some r.sock) line).perform r .waiting

/-- A monitor is registered at its line's home (R275). -/
def State.serveMonitor (s : State) (r : Req) (ph : Phys) : State :=
  let d := s.die r.sock
  let s1 := s.modPkg (·.dropReq r.id)
  if d.cache.monArming = some r.id then
    s1.setDie r.sock { d with cache.mon := some (lineOf ph.host ph.pa), cache.monArming := none }
  else s1

/-- `DIRECTORY_REQUEST` (R145). -/
def execDirectoryRequest (id : Nat) (s : State) : Out :=
  match s.pkg.req id with
  | none => .next s
  | some r =>
    match r.phys with
    | none => .next s
    | some ph =>
      if r.stage ≠ .walked ∨ s.pkg.behind r then .next s
      else match r.kind with
        | .load => .next (s.serveLoad r ph)
        | .loadRo => .next (s.serveRo r ph)
        | .store => .next (s.serveStore r ph)
        | .monitor => .next (s.serveMonitor r ph)
        | _ => .next s

/-! Strong accesses (R128, R185, R270-R272). -/

/-- The new value of an atomic operation on `n` bytes (R185). -/
def atomNew (op n m v : Nat) : Nat :=
  let w := 8 * n
  let a := sextInt m w
  let b := sextInt v w
  let z := v % 2 ^ w
  match op with
  | 0 => (m + z) % 2 ^ w
  | 1 => (m + (2 ^ w - z)) % 2 ^ w
  | 2 => if b < a then z else m
  | 3 => if a < b then z else m
  | 4 => min m z
  | 5 => max m z
  | 6 => m &&& z
  | 7 => m ||| z
  | 8 => m ^^^ z
  | 9 => z
  | 10 => (addF32 Rule.fixed m z).1
  | _ => FFmt.f32.maxPatOf m z

/-- A place in the order of F32 values that are no NaN, -0 below +0 (R272). -/
def scoreKey (b : Nat) : Int :=
  if b / 2 ^ 31 % 2 = 1 then -(b % 2 ^ 31 : Nat) - 1 else (b % 2 ^ 31 : Nat)

/-- The score is a NaN. -/
def scoreNan (b : Nat) : Bool := 0x7F800000 < b % 2 ^ 31

/-- An entry: score in bits [63:32], token in bits [31:0]. -/
def entryScore (e : Nat) : Nat := e / 2 ^ 32 % 2 ^ 32
def entryToken (e : Nat) : Nat := e % 2 ^ 32

/-- `key(e) < key(f)` (R272). -/
def keyLess (e f : Nat) : Bool :=
  let a := scoreKey (entryScore e)
  let b := scoreKey (entryScore f)
  a < b || (a == b && entryToken f < entryToken e)

/-- Exchange two entries. -/
def swapEntries (h : List Nat) (i j : Nat) : List Nat := (h.set i (h.getD j 0)).set j (h.getD i 0)

/-- An entry rises while it is below its parent. -/
def siftUp : Nat → Nat → List Nat → List Nat
  | 0, _, h => h
  | fuel + 1, i, h =>
    let up := (i - 1) / 2
    if 0 < i ∧ keyLess (h.getD i 0) (h.getD up 0) then siftUp fuel up (swapEntries h i up) else h

/-- An entry sinks while a child is below it. -/
def siftDown : Nat → Nat → List Nat → List Nat
  | 0, _, h => h
  | fuel + 1, i, h =>
    let j := 2 * i + 1
    if h.length ≤ j then h
    else
      let k := if j + 1 < h.length ∧ keyLess (h.getD (j + 1) 0) (h.getD j 0) then j + 1 else j
      if keyLess (h.getD k 0) (h.getD i 0) then siftDown fuel k (swapEntries h i k) else h

/-- `HEAPINS` on a record's capacity and entries (R272): the status, the evicted token, the heap. -/
def heapInsert (cap : Nat) (h : List Nat) (new : Nat) : Nat × Nat × List Nat :=
  if h.length < cap then (0, 0, siftUp h.length h.length (h ++ [new]))
  else if keyLess (h.headD 0) new then (1, entryToken (h.headD 0), siftDown h.length 0 (h.set 0 new))
  else (2, 0, h)

/-- The result of `HEAPINS` and the words of the record that it writes, by index: the header when the count changes, the
place of the new entry, and those that are exchanged. A record is read and written at consecutive physical addresses,
where the spec leaves open how one that leaves its page is translated. [DEDUCED, log 19] -/
def State.heapAt (s : State) (ph : Phys) (new : Nat) : Word × List (Nat × Nat) :=
  let word (i : Nat) : Nat := s.memNat ph.host (ph.pa + 8 * i) 8
  let cap := word 0 % 2 ^ 32
  let count := word 0 / 2 ^ 32
  let bad := BitVec.ofNat 64 (3 * 2 ^ 62)
  if !ph.ms || cap == 0 || 4096 < cap || cap < count || word 1 != 0 || scoreNan (entryScore new) then (bad, [])
  else
    let h := (List.range count).map fun i => word (i + 2)
    if h.any fun e => scoreNan (entryScore e) then (bad, [])
    else
      let (st, ev, h1) := heapInsert cap h new
      let wrote (i : Nat) : Bool := count ≤ i || (st == 1 && i == 0) || h1.getD i 0 != h.getD i 0
      let entries := ((List.range h1.length).filter wrote).map fun i => (i + 2, h1.getD i 0)
      (BitVec.ofNat 64 (st * 2 ^ 62 + ev),
        if st = 2 then [] else if st = 0 then (0, cap + 2 ^ 32 * h1.length) :: entries else entries)

/-- Bytes written at their line's home, ending monitors (R128, R275). -/
def State.strongWrite (s : State) (sock : Nat) (ph : Phys) (bytes : List Byte) : State :=
  (s.homeWrite ph bytes).noteWrite (some sock) (lineOf ph.host ph.pa)

/-- The words of a heap record. -/
def State.heapWrite (s : State) (sock : Nat) (ph : Phys) (words : List (Nat × Nat)) : State :=
  words.foldl (fun s w => s.strongWrite sock { ph with pa := ph.pa + 8 * w.1 } (natBytes 8 w.2)) s

/-- A strong read-modify-write of a location at its home. One that leaves the value as it is is a write all the same, which
those that may be missed outlive; one that changes it may itself be missed (R141). -/
def State.strongUpdate (s : State) (r : Req) (ph : Phys) (old new : Nat) : State :=
  let line := lineOf ph.host ph.pa
  let kept := (s.pkg.late.filter (·.line == line)).filter fun _ => old == new
  let mine := if old = new then [] else [Late.mk line ph.pa r.size old (r.sock :: (s.watchers line).filter (· != r.sock)) []]
  ((s.strongWrite r.sock ph (natBytes r.size new)).modPkg fun p => (kept ++ mine).foldl Pkg.addLate p).modPkg
    (·.meet r.sock line true none)

/-- The arrival of a `RED` with `ARV` (R271, R398): a release at `.pkg`, then the arrival; a counter that
the region does not own gives a record instead, and the release is made all the same, of which the spec says nothing.
[DEDUCED, log 25] -/
def State.arriveFor (s : State) (r : Req) (ctr : Nat) : State :=
  let s1 := s.release r.sock
  if ownedBy (s.pkg.counter ctr).owner r.part r.region then s1.modPkg fun p => (p.arrive ctr 1#32).1
  else
    let rcb := match s.pkg.launch r.kern with
      | some l => l.rcb
      | none => (s.die r.sock).sr.rcbaddr.toNat
    s1.regionRecord rcb (regionRecordBytes 3 0 r.sock r.kern s.pkg.ptime.toNat ctr 0)

/-- The write of such a read ends monitors as any other does (R275), and hides no later write. -/
def State.noteEarlier (s : State) (sock line : Nat) : State :=
  (s.noteWrite (some sock) line).modPkg fun p => { p with late := s.pkg.late }

/-- A strong read that misses the latest write of its location: it stands before that write in coherence order, so it may
not change the value (R131, R141). -/
def State.staleRead (s : State) (r : Req) (ph : Phys) (new : Nat → Nat) : Option Late × State :=
  match s.misses r ph with
  | (none, s1) => (none, s1)
  | (some x, s1) =>
    if new x.old = x.old then
      (some x, s1.modPkg (·.meet r.sock x.line true (some x)))
    else (none, s1)

/-- A strong access of package memory is performed (R269-R272, R401). -/
def State.serveStrong (s : State) (r : Req) (ph : Phys) : State :=
  let line := lineOf ph.host ph.pa
  if s.pkg.lineBad line then s.perform r (.bad line)
  else
    let m := s.memNat ph.host ph.pa r.size
    let reply (v : Nat) : Reply := .data (BitVec.ofNat 64 v)
    let expect := r.data.toNat % 256 ^ r.size
    let swap := r.data2.toNat % 256 ^ r.size
    match r.kind with
    | .atom =>
      match s.staleRead r ph (fun v => atomNew r.op r.size v r.data.toNat) with
      | (some x, s1) => (s1.noteEarlier r.sock line).perform r (reply x.old)
      | (none, s1) => (s1.strongUpdate r ph m (atomNew r.op r.size m r.data.toNat)).perform r (reply m)
    | .cas =>
      match s.staleRead r ph (fun v => if v = expect then swap else v) with
      | (some x, s1) => s1.perform r (reply x.old)
      | (none, s1) =>
        (if m = expect then s1.strongUpdate r ph m swap else s1.modPkg (·.meet r.sock line true none)).perform r (reply m)
    | .heap =>
      let (v, words) := s.heapAt ph r.data.toNat
      ((s.heapWrite r.sock ph words).modPkg (·.meet r.sock line true none)).perform r (.data v)
    | _ =>
      let s1 := (s.strongUpdate r ph m (atomNew r.op r.size m r.data.toNat)).perform r .waiting
      match r.arv with
      | none => s1
      | some c => s1.arriveFor r c

/-- An earlier access of the control space is not yet performed. -/
def Pkg.controlBehind (p : Pkg) (r : Req) : Bool :=
  p.reqs.any fun x => x.sock == r.sock && x.id < r.id && x.stage != .performed && (x.kind == .krd || x.kind == .kwr)

/-- An access of the control space (R353, R354). -/
def State.serveControl (s : State) (r : Req) : State :=
  match objOf r.va.toNat with
  | none => s
  | some o =>
    if r.kind = .krd then s.perform r (.data (s.readObj r.part o))
    else (s.modPkg (·.putReq { r with stage := .performed })).writeObj r.part o r.data

/-- `STRONG_ACCESS_PERFORM` (R128, R270). -/
def execStrongAccessPerform (id : Nat) (s : State) : Out :=
  match s.pkg.req id with
  | none => .next s
  | some r =>
    if r.stage ≠ .walked then .next s
    else match r.kind with
      | .krd | .kwr => if s.pkg.controlBehind r then .next s else .next (s.serveControl r)
      | .atom | .cas | .heap | .red =>
        match r.phys with
        | none => .next s
        | some ph =>
          if s.pkg.behind r ∨ (r.arv.isSome ∧ s.pkg.unperformed r.sock r.id) then .next s
          else .next (s.serveStrong r ph)
      | _ => .next s

/-- The kind answers a landing-buffer entry. -/
def ReqKind.lands : ReqKind → Bool
  | .load | .loadRo | .atom | .cas | .heap | .krd => true
  | _ => false

/-- Reply data reaches the landing entry of a request, in the pipeline or in the snapshot (R30, R43). -/
def Die.deliver (d : Die) (id : Nat) (reply : Reply) : Die :=
  let put (l : Landing) : Landing := if l.id == id then { l with reply := reply } else l
  { d with
    pipe.landings := d.pipe.landings.map put
    ctl.snapshot := d.ctl.snapshot.map fun x => { x with landings := x.landings.map put } }

/-- `LANDING_DATA_ARRIVAL` (R30). -/
def execLandingDataArrival (id : Nat) (s : State) : Out :=
  match s.pkg.req id with
  | none => .next s
  | some r =>
    if r.stage = .performed ∧ r.kind.lands then
      let s1 := s.modPkg (·.dropReq id)
      .next (if s.resident r.sock r.kern then s1.modDie r.sock (·.deliver id r.reply) else s1)
    else .next s

/-- A refusal that is to be reported: the oldest store in order, and the count (R147). -/
def addRefusal (old : Option (Nat × Nat × Nat × Nat)) (id line agent : Nat) : Option (Nat × Nat × Nat × Nat) :=
  match old with
  | none => some (id, line, agent, 1)
  | some (i, l, a, n) => if id < i then some (id, line, agent, n + 1) else some (i, l, a, n + 1)

/-- The acknowledgement of a write reaches its die: a refusal and an error are kept until the next bundle
that waits for acknowledgement (R147, R401). -/
def Die.acknowledge (d : Die) (r : Req) : Die :=
  let d1 := match r.refused with
    | none => d
    | some (line, agent) => { d with ctl.refused := addRefusal d.ctl.refused r.id line agent }
  match r.reply with
  | .bad line => { d1 with ctl.dataErr := d1.ctl.dataErr.or (some (BitVec.ofNat 64 (lineAddr line))) }
  | _ => d1

/-- `STORE_ACKNOWLEDGE` (R263): a store, `RED` or control-space write; a strong access that lands is
acknowledged by its reply. -/
def execStoreAcknowledge (id : Nat) (s : State) : Out :=
  match s.pkg.req id with
  | none => .next s
  | some r =>
    if r.stage = .performed ∧ r.kind.writes ∧ ¬ r.kind.lands then
      let s1 := s.modPkg (·.dropReq id)
      .next (if s.resident r.sock r.kern then s1.modDie r.sock (·.acknowledge r) else s1)
    else .next s

/-- `RELEASE_COMPLETE` (R137, R144): the release that the acting die's bundle waits for is complete; its
lines are written back and published in the same step, and the bundle may commit. -/
def execReleaseComplete (s : State) : Out :=
  let d := s.here
  if d.ctl.releasing ∧ ¬ d.ctl.released ∧ ¬ s.pkg.unacknowledged s.cur s.pkg.nextId ∧
      ¬ s.enginesOut s.cur d.sr.kernid.toNat s.pkg.nextId 7 ∧ d.ctl.refused.isNone ∧ d.ctl.dataErr.isNone then
    .next ((s.release s.cur).mod fun d => { d with ctl.released := true })
  else .next s

end Sys2Proof.Machine
end

