-- ==== Sys2Proof/Machine/Copies.lean ====
section
/-! DEFINITION. The copy engine (R117-R124, R148, R390): the checks of a descriptor, the moves of its
elements in order, completion. -/
namespace Sys2Proof.Machine

/-! The checks of R118. -/

/-- A reserved field of the descriptor is nonzero (R117). -/
def CopyJob.reserved (c : CopyJob) : Bool :=
  fieldAt c.desc 30 2 != 0 || fieldAt c.desc 37 3 != 0 || fieldAt c.desc 45 3 != 0 || fieldAt c.desc 74 54 != 0 ||
    (List.range 14).any fun k =>
      (c.rank ≤ k && (c.ext k != 0 || c.dperm k != 0 || c.doff k != 0)) ||
        (c.src.rank ≤ k && (c.sperm k != 0 || c.soff k != 0))

/-- The descriptor is bad (R118). -/
def CopyJob.badDesc (c : CopyJob) : Bool :=
  let r := c.rank
  r == 0 || r == 15 || c.reserved || c.dst.rank != r || c.stat % 16 != 0 ||
    !((List.range r).all fun k => (List.range r).any fun j => c.dperm j == k) ||
    ((List.range c.src.rank).any fun k => r ≤ c.sperm k) || c.src.fmt != c.dst.fmt ||
    (c.blocks && (c.dperm 0 != 0 || c.sperm 0 != 0 || c.ext 0 % 32 != 0 || c.soff 0 % 32 != 0 ||
      c.doff 0 % 32 != 0 || c.src.sblk != c.dst.sblk)) ||
    (c.remote && c.dst.loc != 0)

/-- An entry fails R65 or R115. -/
def CopyJob.badTid (c : CopyJob) : Bool :=
  !c.src.ok || !c.dst.ok || !c.src.stridesOk || !c.dst.stridesOk

/-- A byte of a destination element lies in the active instruction bank (R113). -/
def CopyJob.hitsBank (c : CopyJob) : Bool :=
  let low : Int := if c.bank then 32768 else 0
  c.dst.loc == 3 && (List.range c.total).any fun m =>
    (c.dst.pieces (c.dstAt (c.index m))).any fun p => p.1 < low + 32768 && low < p.1 + p.2

/-- The highest code of the checks that fail (R118, R121); 0 when all pass. -/
def CopyJob.check (c : CopyJob) : Nat :=
  if c.remote && !c.present.getLsbD c.rdim then (if c.rdim < c.ndim then 7 else 6)
  else if c.remote && c.ndim ≤ c.rdim then 6
  else if c.hitsBank then 5
  else if c.dst.loc = 2 then 4
  else if c.badTid then 2
  else if c.badDesc then 1
  else 0

/-! The accesses (R104, R120, R145, R148, R390, R401-R404). -/

/-- What an access of a copy finds. -/
inductive Access where
  | bytes (l : List Byte)
  /-- Outside the location class: zeros, or a dropped write. -/
  | outside
  /-- An uncorrectable error or a fenced stack, with its status code. -/
  | bad (code : Nat)
  /-- The line is another agent's, unpublished: the engine waits (R148). -/
  | wait
  /-- The page is migrating (R404). -/
  | migrating (va : Int)
  | fault (f : TransFault) (va : Int)
deriving DecidableEq, Repr

/-- The status code of a bad line (R121, R402). -/
def Pkg.badCode (p : Pkg) (line : Nat) : Nat := if p.badStacks.contains (Config.homeStack line) then 8 else 9

/-- The address of an access in package memory; what stands in its way. -/
def State.copyPlace (s : State) (e : Engine) (a : Int) (write : Bool) : Except Access Phys × State :=
  if a < 0 ∨ 2 ^ 57 ≤ a ∨ e.aborts.contains (write, a.toNat) then (.error .outside, s)
  else match s.translate e.sock e.part a write with
    | (.error f, s1) => (.error (.fault f a), s1)
    | (.ok ph, s1) =>
      let line := lineOf ph.host ph.pa
      if ph.mig then (.error (.migrating a), s1)
      else if s1.pkg.lineBad line ∧ ¬ write then (.error (.bad (s1.pkg.badCode line)), s1)
      else if s1.pkg.badStacks.contains (Config.homeStack line) ∧ ¬ ph.host then (.error (.bad 8), s1)
      else if s1.pkg.races e.sock line then (.error .wait, s1)
      else (.ok ph, s1.modPkg (·.meet e.sock line false none))

/-- The bytes of an instruction bank (R104, R113). -/
def Die.bankByte (d : Die) (a : Nat) : Byte :=
  ((Store.get 0#16 d.arr.ib (a / 2)) >>> (8 * (a % 2))).setWidth 8

/-- A range lies in a class of a size. -/
def inRange (a : Int) (n size : Nat) : Bool := 0 ≤ a && a + n ≤ size

/-- The weight store that a copy of a kernel reads: the die keeps it while the kernel is away. -/
def State.weightByte (s : State) (e : Engine) (a : Nat) : Byte := Store.get 0#8 (s.die e.sock).arr.ws a

/-- Read a piece of an element. -/
def State.copyRead (s : State) (e : Engine) (loc : Nat) (a : Int) (n : Nat) : Access × State :=
  let d := s.kernelDie e.sock e.kern
  match loc with
  | 0 => match s.copyPlace e a false with
    | (.error x, s1) => (x, s1)
    | (.ok ph, s1) => (.bytes (s1.memRead ph.host ph.pa n), s1)
  | 1 => (if inRange a n d.spsize then .bytes (s.engineRead e.sock e.kern a n) else .outside, s)
  | 2 => (if inRange a n Config.wsSize then
      .bytes ((List.range n).map fun i => s.weightByte e (a.toNat + i)) else .outside, s)
  | _ => (if inRange a n 65536 then .bytes ((List.range n).map fun i => d.bankByte (a.toNat + i)) else .outside, s)

/-- Read the pieces of an element: bytes outside the location class read as zero, with code `RANGE`, beside those inside
(R108, R120); anything else that is not read decides. -/
def State.copyReads (s : State) (e : Engine) (loc : Nat) : List (Int × Nat) → Except Access (List Byte × Nat) × State
  | [] => (.ok ([], 0), s)
  | (a, n) :: rest =>
    let go (l : List Byte) (code : Nat) (s : State) : Except Access (List Byte × Nat) × State :=
      match State.copyReads s e loc rest with
      | (.ok (m, c), s2) => (.ok (l ++ m, max code c), s2)
      | r => r
    match s.copyRead e loc a n with
    | (.bytes l, s1) => go l 0 s1
    | (.outside, s1) => go (List.replicate n 0#8) 3 s1
    | (x, s1) => (.error x, s1)

/-- A copy writes one byte of an instruction bank; the old word may still be fetched until an `IFENCE` after the
observation of its completion (R217). -/
def Die.bankWrite (d : Die) (copy a : Nat) (b : Byte) : Die :=
  let w := Store.get 0#16 d.arr.ib (a / 2)
  let keep : BitVec 16 := if a % 2 = 0 then 0xFF00#16 else 0x00FF#16
  let known := d.arr.ibOld.any fun x => x.word == a / 2 && x.copy == copy
  { d with
    arr.ib := Store.set 0#16 d.arr.ib (a / 2) ((w &&& keep) ||| (b.setWidth 16 <<< (8 * (a % 2))))
    arr.ibOld := if known then d.arr.ibOld else ⟨a / 2, w, copy, none, false⟩ :: d.arr.ibOld }

/-- The words that a copy wrote may be observed through its flag from its completion on (R134). -/
def Die.bankDone (d : Die) (copy flag : Nat) : Die :=
  let mark (x : OldWord) : OldWord := if x.copy == copy then { x with flag := some flag } else x
  { d with arr.ibOld := d.arr.ibOld.map mark }

/-- Bytes into an instruction bank of a kernel's die; into its image, wherever that lies, while the kernel is away, with
the words they replace, which the resumed stream may still fetch (R217, R342, R379). -/
def State.bankWrites (s : State) (e : Engine) (a : Nat) (l : List Byte) : State :=
  let put (d : Die) : Die := l.zipIdx.foldl (fun d b => d.bankWrite e.id (a + b.2) b.1) d
  if s.resident e.sock e.kern then s.modDie e.sock put
  else match s.pkg.imageOf e.sock e.kern with
    | some i => l.zipIdx.foldl (fun s b =>
        let p := i.place.at (0x4E000 + a + b.2)
        s.physWrite p.1 p.2 [b.1]) (s.modKernelDie e.sock e.kern put)
    | none => s.modDie e.sock put

/-- An ordinary write of a copy (R128, R143, R275, R401). -/
def State.copyStore (s : State) (e : Engine) (ph : Phys) (l : List Byte) : State :=
  let line := lineOf ph.host ph.pa
  let s1 := (s.homeWrite ph l).modPkg fun p =>
    let q := if ph.host then p else p.cover ph.pa l.length
    q.retag e.sock line
  s1.noteWrite none line

/-- Where a write of a copy goes. -/
inductive Target where
  /-- Outside its class: dropped (R120). -/
  | drop
  /-- It meets an error, with its status code (R402). -/
  | bad (code : Nat)
  /-- Package memory, as an ordinary write (R128). -/
  | memory (ph : Phys)
  /-- Package memory, as an inbound write of a remote copy (R124). -/
  | inbound (ph : Phys)
  /-- A link, to the partner's package, which translates it and answers (R124). -/
  | link
  /-- The scratchpad; the instruction banks. -/
  | scratch
  | bank
deriving DecidableEq, Repr

/-- Where a remote write goes (R124): on dimensions 0-3 it is an inbound write of this package; otherwise it goes to the
partner's package (`serveInbound`). -/
def State.remoteTarget (s : State) (e : Engine) (c : CopyJob) (a : Int) : Except Access Target × State :=
  if a < 0 ∨ 2 ^ 57 ≤ a ∨ e.aborts.contains (true, a.toNat) then (.ok .drop, s)
  else if 4 ≤ c.dim then (.ok .link, s)
  else if s.pkg.sock (e.sock ^^^ 2 ^ c.dim) = .fenced then (.ok (.bad 8), s)
  else match s.translate e.sock e.part a true with
    | (.error f, s1) => (.error (.fault f a), s1)
    | (.ok ph, s1) =>
      if ph.mig then (.error (.migrating a), s1)
      else if ¬ ph.host ∧ s1.pkg.badStacks.contains (Config.homeStack (lineOf false ph.pa)) then (.ok (.bad 8), s1)
      else (.ok (.inbound ph), s1)

/-- Where a piece of an element is written, or what stands in its way. -/
def State.copyTarget (s : State) (e : Engine) (c : CopyJob) (a : Int) (n : Nat) : Except Access Target × State :=
  match c.dst.loc with
  | 0 =>
    if c.remote then s.remoteTarget e c a
    else match s.copyPlace e a true with
      | (.error .outside, s1) => (.ok .drop, s1)
      | (.error (.bad k), s1) => (.ok (.bad k), s1)
      | (.error x, s1) => (.error x, s1)
      | (.ok ph, s1) => (.ok (.memory ph), s1)
  | 1 => (.ok (if inRange a n (s.kernelDie e.sock e.kern).spsize then .scratch else .drop), s)
  | _ => (.ok (if inRange a n 65536 then .bank else .drop), s)

/-- Where every piece of an element is written: an element is one access, so nothing of it is written while a piece of it
cannot be (R120). -/
def State.copyTargets (s : State) (e : Engine) (c : CopyJob) :
    List (Int × Nat) → Except Access (List (Int × Nat × Target)) × State
  | [] => (.ok [], s)
  | (a, n) :: rest =>
    match s.copyTarget e c a n with
    | (.error x, s1) => (.error x, s1)
    | (.ok t, s1) => match State.copyTargets s1 e c rest with
      | (.error x, s2) => (.error x, s2)
      | (.ok l, s2) => (.ok ((a, n, t) :: l), s2)

/-- The outcome of the writes of an element: bytes written, writes sent over a link, the highest code. -/
structure Wrote where
  bytes : Nat
  sent : Nat
  code : Nat
deriving DecidableEq, Repr

/-- Write a piece; a dropped one leaves `RANGE` (R120). A write over a link has its place among the operation's (R308). -/
def State.copyPut (s : State) (e : Engine) (c : CopyJob) (index : Nat) (a : Int) (l : List Byte) : Target → Wrote × State
  | .drop => (⟨0, 0, 3⟩, s)
  | .bad k => (⟨0, 0, k⟩, s)
  | .memory ph => (⟨l.length, 0, 0⟩, s.copyStore e ph l)
  | .inbound ph => (⟨l.length, 0, 0⟩, if ph.host then s.physWrite true ph.pa l else s.inboundWrite ph.pa l)
  | .link =>
    let own := s.pkg.regs.pkgid.toNat
    let x : Inbound := ⟨0, own, e.id, index, e.part, e.sock, e.kern, e.region, a, l, false⟩
    (⟨0, 1, 0⟩, s.modPkg fun p => { p with
      outbox := p.outbox ++ [p.across c.dim (.copyWrite (own ^^^ 2 ^ (c.dim - 4)) x)] })
  | .scratch => (⟨l.length, 0, 0⟩, s.engineWrite e.sock e.kern a l)
  | .bank => (⟨l.length, 0, 0⟩, s.bankWrites e a.toNat l)

/-- Write the pieces of an element. -/
def State.copyPuts (s : State) (e : Engine) (c : CopyJob) (index : Nat) :
    List (Int × Nat × Target) → List Byte → Wrote × State
  | [], _ => (⟨0, 0, 0⟩, s)
  | (a, n, t) :: rest, l =>
    let (w, s1) := s.copyPut e c index a (l.take n) t
    let (v, s2) := State.copyPuts s1 e c (index + w.sent) rest (l.drop n)
    (⟨w.bytes + v.bytes, w.sent + v.sent, max w.code v.code⟩, s2)

/-- A copy waits, with the access that the fault service holds. -/
def Engine.holdAt (e : Engine) (write : Bool) (a : Int) : Engine :=
  { e with stage := .stalled, held := some (write, a.toNat) }

/-- A copy whose access cannot be made now (R148, R390, R404). -/
def State.copyStall (s : State) (e : Engine) (write : Bool) : Access → State
  | .fault f a =>
    (s.modPkg (·.putEngine (e.holdAt write a))).reportFault
      ⟨e.part, a, if write then 4 else 3, f.code, e.sock, e.kern, e.region⟩ (.engine e.id)
  | .migrating a => s.modPkg (·.putEngine (e.holdAt write a))
  | _ => s

/-- A move is made: its bytes join the CRC (R122). -/
def Progress.step (p : Progress) (code bytes sent : Nat) (l : List Byte) : Progress :=
  ⟨p.moved + 1, (l.foldl crcByte (BitVec.ofNat 32 p.crc)).toNat, p.bytes + bytes, max p.code code, p.sent + sent, p.acked⟩

/-- One move (R119, R120, R122). A source that is not delivered leaves its destination as it is; a move that waits has
written nothing. -/
def State.copyMove (s : State) (e : Engine) (c : CopyJob) : State :=
  let ix := c.index e.prog.moved
  let note (s : State) (code bytes sent : Nat) (l : List Byte) : State :=
    s.modPkg (·.putEngine { e with prog := e.prog.step code bytes sent l, held := none, aborts := [] })
  match s.copyReads e c.src.loc (c.src.pieces (c.srcAt ix)) with
  | (.ok (l, code), s1) =>
    match s1.copyTargets e c (c.dst.pieces (c.dstAt ix)) with
    | (.error x, s2) => s2.copyStall e true x
    | (.ok ts, s2) =>
      let (w, s3) := s2.copyPuts e c e.prog.sent ts l
      note s3 (max code w.code) w.bytes w.sent l
  | (.error (.bad k), s1) => note s1 k 0 0 []
  | (.error x, s1) => s1.copyStall e false x

/-- Moves in order, as many as a number allows and the copy can make. [DEDUCED, log 20] -/
def State.copyMoves : Nat → Nat → State → State
  | 0, _, s => s
  | n + 1, id, s =>
    match s.pkg.engine id with
    | none => s
    | some e =>
      match e.job with
      | .copy c =>
        if e.stage = .begun ∧ e.prog.moved < c.total then State.copyMoves n id (s.copyMove e c) else s
      | _ => s

/-- Copies of a socket in progress (R123). -/
def Pkg.copying (p : Pkg) (sock : Nat) : Nat :=
  (p.engines.filter fun e => e.sock == sock && match e.job with
    | .copy _ => e.stage != .sent
    | _ => false).length

/-- The oldest copy of a socket that waits (R123). -/
def Pkg.nextCopy (p : Pkg) (sock : Nat) : Option Engine :=
  p.engines.find? fun e => e.sock == sock && match e.job with
    | .copy _ => e.stage == .sent
    | _ => false

/-- A copy of the engines' list. -/
def Pkg.copyOf (p : Pkg) (id : Nat) : Option (Engine × CopyJob) :=
  match p.engine id with
  | none => none
  | some e => match e.job with
    | .copy c => some (e, c)
    | _ => none

/-- An access of the stream before an operation is not yet performed: a request, a vector on its way through an output
port, a scale record of `TQNT` (R120, R128, R130), those that the image of a kernel keeps while it is away among them. -/
def State.waitsFor (s : State) (e : Engine) : Bool :=
  let d := s.kernelDie e.sock e.kern
  let lives := s.resident e.sock e.kern || (s.pkg.imageOf e.sock e.kern).isSome
  s.pkg.unperformed e.sock e.id ||
    (lives && (d.tab.outq.any (·.sent < e.cycle) || d.pipe.scales.any (·.sent < e.cycle)))

/-- The copy may start: it is the socket's oldest waiting, one of eight, behind the stream's earlier
accesses (R123, R130). -/
def State.copyReady (s : State) (e : Engine) : Bool :=
  s.pkg.nextCopy e.sock == some e && s.pkg.copying e.sock < Config.copyInProgress && !s.waitsFor e

/-- A copy that passes its checks goes on; one that fails them moves nothing (R117, R118). -/
def CopyJob.moves (c : CopyJob) : Bool := c.inside && c.check == 0

/-- `COPY_START` (R123): a waiting copy starts; a copy in progress makes its next `n` moves. [DEDUCED, log 20] -/
def execCopyStart (id n : Nat) (s : State) : Out :=
  match s.pkg.copyOf id with
  | none => .next s
  | some (e, c) =>
    let go (s : State) : State := if c.moves then s.copyMoves n id else s
    if e.stage = .begun then .next (go s)
    else if e.stage = .sent ∧ s.copyReady e then .next (go (s.modPkg (·.engineStage id .begun)))
    else .next s

/-- A release by an engine operation at a scope may complete (R137); `.sub` is `.pkg` when the kernel's subcube lies in
one package (R127). -/
def State.releaseReady (s : State) (e : Engine) (scope : Nat) : Bool :=
  !s.enginesOut e.sock e.kern e.id ((s.kernelDie e.sock e.kern).scope scope)

/-- The status record of a copy (R121); none where `STAT` is misaligned. -/
def copyRecord (c : CopyJob) (code crc bytes : Nat) : List (Int × List Byte) :=
  if c.stat % 16 = 0 then [((c.stat : Int), natBytes 4 code ++ natBytes 4 crc ++ natBytes 8 bytes)] else []

/-- A release by an engine operation: a release event of its die, whether its kernel is still there or not (R133, R143,
R144). -/
def State.opRelease (s : State) (e : Engine) (scope : Nat) : State := s.releaseAt e.sock scope

/-- A copy that has made every move: its record, its release, its flag (R119). -/
def State.copyFinish (s : State) (e : Engine) (c : CopyJob) : State :=
  let crc := if c.desc.getLsbD 28 then e.prog.crc ^^^ 0xFFFFFFFF else 0
  let scope := fieldAt c.desc 25 3
  let s1 := if c.desc.getLsbD 24 then s.opRelease e scope else s
  (s1.modKernelDie e.sock e.kern fun d => if e.orphan then d else d.bankDone e.id e.flag).finish e
    (copyRecord c e.prog.code crc e.prog.bytes) (e.prog.code != 0)

/-- `COPY_COMPLETE` (R117-R121, R124): the moves left to a copy in progress, then its completion, once every write that
crossed a link is answered. [DEDUCED, log 20] -/
def execCopyComplete (id : Nat) (s : State) : Out :=
  match s.pkg.copyOf id with
  | none => .next s
  | some (e, c) =>
    if e.stage ≠ .begun then .next s
    else if ¬ c.inside then .next (s.finish e [] true)
    else if c.check ≠ 0 then .next (s.finish e (copyRecord c c.check 0 0) true)
    else
      let s1 := s.copyMoves (c.total - e.prog.moved) id
      match s1.pkg.engine id with
      | none => .next s1
      | some e1 =>
        let rel := ¬ c.desc.getLsbD 24 ∨ s1.releaseReady e1 (fieldAt c.desc 25 3)
        if e1.prog.moved = c.total ∧ e1.prog.acked = e1.prog.sent ∧ rel then .next (s1.copyFinish e1 c) else .next s1

end Sys2Proof.Machine
end

