-- ==== Sys2Proof/Machine/Launching.lean ====
section
/-! DEFINITION. The scheduler (chapter 19): the checks at enqueue, the choice of launches, reservations and
pre-emption requests, the preparation and start of dies, saving and resuming, completion; the runtime's
calls (R350). -/
namespace Sys2Proof.Machine

/-! The launch packet (R366). -/

def pktParam (b : BitVec 1024) (i : Nat) : Nat := if i < 8 then fieldAt b (64 * i) 64 else fieldAt b (512 + 32 * (i - 8)) 32
def pktStartv (b : BitVec 1024) : Bool := b.getLsbD (64 * 10 + 11)
def pktKeep (b : BitVec 1024) : Bool := b.getLsbD (64 * 10 + 9)
def pktPriov (b : BitVec 1024) : Bool := b.getLsbD (64 * 10 + 8)
def pktPrio (b : BitVec 1024) : Nat := fieldAt b (64 * 10 + 4) 4
def pktStartctr (b : BitVec 1024) : Nat := fieldAt b (64 * 14 + 40) 16
def pktTarget (b : BitVec 1024) : Nat := fieldAt b (64 * 15 + 32) 32
def pktScratch (b : BitVec 1024) : Nat := fieldAt b (64 * 15) 16 * 65536

/-- The reserved fields are zero. -/
def pktFieldsOk (b : BitVec 1024) : Bool :=
  fieldAt b (64 * 10 + 57) 7 == 0 && fieldAt b (64 * 10) 4 == 0 && fieldAt b (64 * 11 + 57) 7 == 0 &&
    fieldAt b (64 * 11 + 5) 3 == 0 && fieldAt b (64 * 13 + 60) 4 == 0 && fieldAt b (64 * 14 + 56) 8 == 0 &&
    (List.range 20).all fun i => i < pktNdim b || pktDim b i == 0

/-- Bits outside a mask of 24. -/
def outside (x mask : Nat) : Nat := x &&& (mask ^^^ 0xFFFFFF)

/-- R16. -/
def subcubeOk (b : BitVec 1024) : Bool :=
  let n := pktNdim b
  let mask := pktScmask b
  let base := pktScbase b
  let dims := (List.range n).map (pktDim b)
  n ≤ 20 && mask < 2 ^ 20 && ((List.range 24).filter (mask.testBit ·)).length == n && base &&& mask == 0 &&
    dims.all (mask.testBit ·) && (List.range n).all (fun i => (List.range i).all fun j => pktDim b i != pktDim b j) &&
    (List.range 16).all fun k => (pktDies b).testBit k == (outside (k ^^^ base) mask % 16 == 0)

/-- The descriptor's fields are in range and its reserved bits zero (R363). -/
def State.descOk (s : State) (a : Nat) : Bool :=
  let w (off : Nat) : Nat := s.memNat false (a + off) 8
  let addr (off n : Nat) : Bool := w off < 2 ^ 57 && w off % n == 0
  bitsAt (w 0) 0 17 == 65537 && bitsAt (w 0) 17 15 == 0 && addr 0x08 64 &&
    bitsAt (w 0x10) 15 1 == 0 && bitsAt (w 0x10) 16 48 ≤ 32768 && addr 0x18 64 && w 0x20 ≤ 16384 &&
    addr 0x28 16 && w 0x30 ≤ 4096 && addr 0x38 64 && w 0x40 ≤ 256 && addr 0x48 64 && w 0x50 ≤ 64 &&
    addr 0x58 8 && w 0x60 ≤ 512 && (List.range 19).all fun i => w (0x68 + 8 * i) == 0

/-- The subcube lies inside its region's partition (R420). -/
def Pkg.inPartition (p : Pkg) (part : Nat) (b : BitVec 1024) : Bool :=
  p.partitions.any fun x => x.isOpen && x.id == part && outside (pktScbase b ^^^ x.base.toNat) x.mask.toNat == 0 &&
    outside (pktScmask b) x.mask.toNat == 0

/-- A packet that a VF's ring brings must name a block of that VF's partition (R423). -/
def Pkg.ringAllows (p : Pkg) (origin part : Nat) : Bool :=
  origin < 17 || 33 ≤ origin || p.partitions.any fun x => x.id == part && x.fn == origin - 16

/-! Reads of a launch's objects (R363, R364, R375, R384). -/

/-- What stops a preparation read: a fault, a line that meets an error, a migrating page. -/
inductive PrepStop where
  | fault (f : TransFault) (va : Nat)
  | bad (line : Nat)
  | wait
deriving DecidableEq, Repr

/-- A step of a preparation, and what follows when it succeeds. -/
def prepThen {α β : Type} (x : Except PrepStop α × State) (k : α → State → Except PrepStop β × State) :
    Except PrepStop β × State :=
  match x with
  | (.error e, s) => (.error e, s)
  | (.ok a, s) => k a s

/-- Doublewords of the partition's virtual memory (R384), unchecked for races (R145). -/
def State.prepWords (s : State) (part : Nat) (va : Nat) : Nat → Except PrepStop (List Byte) × State
  | 0 => (.ok [], s)
  | n + 1 =>
    match s.translate 16 part va false with
    | (.error f, s1) => (.error (.fault f va), s1)
    | (.ok ph, s1) =>
      if ph.mig then (.error .wait, s1)
      else if s1.pkg.lineBad (lineOf ph.host ph.pa) then (.error (.bad (lineOf ph.host ph.pa)), s1)
      else prepThen (State.prepWords s1 part (va + 8) n) fun l s2 => (.ok (s1.memRead ph.host ph.pa 8 ++ l), s2)

/-- Numbers of `n` bytes each. -/
def splitBytes (n : Nat) : Nat → List Byte → List Nat
  | 0, _ => []
  | k + 1, l => bytesNat (l.take n) :: splitBytes n k (l.drop n)

/-- A weight-load entry in range: multiples of 64, inside the weight store, nothing reserved set (R363).
[DEDUCED, log 11] -/
def weightEntryOk (e : Nat) : Bool :=
  let off := bitsAt e 64 28
  let n := bitsAt e 96 28
  bitsAt e 57 7 == 0 && bitsAt e 92 4 == 0 && bitsAt e 124 4 == 0 && bitsAt e 0 57 % 64 == 0 && off % 64 == 0 &&
    n % 64 == 0 && off + n ≤ Config.wsSize

/-- The weight-load list and the shape initialisers of a descriptor, where they can be read at enqueue, hold no
value out of its range (R363, R367). [DEDUCED, log 11] -/
def State.listsOk (s : State) (part a : Nat) : Bool :=
  let w (off : Nat) : Nat := s.memNat false (a + off) 8
  let get (va n size : Nat) (ok : Nat → Bool) : Bool :=
    match (s.prepWords part va (n * size / 8)).1 with
    | .ok l => (splitBytes size n l).all ok
    | .error _ => true
  get (w 0x28) (w 0x30) 16 weightEntryOk && get (w 0x58) (w 0x60) 8 fun e => bitsAt e 41 23 == 0

/-- The checks of R367, in order: the code of the first that fails, or 0. [DEDUCED, log 11] -/
def State.enqueueCode (s : State) (b : BitVec 1024) (origin level : Nat) : Nat :=
  let rcb := pktRcb b
  let part := s.rcbPart rcb
  if ¬ pktFieldsOk b ∨ ¬ s.descOk (pktKdesc b) ∨ ¬ s.listsOk part (pktKdesc b) ∨ ¬ s.rcbOk rcb ∨
      ¬ s.pkg.ringAllows origin part then 9
  else if ¬ subcubeOk b ∨ ¬ s.pkg.inPartition part b then 10
  else if 0x2400000 < pktScratch b then 11
  else if Config.launchEntries ≤ (s.pkg.launches.filter fun l => l.level == level && (l.waits || l.chosen)).length ∨
      s.effDies rcb < 2 ^ pktNdim b ∨ ¬ s.fits .qent rcb 1 then 3
  else 0

/-- The level of a packet (R362, R367). -/
def State.packetLevel (s : State) (b : BitVec 1024) : Nat :=
  if pktPriov b then s.clampPrio (pktRcb b) (pktPrio b) else s.effPrio (pktRcb b)

/-- The start condition holds now, or its counter carries a token (R369). -/
def Pkg.startHolds (p : Pkg) (b : BitVec 1024) : Bool :=
  let k := p.counter (pktStartctr b)
  !pktStartv b || k.token || decide (pktTarget b ≤ k.value.toNat)

/-- The place of an enqueue in the order of one Brocade cycle: host rings and other packages before `ENQL` and `KCALL`
packets in socket order (R368). -/
def enqueuePlace (origin : Nat) : Nat := if 1 ≤ origin ∧ origin ≤ 16 then origin else 0

/-- A packet is taken in that order: one whose place has passed in this cycle is taken in the next (R368).
[DEDUCED, log 24] -/
def Pkg.mayEnqueue (p : Pkg) (origin : Nat) : Bool := p.enqAt.1 != p.clk || decide (p.enqAt.2 ≤ enqueuePlace origin)

/-- Enqueue a packet (R367-R369, R374): the code, the kernel id, the state. A copy of another package has the `PTIME` and
the kind that the packet had there. -/
def State.enqueue (s : State) (b : BitVec 1024) (origin kind : Nat) (time : Word) : Nat × Nat × State :=
  let level := s.packetLevel b
  let code := s.enqueueCode b origin level
  if code ≠ 0 then (code, 0, s)
  else
    let rcb := pktRcb b
    let id := s.pkg.nextKern
    let now := s.pkg.ptime
    let l : Launch := {
      id := id
      packet := b
      origin := origin
      kind := kind
      level := level
      region := s.rcb rcb 0 0 32
      rcb := rcb
      part := s.rcbPart rcb
      runnable := if s.pkg.startHolds b then some now.toNat else none
      stage := .queued
      reserved := []
      running := []
      ended := []
      saved := []
      fenced := []
      halted := 0#16
      status := []
      code := 0
      faulted := false
      resume := false
      started := 0
      reported := false
      remoteReady := false
      readyFrom := []
      awayFrom := []
      qent := true
      startedFrom := []
      when := if 33 ≤ origin then time else now
      sel := 0
      yield := false
      absent := []
      farEnded := []
      gone := [] }
    let copies : List HostMsg := if 33 ≤ origin then []
      else (otherPackages s.pkg.regs.pkgid.toNat b).map fun d => s.pkg.toPackage d (.launch d s.pkg.regs.pkgid.toNat kind b now)
    let s1 := s.modPkg fun p =>
      let q := p.joinRound level rcb id
      { q with launches := q.launches ++ [l], nextKern := q.nextKern + 1, nextId := q.nextId + 1,
               enqAt := (q.clk, enqueuePlace origin), outbox := q.outbox ++ copies }
    (0, id, s1.charge .qent rcb 1)

/-- The completion record of a refused launch (R439). -/
def refusedBytes (code time : Nat) : List Byte :=
  natBytes 4 0 ++ natBytes 2 code ++ natBytes 2 0 ++ natBytes 8 time ++ natBytes 48 0

/-- The packet that a launch ring's next entry holds (R423). -/
def State.ringPacket (s : State) (fn : Nat) : Option (BitVec 1024) :=
  let r := s.pkg.ring fn
  if r.prod = r.cons ∨ r.size = 0 then none
  else some (BitVec.ofNat 1024 (s.memNat true (r.base.toNat + 128 * (r.cons % 2 ^ r.size)) 128))

/-- The packet is at hand: the next entry of a launch ring, or a copy from another package. -/
def State.packetHere (s : State) (b : BitVec 1024) (origin : Nat) : Bool :=
  33 ≤ origin || (originFn origin).any fun fn => s.ringPacket fn == some b

/-- `LAUNCH_ENQUEUE` (R367, R368): the next packet of a launch ring (its entry is consumed) or one from another
package; nothing is accepted before step 8 of bring-up (R426). [DESIGN CHOICE, log 4] -/
def execLaunchEnqueue (b : BitVec 1024) (origin : Nat) (time : Word) (s : State) : Out :=
  if s.pkg.regs.bootStep ≠ 8#4 ∨ ¬ s.packetHere b origin ∨ ¬ s.pkg.mayEnqueue origin then .next s
  else
    let (code, _, s1) := s.enqueue b origin (if 33 ≤ origin then 0 else origin) time
    match originFn origin with
    | none => .next s1
    | some fn =>
      let s2 := if 33 ≤ origin then s1
        else s1.modPkg fun p => p.setRing fn { p.ring fn with cons := (p.ring fn).cons + 1 }
      .next (if code ≠ 0 ∧ origin < 33 then s2.hostRecord fn (refusedBytes code s.pkg.ptime.toNat) else s2)

/-! Selection and reservations (R370-R373). -/

/-- The dies a launch needs here: the present dies of its mask, for a resume the sockets it left. -/
def Pkg.wanted (p : Pkg) (l : Launch) : List Nat :=
  if l.resume then l.saved.filter (p.sock · == .active)
  else sockets.filter fun k => (pktDies l.packet).testBit k && p.sock k == .active

/-- Replicated launches are ordered by level, the origin's `PTIME` at the enqueue, the origin's package id (R374). -/
def Pkg.orderedBefore (p : Pkg) (a b : Launch) : Bool :=
  a.multi && b.multi && (b.level < a.level || (a.level == b.level && (a.when.toNat < b.when.toNat ||
    (a.when == b.when && p.originPkg a < p.originPkg b))))

/-- The selection that takes a die that none holds: the highest level, then the oldest (R371). [DEDUCED, log 24] -/
def Launch.before (a b : Launch) : Bool := b.level < a.level || (a.level == b.level && a.sel < b.sel)

/-- The launch that holds the reservation of a die (R371, R374): the one that held it, unless a launch newly selected
at a higher level takes it over, or a replicated launch of earlier order needs it. [DEDUCED, log 24] -/
def Pkg.holder (p : Pkg) (new : Option Nat) (k : Nat) : Option Launch :=
  let cands := p.launches.filter fun l => l.chosen && (p.wanted l).contains k
  let first := cands.foldl (fun (c : Option Launch) l => match c with
    | none => some l
    | some x => if l.before x then some l else c) none
  let start := (cands.find? fun l => l.reserved.contains k).or first
  let take (c l : Launch) : Launch :=
    if (new == some l.id && c.level < l.level) || p.orderedBefore l c then l else c
  start.map fun c => cands.foldl take c

/-- Reservations as they stand after the selection of a launch, or after another change (R371, R374). -/
def Pkg.reserveAll (p : Pkg) (new : Option Nat) : Pkg :=
  let held := sockets.map fun k => (k, (p.holder new k).map (·.id))
  let fix (l : Launch) : Launch :=
    { l with reserved := if l.chosen then (p.wanted l).filter fun k => held.contains (k, some l.id) else [] }
  { p with launches := p.launches.map fix }

/-- Every die of a kernel has a pre-emption request (R350, R372): the kernel has yielded, one of its dies
has saved, or a launch of a higher level has reserved a die of it. -/
def Pkg.asked (p : Pkg) (l : Launch) : Bool :=
  l.yield || !l.saved.isEmpty ||
    p.launches.any fun b => b.chosen && b.runnable.isSome && l.level < b.level && b.reserved.any l.running.contains

/-- Reservations, then pre-emption requests, as they now stand. [DEDUCED, log 24] -/
def State.rearrange (s : State) : State :=
  let s1 := s.modPkg (·.reserveAll none)
  s1.pkg.launches.foldl (fun s l =>
    l.running.foldl (fun s k => s.modDie k fun d => { d with ctl.preempt := s1.pkg.asked l }) s) s1

/-- Select a launch (R371). -/
def State.selectLaunch (s : State) (l : Launch) : State :=
  s.modPkg fun p =>
    { (p.putLaunch { l with stage := .selected, sel := p.nextId }) with nextId := p.nextId + 1 }.reserveAll (some l.id)

/-- The selections of one visit, oldest first, while the deficit covers the cost (R370). -/
def State.selectWhile (s : State) (deficit : Nat) : List Launch → Nat × State
  | [] => (deficit, s)
  | l :: rest =>
    let cost := (s.pkg.wanted l).length
    if cost ≤ deficit then State.selectWhile (s.selectLaunch l) (deficit - cost) rest else (deficit, s)

/-- One visit to a region at a level (R370); a region with no launch queued there leaves the round.
[DEDUCED, log 24] -/
def State.visit (s : State) (v rcb deficit : Nat) : Option Nat × State :=
  let ws := s.pkg.launches.filter fun l => l.waits && l.level == v && l.rcb == rcb
  let rs := ws.filter (·.runnable.isSome)
  if ws.isEmpty then (none, s)
  else if rs.isEmpty then (some 0, s)
  else
    let (left, s1) := s.selectWhile (deficit + s.effDies rcb) rs
    (some left, s1)

/-- One round of a level, in order. [DEDUCED, log 24] -/
def State.round (s : State) (v : Nat) : State :=
  let step (acc : List (Nat × Nat) × State) (g : Nat × Nat) : List (Nat × Nat) × State :=
    match acc.2.visit v g.1 g.2 with
    | (none, s1) => (acc.1, s1)
    | (some left, s1) => (acc.1 ++ [(g.1, left)], s1)
  let (r, s1) := (Store.get [] s.pkg.rounds v).foldl step ([], s)
  s1.modPkg fun p => { p with rounds := Store.set [] p.rounds v r }

/-- `LAUNCH_SELECT` (R370, R371): a round of the highest level that has a runnable launch; at the levels above,
where none is, the regions' deficits return to 0. [DESIGN CHOICE, log 4; DEDUCED, log 24] -/
def execLaunchSelect (s : State) : Out :=
  let s1 := s.cancelDoomed
  let level (v : Nat) : Bool := s1.pkg.launches.any fun l => l.waits && l.runnable.isSome && l.level == v
  let low := (((List.range 16).reverse).find? level).getD 0
  .next ((((List.range 16).reverse).filter (low ≤ ·)).foldl State.round s1).rearrange

/-- `AGE_PROMOTION` (R373). -/
def execAgePromotion (id : Nat) (s : State) : Out :=
  match s.pkg.launch id with
  | none => .next s
  | some l =>
    match l.runnable with
    | none => .next s
    | some t =>
      let due := t + s.pkg.regs.agep.toNat
      if (l.waits ∨ l.chosen) ∧ l.level < 15 ∧ due ≤ s.pkg.ptime.toNat then
        .next (s.modPkg fun p =>
          (p.putLaunch { l with level := l.level + 1, runnable := some due }).joinRound (l.level + 1) l.rcb l.id).rearrange
      else .next s

/-- Every die a launch needs is reserved for it and free (R371); the reservation of a fenced die has lapsed (R383). -/
def State.diesFree (s : State) (l : Launch) : Bool :=
  (s.pkg.wanted l).all fun k => l.reserved.contains k && (s.die k).ctl.run == .idle && s.pkg.sock k == .active

/-- `LAUNCH_READY_REPORT` (R374): this package holds its dies, none of which still runs another kernel, or (`far`) the
others have reported. [DEDUCED, log 24] -/
def execLaunchReadyReport (id : Nat) (far : Bool) (s : State) : Out :=
  match s.pkg.launch id with
  | none => .next s
  | some l =>
    if far then .next (s.modPkg (·.putLaunch { l with remoteReady := true }))
    else if l.stage = .selected ∧ l.multi ∧ s.diesFree l then
      let o := s.pkg.originPkg l
      let msgs : List HostMsg := if l.origin < 33 then [] else [s.pkg.toPackage o (.ready o s.pkg.regs.pkgid.toNat l.packet l.when)]
      .next (s.modPkg fun p => { (p.putLaunch { l with stage := .ready, reported := true }) with
        outbox := p.outbox ++ msgs })
    else .next s

/-- The other packages whose report the origin waits for: all of the subcube at the start, those that are away at a
resumption (R374, R382). [DEDUCED, log 24] -/
def Launch.needs (l : Launch) (own : Nat) : List Nat :=
  if l.stage = .ready ∧ ¬ l.resume then otherPackages own l.packet else l.awayFrom

/-- Every report that the origin waits for is in; at a resumption its own dies may be running, or done (R374, R382). -/
def Launch.allReady (l : Launch) (own : Nat) : Bool :=
  (l.stage == .ready || ((l.stage == .running || l.stage == .done) && !l.awayFrom.isEmpty)) &&
    (l.remoteReady || (l.needs own).all l.readyFrom.contains)

/-- The start time *T* that the origin chooses (R374). -/
def Pkg.startTime (p : Pkg) : Word := p.ptime + BitVec.ofNat 64 (Config.startMargin + 2 * p.pskew.toNat)

/-- `START_TIME_BROADCAST` (R374): the origin chooses *T*; another package takes the origin's. -/
def execStartTimeBroadcast (id : Nat) (t : Word) (s : State) : Out :=
  match s.pkg.launch id with
  | none => .next s
  | some l =>
    let own := s.pkg.regs.pkgid.toNat
    if 33 ≤ l.origin then
      .next (if l.stage = .ready then s.modPkg (·.putLaunch { l with stage := .timed t }) else s)
    else if l.allReady own then
      let start := s.pkg.startTime
      let msgs : List HostMsg := (l.needs own).map fun d => s.pkg.toPackage d (.start d l.packet l.when start)
      let l1 := { l with
        stage := if l.stage = .ready then .timed start else l.stage
        remoteReady := false, readyFrom := [], awayFrom := [] }
      .next (s.modPkg fun p => { p.putLaunch l1 with outbox := p.outbox ++ msgs })
    else .next s

/-! Preparation (R364, R375). -/

/-- The weight-load list's data: offset and bytes of each entry (R363). -/
def State.prepWeights (s : State) (part : Nat) : List Nat → Except PrepStop (List (Nat × List Byte)) × State
  | [] => (.ok [], s)
  | e :: rest =>
    prepThen (s.prepWords part (bitsAt e 0 57) (bitsAt e 96 28 / 8)) fun l s1 =>
      prepThen (State.prepWeights s1 part rest) fun m s2 => (.ok ((bitsAt e 64 28, l) :: m), s2)

/-- What a kernel's descriptor leads to (R363). -/
structure KernelData where
  entry : Nat
  bound : Nat
  words : List Nat
  dict : List Nat
  weights : List (Nat × List Byte)
  tids : List Nat
  chans : List Nat
  shapes : List Nat
deriving DecidableEq, Repr

/-- Read a kernel's descriptor and the objects it names (R364, R375). -/
def State.readKernel (s : State) (l : Launch) : Except PrepStop KernelData × State :=
  let a := pktKdesc l.packet
  let w (off : Nat) : Nat := s.memNat false (a + off) 8
  let nw := bitsAt (w 0x10) 16 16
  let get (s : State) (va bytes : Nat) : Except PrepStop (List Byte) × State := s.prepWords l.part va ((bytes + 7) / 8)
  if s.pkg.lineBad (lineOf false a) then (.error (.bad (lineOf false a)), s)
  else if s.pkg.lineBad (lineOf false (a + 128)) then (.error (.bad (lineOf false (a + 128))), s)
  else
    prepThen (get s (w 0x18) (48 * w 0x20)) fun dict s =>
    prepThen (get s (w 0x08) (2 * nw)) fun code s =>
    prepThen (get s (w 0x28) (16 * w 0x30)) fun wl s =>
    prepThen (s.prepWeights l.part (splitBytes 16 (w 0x30) wl)) fun weights s =>
    prepThen (get s (w 0x38) (64 * w 0x40)) fun tids s =>
    prepThen (get s (w 0x48) (64 * w 0x50)) fun chans s =>
    prepThen (get s (w 0x58) (8 * w 0x60)) fun shapes s =>
    (.ok ⟨bitsAt (w 0x10) 0 15, bitsAt (w 0) 32 32, splitBytes 2 nw code, splitBytes 48 (w 0x20) dict, weights,
      splitBytes 64 (w 0x40) tids, splitBytes 64 (w 0x50) chans, splitBytes 8 (w 0x60) shapes⟩, s)

/-- A list as a store from key 0. -/
def storeOf {w : Nat} (l : List Nat) : Store (BitVec w) :=
  l.zipIdx.foldl (fun m e => Store.set 0 m e.2 (BitVec.ofNat w e.1)) []

/-- The logical rank of a die (R17). -/
def rankOf (b : BitVec 1024) (gid : Nat) : Nat :=
  ((List.range (pktNdim b)).map fun i => if (gid ^^^ pktScbase b).testBit (pktDim b i) then 2 ^ i else 0).sum

/-- Global id of a socket. -/
def Pkg.globalId (p : Pkg) (k : Nat) : Nat := p.regs.pkgid.toNat * 16 + k

/-- A run of twelve map fields; 31 at or above `NDIM` (R14, R15). -/
def dmap (b : BitVec 1024) (first : Nat) : BitVec 60 :=
  (List.range 12).foldl (fun v i =>
    putBits v (5 * i) 5 (if first + i < pktNdim b then pktDim b (first + i) else 31)) 0#60

/-- `PRESENT` of a die (R14, R19), from the sockets that start here and the ranks absent elsewhere. -/
def presentBits (b : BitVec 1024) (rank k : Nat) (here absent : List Nat) : BitVec 24 :=
  (List.range (pktNdim b)).foldl (fun v i =>
    let d := pktDim b i
    let there := if d < 4 then here.contains (k ^^^ 2 ^ d) else !absent.contains (rank ^^^ 2 ^ i)
    if there then v ||| BitVec.ofNat 24 (2 ^ i) else v) 0#24

/-- Weight-store contents after a weight-load list (R363, R375). [DEDUCED, log 11] -/
def loadWeights (ws : Store Byte) (l : List (Nat × List Byte)) : Store Byte :=
  l.foldl (fun ws e => e.2.zipIdx.foldl (fun ws b =>
    if e.1 + b.2 < Config.wsSize then Store.set 0#8 ws (e.1 + b.2) b.1 else ws) ws) ws

/-- Shape records after the initialisers, in list order (R363). [DEDUCED, log 11] -/
def loadShapes (l : List Nat) : Store (BitVec 32) :=
  l.foldl (fun m e => Store.set 0#32 m
    (shapeKey (bitsAt e 38 2) (bitsAt e 36 2) (bitsAt e 40 1) (bitsAt e 32 4)) (BitVec.ofNat 32 e)) []

/-- Scratchpad banks of a request (R106). -/
def banksFor (bytes : Nat) : Nat := (bytes + Config.mib - 1) / Config.mib

/-- Steps 1 and 2 of R106: dirty lines in banks that become scratchpad are written back. -/
def State.convertBanks (s : State) (k snew : Nat) : State :=
  let sold := (s.die k).spsize / Config.mib
  let inBanks (e : Nat × Option L1Line) : Bool := match e.2 with
    | none => false
    | some l => sold ≤ l.bank && l.bank < snew
  (((s.die k).cache.l1.filter inBanks).map (·.1)).foldl (fun s n => s.writeBack k n) s

/-- Registers of a fresh kernel (R24). -/
def startRegs (old : Regs) (b : BitVec 1024) : Regs :=
  { Regs.cold with
    s := (List.range 12).foldl (fun m i => Store.set 0#64 m (i + 3) (BitVec.ofNat 64 (pktParam b i))) []
    kbs := old.kbs, kbp := old.kbp }

/-- Special registers of a fresh kernel (R14, R24, R69, R375). -/
def startSregs (old : Sregs) (p : Pkg) (l : Launch) (k snew : Nat) (here absent : List Nat) : Sregs :=
  let b := l.packet
  let rank := rankOf b (p.globalId k)
  { Sregs.cold with
    rank := BitVec.ofNat 24 rank, ndim := BitVec.ofNat 5 (pktNdim b)
    dmaplo := dmap b 0, dmaphi := dmap b 12
    scbase := BitVec.ofNat 24 (pktScbase b), scmask := BitVec.ofNat 24 (pktScmask b)
    present := presentBits b rank k here absent
    spsize := BitVec.ofNat 26 (snew * Config.mib)
    kernid := BitVec.ofNat 32 l.id, regionid := BitVec.ofNat 32 l.region
    partid := BitVec.ofNat 16 l.part, rcbaddr := BitVec.ofNat 57 l.rcb
    kstat := old.kstat &&& 4#8, kvec := old.kvec, freezemax := old.freezemax, msel := old.msel }

/-- A die prepared for a kernel (R106 step 3, R375). -/
def Die.prepared (old : Die) (p : Pkg) (l : Launch) (x : KernelData) (start k : Nat) (here absent : List Nat) : Die :=
  let snew := banksFor (pktScratch l.packet)
  let sold := old.spsize / Config.mib
  let region := old.sr.regionid.toNat == l.region
  let same := region && old.sr.partid.toNat == l.part
  let sp := if pktKeep l.packet ∧ region then old.arr.sp.filter fun e => e.1 < min sold snew * Config.mib else []
  { Die.cold with
    regs := startRegs old.regs l.packet
    sr := startSregs old.sr p l k snew here absent
    ctl := { Ctl.cold with run := .running, start := start, pc := x.entry, bank := decide (16384 ≤ x.entry), bound := x.bound }
    tab := { Tables.cold with shape := loadShapes x.shapes, tid := storeOf x.tids, chan := storeOf x.chans }
    arr := { Arrays.cold with
      sp := sp
      ws := loadWeights (if same then old.arr.ws else []) x.weights
      ib := storeOf x.words, dict := storeOf x.dict, dictN := x.dict.length
      rbank := old.arr.rbank, rdict := old.arr.rdict, rdictN := old.arr.rdictN }
    cache := { Caches.cold with l1 := old.cache.l1 } }

/-- One record of a backlog ring is applied: data, status word, flag (R381). [DEDUCED, log 21] -/
def Die.applyBacklog (d : Die) (b : Backlog) : Die :=
  let d1 := d.spWrite b.dest b.bytes
  let (d2, dropped) := match b.statusOff with
    | none => (d1, false)
    | some a => (d1.spWrite a (natBytes 8 b.statusWord.toNat), !d1.spInside a 8)
  match b.flag with
  | none => d2
  | some f => d2.setFlag f (dropped || 2 ≤ b.statusWord.toNat % 2 ^ 32)

/-- A die that resumes its kernel from an image (R382); a point that `CTXSV` saved is returned to as `ERET`
does. [DEDUCED, log 21] -/
def Die.resumed (old : Die) (s : State) (start : Nat) (i : Image) (x : KernelData) : Die :=
  let d := imageDie (s.imageCells i.place) i
  let same := old.sr.regionid == d.sr.regionid && old.sr.partid == d.sr.partid
  let e := old.keepRuntime (d.reclock start)
  let f : Die := { e with
    arr.dict := storeOf x.dict, arr.dictN := x.dict.length
    arr.ws := loadWeights (if same then old.arr.ws else []) x.weights
    sr.flg := e.sr.flg ||| i.flg, sr.flgerr := e.sr.flgerr ||| i.flgerr
    sr.monstat := (e.sr.monstat &&& 2#3) ||| 4#3
    cache := { Caches.cold with l1 := old.cache.l1 }
    ctl.run := .running, ctl.start := start, ctl.preempt := false, ctl.fetched := none, ctl.bound := x.bound }
  let g := if i.byRuntime then f.restore (start - 1) (f.skipsD true) else f
  (s.pkg.backlog.filter fun b => b.kern == i.kern && b.sock == i.sock).foldl Die.applyBacklog g

/-- Prepare one die of a launch. [DESIGN CHOICE, log 1] -/
def State.prepareDie (s : State) (l : Launch) (x : KernelData) (start : Nat) (here absent : List Nat) (k : Nat) : State :=
  if l.resume then
    match s.pkg.imageOf k l.id with
    | none => s
    | some i =>
      let s1 := (s.convertBanks k (i.die.spsize / Config.mib)).bringHome i.place
      let s2 := s1.setDie k ((s1.die k).resumed s1 start i x)
      let s3 := s2.modPkg fun p => { p with
        images := p.images.filter fun y => !(y.away && y.kern == l.id && y.sock == k)
        backlog := p.backlog.filter fun b => !(b.kern == l.id && b.sock == k) }
      if i.charged then s3.discharge .hbm l.rcb (s3.imageCharge l.rcb) else s3
  else
    let s1 := s.convertBanks k (banksFor (pktScratch l.packet))
    s1.setDie k ((s1.die k).prepared s1.pkg l x start k here absent)

/-- The entry that a launch holds in the queue is returned once it has started in every package of its subcube (R367). -/
def State.settleQent (s : State) (id : Nat) : State :=
  match s.pkg.launch id with
  | none => s
  | some l =>
    let there := (otherPackages s.pkg.regs.pkgid.toNat l.packet).all l.startedFrom.contains
    if l.qent ∧ ¬ l.waits ∧ ¬ l.chosen ∧ there then
      (s.modPkg (·.putLaunch { l with qent := false })).discharge .qent l.rcb 1
    else s

/-- The dies of a descheduled kernel whose sockets have been fenced since end before the others resume (R382, R400).
[DEDUCED, log 21] -/
def State.loseDies (s : State) (l : Launch) : State :=
  (l.saved.filter (s.pkg.sock · != .active)).foldl (fun s k =>
    (s.returnTiles k l.id (s.effPolicy l.rcb)).endAway k l.id codeFaulted 0#16) s

/-- The start of a launch on its dies, which issue their first bundles at one die clock edge (R25, R367, R370, R374,
R375). -/
def State.startLaunch (s : State) (l0 : Launch) (x : KernelData) (start : Nat) (far : List Nat) : State :=
  let s0 := if l0.resume then s.loseDies l0 else s
  let l := (s0.pkg.launch l0.id).getD l0
  let here := s0.pkg.wanted l
  let out := (sockets.filter fun k => (pktDies l.packet).testBit k && !here.contains k).map fun k =>
    rankOf l.packet (s.pkg.globalId k)
  let absent := if l.resume then l.absent else far ++ out
  let s1 := here.foldl (fun s k => s.prepareDie l x start here absent k) s0
  let s2 := s1.charge .dies l.rcb here.length
  let s3 := s2.modPkg (·.putLaunch { l with
    stage := .running, running := here, reserved := [], saved := [], resume := false, yield := false
    started := if l.resume then l.started else (s.pkg.timeAt start).toNat, absent := absent })
  let s4 := if l.resume then s3 else s3.tellOthers l fun d => .started d s.pkg.regs.pkgid.toNat l.packet l.when
  (s4.settleQent l.id).rearrange

/-- A preparation that cannot go on (R375, R390). -/
def State.stopPrepare (s : State) (l : Launch) : PrepStop → State
  | .fault f va =>
    (s.modPkg (·.putLaunch { l with faulted := true })).reportFault
      ⟨l.part, va, 5, f.code, 0xFF, l.id, l.region⟩ (.launch l.id)
  | .bad line =>
    if s.pkg.badStacks.contains (Config.homeStack line) then s.cancelLaunch l 8 else s.launchFault l
  | .wait => s

/-- The start time of a launch is fixed. -/
def Launch.isTimed (l : Launch) : Bool :=
  match l.stage with
  | .timed _ => true
  | _ => false

/-- The launch may start at this moment (R374). -/
def State.startDue (s : State) (l : Launch) : Bool :=
  !l.faulted && match l.stage with
    | .selected => !l.multi
    | .timed t => t.toNat ≤ s.pkg.ptime.toNat
    | _ => false

/-- No die of the subcube is present (R376). -/
def State.nowhere (s : State) (l : Launch) (far : List Nat) : Bool :=
  (s.pkg.wanted l).isEmpty && (List.range (2 ^ pktNdim l.packet)).all fun r =>
    far.contains r || gidOf l.packet r / 16 == s.pkg.regs.pkgid.toNat

/-- Start a launch whose time has come, at a die clock edge (R25, R370, R374-R376). -/
def State.startNow (s : State) (l : Launch) (start : Nat) (far : List Nat) : State :=
  if s.doomed l then (s.cancelLaunch l 2).rearrange
  else if l.resume ∧ s.pkg.wanted l = [] then (s.dropDescheduled l).rearrange
  else if s.nowhere l far then
    (s.cancelLaunch { l with absent := List.range (2 ^ pktNdim l.packet) } 2).rearrange
  else if ¬ s.diesFree l ∨ ¬ s.fits .dies l.rcb (s.pkg.wanted l).length then s
  else match s.readKernel l with
    | (.error e, s1) => s1.stopPrepare l e
    | (.ok x, s1) => s1.startLaunch l x start far

/-- `GANG_START` (R25, R370, R374-R376): at the next die clock edge; the ranks that are absent in other packages may
be known before *T*. [DESIGN CHOICE, log 4; DEDUCED, log 24] -/
def execGangStart (id : Nat) (absent : List Nat) (s : State) : Out :=
  match s.pkg.launch id with
  | none => .next s
  | some l =>
    if s.startDue l then .next (s.startNow l (s.pkg.clk + 1) (l.absent ++ absent))
    else if l.isTimed then .next (s.modPkg (·.putLaunch { l with absent := l.absent ++ absent }))
    else .next s

/-- At each die clock edge the launches whose *T* has come start (R374). -/
def State.startTimed (s : State) : State :=
  (s.pkg.launches.filter fun l => l.isTimed && s.startDue l).foldl (fun s l => s.startNow l s.pkg.clk l.absent) s

/-- `SAVE_COMPLETE` (R378): the acting die's save, when its stores are acknowledged and its landing data is
in. -/
def execSaveComplete (s : State) : Out :=
  let d := s.here
  if d.ctl.run = .saving ∧ ¬ s.pkg.unacknowledged s.cur s.pkg.nextId ∧ d.landingsIn then
    let a := Config.imagePage d.sr.kernid.toNat s.cur * 4096
    .next ((s.saveContext s.cur (placeAt a) false).deschedule s.cur).rearrange
  else .next s

/-- `COMPLETION_ACTION` (R376, R377): every present die of the kernel has ended, and it has started in every package; the
package that does not complete it reports its own dies' end. -/
def execCompletionAction (id : Nat) (s : State) : Out :=
  match s.pkg.launch id with
  | none => .next s
  | some l =>
    if l.stage = .running ∧ l.running = [] ∧ l.saved = [] ∧ l.qent = false ∧ (s.pkg.completer l ≠ s.pkg.regs.pkgid.toNat ∨ s.pkg.farDone l) then
      .next (s.completeLaunch l).rearrange
    else .next s

/-! The runtime's calls (R350). -/

/-- Results of a call, and the return to the kernel, as `ERET` makes it (R348). -/
def Die.callReturn (d : Die) (clk : Nat) (code value : Nat) : Die :=
  ((d.writeDest (.s 3) (BitVec.ofNat 16384 (code % 2 ^ 64))).writeDest (.s 4)
    (BitVec.ofNat 16384 (value % 2 ^ 64))).restore clk (d.skipsD true)

/-- Serve the call of a number on the acting die: a call of no number of the table answers all ones; the
call of another number is not this one's to serve. -/
def runtimeCall (n : Nat) (f : Nat → State → Nat × Nat × State) (s : State) : Out :=
  let d := s.here
  let call := (d.readS 3#6).toNat
  if ¬ (d.inK ∧ d.sr.tcause = 0x17#8 ∧ d.pipe.due = [] ∧ d.pipe.landings = []) then .next s
  else
    let answer (r : Nat × Nat × State) : Out := .next (r.2.2.mod fun d => d.callReturn s.pkg.clk r.1 r.2.1)
    if call = n then answer (f (d.readS 4#6).toNat s)
    else if call = 0 ∨ 5 < call then answer (2 ^ 64 - 1, 0, s)
    else .next s

/-- The completion record of a launch that a `KCALL` brings and R367 refuses (R376, R439): it goes to the fault ring of the
region that the packet names, or of the caller's when that is no region. [DEDUCED, log 24] -/
def State.refusedCall (s : State) (b : BitVec 1024) (code : Nat) : State :=
  let time := s.pkg.ptime.toNat
  let rcb := if s.rcbOk (pktRcb b) then pktRcb b else s.here.sr.rcbaddr.toNat
  s.regionRecord rcb (callRecordBytes b time (refusedBytes code time))

/-- `KC_ENQUEUE` (R350): a release at `.part`, which it waits for as `ENQL` does (R283), whatever its answer. -/
def execKcEnqueue (s : State) : Out :=
  let waits := s.pkg.unacknowledged s.cur s.pkg.nextId || s.enginesOut s.cur s.here.sr.kernid.toNat s.pkg.nextId 5
  if s.here.readS 3#6 = 1#64 ∧ (waits ∨ ¬ s.pkg.mayEnqueue (s.cur + 1)) then .next s
  else runtimeCall 1 (fun a s =>
    let d := s.here
    let s1 := s.release s.cur
    if a % 128 ≠ 0 ∨ ¬ d.spInside a 128 then (9, 0, s1)
    else
      let b := BitVec.ofNat 1024 (d.spNat a 128)
      let (code, id, s2) := s1.enqueue b (s.cur + 1) (s.cur + 1) 0#64
      (code, id, if code = 0 then s2 else s2.refusedCall b code)) s

/-- `KC_YIELD` (R350). -/
def execKcYield (s : State) : Out :=
  runtimeCall 2 (fun _ s =>
    match s.pkg.launch s.here.sr.kernid.toNat with
    | none => (0, 0, s)
    | some l => (0, 0, (s.modPkg (·.putLaunch { l with yield := true })).rearrange)) s

/-- `KC_TQOPEN` (R350). -/
def execKcTqopen (s : State) : Out :=
  runtimeCall 3 (fun a s =>
    let q := a % 64
    let x := s.pkg.pair q
    if ¬ ownedBy x.owner s.here.sr.partid.toNat s.here.sr.regionid.toNat then (5, 0, s)
    else if x.high ≠ [] ∨ x.low ≠ [] then (6, 0, s)
    else (0, 0, s.modPkg (·.openPair q))) s

/-- `KC_BARRESET` (R350). -/
def execKcBarreset (s : State) : Out :=
  runtimeCall 4 (fun a s =>
    let b := a % 4096
    let x := s.pkg.barrier b
    if ownedBy x.owner s.here.sr.partid.toNat s.here.sr.regionid.toNat then (0, x.waiting.length, s.modPkg (·.barrierReset b))
    else (5, 0, s)) s

/-- `KC_REGION` (R350). -/
def execKcRegion (s : State) : Out :=
  runtimeCall 5 (fun _ s =>
    let rcb := s.here.sr.rcbaddr.toNat
    (0, s.effPrio rcb + s.effFdom rcb * 2 ^ 16 + s.here.sr.partid.toNat * 2 ^ 32, s)) s

end Sys2Proof.Machine
end

