-- ==== Sys2Proof/Machine/FaultEvents.lean ====
section
/-! DEFINITION. The fault service, migration, errors, reset and admission of dies (R391-R405, R428, R429,
R434). -/
namespace Sys2Proof.Machine

/-- `FAULT_RECORD_WRITE` (R391): the oldest held record, when the ring has room. -/
def execFaultRecordWrite (s : State) : Out := .next s.writeFaultRecord

/-- `FRCTL_WRITE` (R389, R391). [DEDUCED, log 9] -/
def execFrctlWrite (v : Word) (s : State) : Out := .next (s.writeFrctl v)

/-- `FRANS_RETRY` (R393). [DEDUCED, log 9] -/
def execFransRetry (index : BitVec 16) (s : State) : Out := .next (s.answerFault 1 index.toNat)
/-- `FRANS_KILL` (R393). -/
def execFransKill (index : BitVec 16) (s : State) : Out := .next (s.answerFault 2 index.toNat).rearrange
/-- `FRANS_ABORT` (R393). -/
def execFransAbort (index : BitVec 16) (s : State) : Out := .next (s.answerFault 3 index.toNat).rearrange

/-- `MIGRATION_START` (R405): a write of `MIGCMD` with `GO`. -/
def execMigrationStart (s : State) : Out := .next (s.writeMigcmd 1#64)

/-- Add to a counter that saturates (R389). -/
def satAdd (x : BitVec 32) (n : Nat) : BitVec 32 := BitVec.ofNat 32 (min (2 ^ 32 - 1) (x.toNat + n))

/-- Count uncorrectable errors, and corrected ones (R401). -/
def Pkg.countUncorr (p : Pkg) (n : Nat) : Pkg := { p with regs.errUncorr := satAdd p.regs.errUncorr n }
def Pkg.countCorr (p : Pkg) (n : Nat) : Pkg := { p with regs.errCorr := satAdd p.regs.errCorr n }

/-- A line is lost (R401). -/
def Pkg.loseLine (p : Pkg) (line : Nat) : Pkg :=
  if lineHost line then p else { p with lost := Store.set 0#128 p.lost line (BitVec.allOnes 128) }

/-! Migration (R405). -/

/-- A line of package memory lies in a page. -/
def linePage (line a bytes : Nat) : Bool := !lineHost line && a ≤ lineAddr line && lineAddr line < a + bytes

/-- Step 3: every access that translated to the page is performed. -/
def Pkg.drained (p : Pkg) (m : Migration) : Bool :=
  p.reqs.all fun r => match r.phys with
    | none => true
    | some ph => r.stage != .walked || ph.host || ph.pa < m.src || m.src + m.bytes ≤ ph.pa

/-- The entries of a sparse map whose keys lie in one range, moved to another; what lay there goes.
[DESIGN CHOICE, log 5] -/
def moveRange {α : Type} [DecidableEq α] (dflt : α) (m : Store α) (src dst n : Nat) : Store α :=
  let moved := m.filter fun e => src ≤ e.1 && e.1 < src + n
  let rest := m.filter fun e => !(dst ≤ e.1 && e.1 < dst + n)
  moved.foldl (fun m e => Store.set dflt m (e.1 - src + dst) e.2) rest

/-- Lines that a die's caches hold of a page, and its monitor, go (step 4). -/
def Die.dropPage (d : Die) (a bytes : Nat) : Die :=
  let d1 := { d with cache.ro := d.cache.ro.filter fun e => !linePage e.1 a bytes }
  match d1.cache.mon with
  | some l => if linePage l a bytes then d1.loseMonitor else d1
  | none => d1

/-- Write back the dirty lines of a page. -/
def State.flushPage (s : State) (a bytes : Nat) : State :=
  sockets.foldl (fun s k =>
    (((s.die k).cache.l1.map (·.1)).filter (linePage · a bytes)).foldl (fun s l => s.writeBack k l) s) s

/-- Lines of a page that meet an error: those known, and those that lie or would lie on a fenced stack (R401, R402). -/
def Pkg.badLines (p : Pkg) (m : Migration) : List Nat :=
  if p.badStacks = [] then (p.lost.map (·.1)).filter (linePage · m.src m.bytes)
  else ((List.range (m.bytes / 128)).map (m.src / 128 + ·)).filter fun l =>
    p.lineBad l || p.badStacks.contains (Config.homeStack (l - m.src / 128 + m.dst / 128))

/-- Step 4: the page is copied with its tags; lines that meet errors are copied as lost. [DESIGN CHOICE, log 5] -/
def State.migrate (s : State) (m : Migration) (bad : List Nat) : State :=
  let s1 := (s.flushPage m.src m.bytes).flushPage m.dst m.bytes
  let met := bad.filter (linePage · m.src m.bytes)
  let s2 := s1.modPkg fun p =>
    let p1 := (met.foldl Pkg.loseLine p).countUncorr met.length
    let lostNow := p1.badLines m
    let p2 := { p1 with
      mem := moveRange Memory.empty p1.mem m.src m.dst m.bytes
      tags := moveRange Tag.published p1.tags (m.src / 128) (m.dst / 128) (m.bytes / 128)
      lost := p1.lost.filter fun e => !linePage e.1 m.dst m.bytes
      late := []
      migration := none
      regs.migcmd := (p1.regs.migcmd &&& ~~~2#4) ||| (if lostNow = [] then 4#4 else 12#4) }
    lostNow.foldl (fun p l => p.loseLine (l - m.src / 128 + m.dst / 128)) p2
  sockets.foldl (fun s k => s.modDie k fun d => d.dropPage m.src m.bytes) s2

/-- `MIGRATION_DONE` (R405): `bad` names the lines of the page that meet an uncorrectable error in step 4.
[DESIGN CHOICE, log 5] -/
def execMigrationDone (bad : List Nat) (s : State) : Out :=
  match s.pkg.migration with
  | none => .next s
  | some m => .next (if s.pkg.drained m then s.migrate m bad else s)

/-! Errors (R401, R402). -/

/-- An engine operation meets an uncorrectable error (R121, R291, R401). -/
def Engine.meetError (e : Engine) : Engine :=
  match e.job with
  | .copy _ => { e with prog := { e.prog with code := max 9 e.prog.code } }
  | .exchange x => { e with job := .exchange { x with fail := max 12 x.fail } }
  | _ => e

/-- A memory request meets an uncorrectable error: its reply or its acknowledgement tells (R401).
[DEDUCED, log 36] -/
def State.badRequest (s : State) (id : Nat) : State :=
  match s.pkg.req id with
  | none => s
  | some r => match r.phys with
    | none => s
    | some ph => if r.kind = .monitor then s else s.perform r (.bad (lineOf ph.host ph.pa))

/-- A store of a die is lost on its way home at a release (R401). [DEDUCED, log 36] -/
def State.badRelease (s : State) (sock line : Nat) : State :=
  match s.dirtyCopy sock line with
  | none => s
  | some l =>
    if l.dirty = 0#128 then s else
    let s1 := s.modDie sock fun d => { d with
      cache.l1 := Store.set none d.cache.l1 line none
      ctl.dataErr := d.ctl.dataErr.or (some (BitVec.ofNat 64 (lineAddr line))) }
    s1.modPkg (·.loseLine line)

/-- The first address in package memory that the next move of a copy walks for, and whether it writes there. -/
def CopyJob.nextWalk (c : CopyJob) (moved : Nat) : Option (Bool × Int) :=
  let ix := c.index moved
  let first (l : List (Int × Nat)) (w : Bool) : Option (Bool × Int) := l.head?.map fun p => (w, p.1)
  if c.src.loc = 0 then first (c.src.pieces (c.srcAt ix)) false
  else if c.dst.loc = 0 ∧ ¬ (c.remote ∧ 4 ≤ c.dim) then first (c.dst.pieces (c.dstAt ix)) true
  else none

/-- The walk of a request or of a copy meets an error in a page table (R401): fault cause `WALKERR`. [DEDUCED, log 36] -/
def State.badWalk (s : State) (id : Nat) : State :=
  match s.pkg.req id with
  | some r => if r.stage = .issued ∧ r.kind.memory then s.failWalk r .walkErr else s
  | none => match s.pkg.copyOf id with
    | none => s
    | some (e, c) =>
      if ¬ (e.stage = .begun ∧ c.moves ∧ e.prog.moved < c.total) then s
      else match c.nextWalk e.prog.moved with
        | none => s
        | some (w, a) => s.copyStall e w (.fault .walkErr a)

/-- So does a walk of a launch's preparation, for the first object it reads (R375, R401). [DEDUCED, log 36] -/
def State.badPrepare (s : State) (id : Nat) : State :=
  match s.pkg.launch id with
  | none => s
  | some l => if l.chosen ∧ ¬ l.faulted then
      s.stopPrepare l (.fault .walkErr (s.memNat false (pktKdesc l.packet + 0x18) 8)) else s

/-- `UNCORRECTABLE_ERROR` (R401): a clean line is fetched again and counted as corrected. [DEDUCED, log 36] -/
def execUncorrectableError (site : ErrSite) (s : State) : Out :=
  let t := s.modPkg (·.countUncorr 1)
  match site with
  | .die k =>
    if (t.die k).ctl.run ≠ .idle then .next (t.modDie k fun d => { d with ctl.arrayErr := true })
    else .next (if t.pkg.sock k = .active then (t.fence k 0 false).rearrange else t)
  | .landing id => .next (t.badRequest id)
  | .store id => .next (t.badRequest id)
  | .release k line => .next (t.badRelease k line)
  | .engine id =>
    let meet (e : Engine) : Engine := if e.id == id then e.meetError else e
    .next (t.modPkg fun p => { p with engines := p.engines.map meet })
  | .lineClean => .next (s.modPkg (·.countCorr 1))
  | .lineDirty line => .next (t.modPkg (·.loseLine line))
  | .stack n => .next (t.modPkg fun p =>
      if n < 12 ∧ ¬ p.badStacks.contains n then { p with badStacks := p.badStacks ++ [n] } else p)
  | .pageTable id => .next (t.badWalk id)
  | .launchTable id => .next (t.badPrepare id)

/-- `CORRECTED_ERROR` (R401). [DEDUCED, log 36] -/
def execCorrectedError (s : State) : Out := .next (s.modPkg (·.countCorr 1))

/-- `STACK_READMISSION` (R402): its contents read as zero; its lines carry no loss and no tag.
[DESIGN CHOICE, log 5] -/
def execStackReadmission (stack : BitVec 4) (s : State) : Out :=
  let n := stack.toNat
  if ¬ s.pkg.badStacks.contains n then .next s
  else
    let there (line : Nat) : Bool := !lineHost line && Config.homeStack line == n
    let s1 := s.modPkg fun p => { p with
      badStacks := p.badStacks.filter (· != n)
      mem := p.mem.filter fun e => !there (lineOf false e.1)
      tags := p.tags.filter fun e => !there e.1
      lost := p.lost.filter fun e => !there e.1 }
    .next (sockets.foldl (fun s k => s.modDie k fun d => { d with
      cache.l1 := d.cache.l1.filter fun e => !there e.1
      cache.ro := d.cache.ro.filter fun e => !there e.1 }) s1)

/-! Dies (R400, R428, R429, R434). -/

/-- `DIE_RESET_DONE` (R400), of the acting socket: nothing of the die is left but its region number. -/
def execDieResetDone (s : State) : Out :=
  let k := s.cur
  if s.pkg.sock k = .resetting then .next ((s.setDie k Die.cold).modPkg (·.setSock k .empty)) else .next s

/-- `THERMAL_FENCE` (R434): M's fence command on the acting socket. -/
def execThermalFence (s : State) : Out := .next (s.dieCommand s.cur 1).rearrange

/-- Bytes of the flash. -/
def Carrier.flashBytes (c : Carrier) (a n : Nat) : List Byte :=
  (List.range n).map fun i => Store.get Memory.empty c.flash (a + i)

/-- The firmware header's fields (R427). -/
def Carrier.header (c : Carrier) (a n : Nat) : Nat := bytesNat (c.flashBytes a n)

/-- The bytes of the runtime image, a part of the firmware body (R428). [DESIGN CHOICE, log 22] -/
def Carrier.runtimeBytes (c : Carrier) : List Byte := Config.runtimePart (c.flashBytes 256 (c.header 8 4))

/-- What a runtime image's bytes hold: at most 4,096 index words and 1,024 bundles (R344). [DESIGN CHOICE, log 22] -/
def runtimeOf (b : List Byte) : RuntimeImage :=
  let dict := (Config.runtimeDict b).take 1024
  ⟨storeOf ((Config.runtimeWords b).take 4096), storeOf dict, dict.length, Config.runtimeKvec b⟩

/-- A die with the runtime image that admission loads (R344, R428, R429). [DEDUCED, log 36] -/
def Die.admitted (r : RuntimeImage) : Die :=
  { Die.cold with sr.kvec := r.kvec, arr.rbank := r.words, arr.rdict := r.dict, arr.rdictN := r.n }

/-- A socket that passes gets the runtime image, which is measured (R428, R432). -/
def State.beginAdmission (s : State) (k : Nat) : State :=
  let b := s.pkg.carrier.runtimeBytes
  (s.setDie k (Die.admitted (runtimeOf b))).modPkg fun p => (p.extend 2 (sha256 b)).setSock k .active

/-- `ADMISSION_COMPLETE` (R400, R428, R429, R432): a socket that passes gets the runtime image, which is
measured. [DEDUCED, log 36] -/
def execAdmissionComplete (sock : BitVec 4) (passed : Bool) (s : State) : Out :=
  let k := sock.toNat
  if s.pkg.sock k ≠ .admitting then .next s
  else if passed then .next (s.beginAdmission k).rearrange
  else .next (s.modPkg (·.setSock k .fenced))

end Sys2Proof.Machine
end

