-- ==== Sys2Proof/Machine/Engines.lean ====
section
/-! DEFINITION. Engine operations at Brocade and at Garnet: what each does, and its completion (R277-R283,
R305, R318-R328). -/
namespace Sys2Proof.Machine

/-- The family of an operation; the operations of one family of a stream act in issue order. [DEDUCED, log 20] -/
def EngineJob.family : EngineJob → Nat
  | .copy _ => 0
  | .take _ _ => 1
  | .enqt _ _ | .enqtClose _ => 2
  | .arrive _ _ | .arriveSet _ _ => 3
  | .barinit _ _ _ | .bararv _ => 4
  | .enql _ => 5
  | .lock _ _ _ _ _ _ => 6
  | .exchange _ => 7
  | .chw _ _ => 8

/-- An operation may act (R130, R277): the stream's earlier accesses are performed, and the earlier operations
of its family have acted. [DEDUCED, log 20] -/
def State.mayAct (s : State) (e : Engine) : Bool :=
  !s.waitsFor e && !s.pkg.engines.any fun x =>
    x.sock == e.sock && x.kern == e.kern && x.id < e.id && x.stage == .sent &&
      x.job.family == e.job.family

/-- The control block of an object's region is the operation's own. -/
def Engine.owns (e : Engine) (owner : Owner) : Bool := ownedBy owner e.part e.region

/-- `TAKE` reaches its pair (R279). -/
def State.actTake (s : State) (e : Engine) (q off : Nat) : State :=
  if e.owns (s.pkg.pair q).owner then s.modPkg fun p =>
    let pr := p.pair q
    (p.putPair q { pr with takers := pr.takers ++ [e.id] }).engineStage e.id .begun
  else s.finishTake e off 0 5 0

/-- The record of `n` bytes that an operation reads, and whether it lies in the partition: it is read when the operation
acts, behind every earlier access of the stream (R130, R277). [DEDUCED, log 20] -/
def State.engineRecord (s : State) (e : Engine) (off n : Nat) : Nat × Bool :=
  (bytesNat (s.engineRead e.sock e.kern off n), (s.kernelDie e.sock e.kern).spInside off n)

/-- `ENQT` (R278). -/
def State.actEnqt (s : State) (e : Engine) (q off : Nat) : State :=
  let (rec, inside) := s.engineRecord e off 64
  let (code, value, s1) := (s.opRelease e 2).enqt e.part e.region e.rcb q (BitVec.ofNat 512 rec) inside
  s1.finishWord e code value

/-- `ENQT.close` (R278). [DEDUCED, log 25] -/
def State.actClose (s : State) (e : Engine) (q : Nat) : State :=
  let s1 := s.opRelease e 2
  if e.owns (s1.pkg.pair q).owner then (s1.modPkg (·.closePair q)).finishWord e 0 0
  else s1.finishWord e 5 0

/-- `ARRIVE` and `ARRIVE.set` (R280, R398). [DEDUCED, log 25] -/
def State.actArrive (s : State) (e : Engine) (c : Nat) (v : BitVec 32) (set : Bool) : State :=
  let s1 := s.opRelease e 2
  if ¬ e.owns (s1.pkg.counter c).owner then s1.finishWord e 5 0
  else if set then (s1.modPkg (·.arriveSet c v)).finishWord e 0 v.toNat
  else
    let (p, code) := s1.pkg.arrive c v
    ({ s1 with pkg := p }).finishWord e code (p.counter c).value.toNat

/-- `BARINIT` (R281, R399): the highest code that applies; its VALUE, of which R277 says nothing, is 0. [DEDUCED, log 25] -/
def State.actBarinit (s : State) (e : Engine) (b n scope : Nat) : State :=
  let x := s.pkg.barrier b
  if ¬ x.waiting.isEmpty then s.finishWord e 6 0
  else if n = 0 ∨ (x.init ∧ ¬ e.owns x.owner) then s.finishWord e 5 0
  else
    let m := member e.sock e.kern
    let old := x.counted.filter fun y => !x.abandoned.contains y && y != m
    (s.modPkg (·.putBarrier b ⟨n, scope, true, ⟨e.part, e.region⟩, [], old ++ [m], [], []⟩)).finishWord e 0 0

/-- `BARARV` (R282). -/
def State.actBararv (s : State) (e : Engine) (b : Nat) : State :=
  let x := s.pkg.barrier b
  if ¬ x.init ∨ ¬ e.owns x.owner then s.finishWord e 5 0
  else if ¬ s.releaseReady e x.scope then s
  else (s.opRelease e x.scope).modPkg fun p =>
    (p.engineStage e.id .begun).barrierArrive b e.id (member e.sock e.kern)

/-- `ENQL` (R283, R367). -/
def State.actEnql (s : State) (e : Engine) (off : Nat) : State :=
  if ¬ s.releaseReady e 3 ∨ ¬ s.pkg.mayEnqueue (e.sock + 1) then s
  else
    let (packet, inside) := s.engineRecord e off 128
    let s1 := s.opRelease e 3
    if ¬ inside then s1.finishWord e 9 0
    else
      let (code, id, s2) := s1.enqueue (BitVec.ofNat 1024 packet) (e.sock + 1) (e.sock + 1) 0#64
      s2.finishWord e code id

/-- A channel entry of a kernel's die; in its image too, where resumption reads it, while the kernel is away (R379). -/
def State.putChannel (s : State) (sock kern ch : Nat) (entry : BitVec 512) : State :=
  let put (d : Die) : Die := { d with tab.chan := Store.set 0#512 d.tab.chan ch entry }
  let s1 := s.modKernelDie sock kern put
  if s.resident sock kern then s1
  else match s.pkg.imageOf sock kern with
    | none => s1
    | some i =>
      let p := i.place.at (0x4D000 + 64 * ch)
      s1.physWrite p.1 p.2 (natBytes 64 entry.toNat)

/-- `CHW` (R305): a source outside the partition leaves the entry and sets `FLGERR`. -/
def State.actChw (s : State) (e : Engine) (ch off : Nat) : State :=
  let (entry, inside) := s.engineRecord e off 64
  if ¬ inside then s.finish e [] true
  else
    let s1 := if e.orphan then s else s.putChannel e.sock e.kern ch (BitVec.ofNat 512 entry)
    s1.finish e [] false

/-! Locks. -/

/-- The operation of a code. -/
def lockOpOf (op mode : Nat) (name : Word) : LockOp :=
  match op with
  | 0 => .txn name
  | 1 => .acq mode
  | 2 => .up mode
  | 3 => .dn mode
  | 4 => .rel
  | 5 => .relAll
  | 6 => .abt
  | _ => .qry

/-- Who asks. -/
def State.lockCaller (s : State) (e : Engine) : LockCaller :=
  let start := match s.pkg.launch e.kern with
    | some l => l.started
    | none => 0
  ⟨e.sock, e.part, e.kern, e.region, e.rcb, start, s.fits .locks e.rcb 1⟩

/-- The status record of a lock operation (R327). -/
def lockBytes (code value : Nat) (txn : Word) (age : Nat) (info : Word) : List Byte :=
  natBytes 4 code ++ natBytes 4 value ++ natBytes 8 txn.toNat ++ natBytes 8 age ++ natBytes 8 info.toNat

/-- A lock operation completes (R327). -/
def State.finishLock (s : State) (e : Engine) (op code value : Nat) (txn : Word) (age : Nat) (info : Word) :
    State :=
  let w := match e.status with
    | none => []
    | some a => [((a : Int), lockBytes code value txn age info)]
  let s1 := if e.orphan then s else s.modKernelDie e.sock e.kern fun d => d.noteTxn op code txn
  s1.finish e w (code != 0)

/-- The requests that an ending operation cancels complete before it (R323). [DEDUCED, log 33] -/
def State.finishCancelled (s : State) (e : Engine) : State :=
  let done (s : State) (x : Engine) : State :=
    match x.stage, x.job with
    | .decided code value, .lock op _ _ age txn info =>
      if x.sock = e.sock ∧ x.kern = e.kern ∧ x.id < e.id then s.finishLock x op code value txn age info else s
    | _, _ => s
  s.pkg.engines.foldl done s

/-- A lock operation reaches Garnet (R320, R328). [DEDUCED, log 33] -/
def State.actLock (s : State) (e : Engine) (op mode : Nat) (name : Word) : State :=
  let s1 := if 3 ≤ op ∧ op ≤ 6 then s.opRelease e 2 else s
  let nm := if op = 5 ∨ op = 6 then 0#64 else name
  let (o, a) := s1.pkg.garnet.process s1.pkg.ptime.toNat (s1.lockCaller e) e.id (lockOpOf op mode name) nm
  let job : EngineJob := .lock op mode name a.age a.txn a.info
  let s2 := (s1.modPkg (·.putEngine { e with job := job, stage := .begun })).applyLock o
  match a.code with
  | none => s2
  | some code =>
    let s3 := if op = 5 ∨ op = 6 then s2.finishCancelled e else s2
    s3.finishLock e op code a.value a.txn a.age a.info

/-- What an operation does when it acts. -/
def State.act (s : State) (e : Engine) : State :=
  match e.job with
  | .take q off => s.actTake e q off
  | .enqt q off => s.actEnqt e q off
  | .enqtClose q => s.actClose e q
  | .arrive c v => s.actArrive e c v false
  | .arriveSet c v => s.actArrive e c v true
  | .barinit b n scope => s.actBarinit e b n scope
  | .bararv b => s.actBararv e b
  | .enql off => s.actEnql e off
  | .lock op mode name _ _ _ => s.actLock e op mode name
  | .chw ch off => s.actChw e ch off
  | _ => s

/-- A decided operation writes its status word and sets its flag. -/
def State.finishDecided (s : State) (e : Engine) (code value : Nat) : State :=
  match e.job with
  | .lock op _ _ age txn info => s.finishLock e op code value txn age info
  | .exchange _ | .copy _ => s
  | _ => s.finishWord e code value

/-- `ENGINE_COMPLETION` (R277): an accepted operation acts, and completes or stays pending; one that has been
decided completes. -/
def execEngineCompletion (id : Nat) (s : State) : Out :=
  match s.pkg.engine id with
  | none => .next s
  | some e =>
    match e.stage with
    | .decided code value => .next (s.finishDecided e code value)
    | .sent => .next (if s.mayAct e then s.act e else s)
    | _ => .next s

/-- `TAKE_DELIVER` (R279). -/
def execTakeDeliver (pair : BitVec 6) (s : State) : Out := .next (s.takeServe pair.toNat)

/-- `WGRACE_EXPIRY` (R325). [DEDUCED, log 33] -/
def execWgraceExpiry (txn : Word) (s : State) : Out :=
  match s.pkg.garnet.txnOf txn with
  | none => .next s
  | some t =>
    let now := s.pkg.ptime.toNat
    if t.wounded ∧ ¬ t.revoked ∧ t.graceEnd ≤ now then
      match revokeTxn now ⟨s.pkg.garnet, [], [], [], []⟩ txn with
      | (_, none) => .next s
      | (o, some name) =>
        .next ((s.applyLock o).regionRecord t.rcb
          (regionRecordBytes 2 0 t.sock t.kern now txn.toNat name.toNat))
    else .next s

end Sys2Proof.Machine
end

