-- ==== Sys2Proof/Machine/Memory.lean ====
section
/-! DEFINITION. The L slot (chapters 12 and 14): package memory, scratchpad, strong accesses, fences, the
monitor, and the sending of engine operations. -/
namespace Sys2Proof.Machine

/-- Bytes of a size code (R165). -/
def sizeBytes (z : BitVec 2) : Nat := 2 ^ z.toNat

/-- A package virtual address (R261): bits [56:0] of the base plus an offset, exact. -/
def Die.va (d : Die) (b : BitVec 6) (off : Int) : Int := (bitsAt (d.readS b).toNat 0 57 : Int) + off

/-- A memory address that must be a multiple of its size (R261). -/
def aligned (a : Int) (n : Nat) (s : State) (k : Out) : Out :=
  if a % n ≠ 0 then raiseAlign s a else k

/-- `LNOP` (R190). -/
def execLnop (p : BitVec 5) (s : State) : Out := guarded p s .next

/-- A load with a landing field (R262). -/
def landingLoad (kind : ReqKind) (x : LMem) (s : State) : Out :=
  guarded x.p s fun s =>
    let n := sizeBytes x.size
    let va := s.here.va x.b (x.off.toInt * n)
    aligned va n s <|
      if s.here.landingFull then held s .landingBuffer
      else
        let (id, s1) := s.sendReq kind va n 0#64 0#64 0 0 0 none
        .next (s1.mod fun d => d.allocLanding id x.land.toNat x.ws (d.sDest x.d))

/-- `LD` (R262). -/
def execLd (x : LMem) (s : State) : Out := landingLoad .load x s

/-- `LDRO` (R114, R262). -/
def execLdro (x : LMem) (s : State) : Out := landingLoad .loadRo x s

/-- `ST` (R263): the stream does not wait. -/
def execSt (x : LMem) (s : State) : Out :=
  guarded x.p s fun s =>
    let n := sizeBytes x.size
    let d := s.here
    let va := d.va x.b (x.off.toInt * n)
    aligned va n s (.next (s.sendReq .store va n (d.readS x.d) 0#64 0 0 0 none).2)

/-- The scratchpad offset of a scalar access (R266). -/
def Die.spAddr (d : Die) (x : LSp) : Int := ((d.readS x.b).toNat : Int) + x.off.toInt * sizeBytes x.size

/-- `LDSP` (R266). -/
def execLdsp (x : LSp) (s : State) : Out :=
  guarded x.p s fun s =>
    let d := s.here
    let n := sizeBytes x.size
    let a := d.spAddr x
    aligned a n s (.next (s.put ((d.noteOob a n).emitS 6 x.ws x.d (BitVec.ofNat 64 (d.spNat a n)) 0#10)))

/-- A store that names the weight store (R112, R268). -/
def raiseWeightst (s : State) (a : Int) : Out := raise s 0x15 (wordOf a) 0#64

/-- `STSP` (R266). -/
def execStsp (x : LSp) (s : State) : Out :=
  guarded x.p s fun s =>
    let d := s.here
    let n := sizeBytes x.size
    let a := d.spAddr x
    if x.sp then raiseWeightst s a
    else aligned a n s (.next (s.put ((d.noteOob a n).later (.spWrite a (natBytes n (d.readS x.d).toNat)))))

/-- The scratchpad offset of a whole-vector access (R266). -/
def Die.vecAddr (d : Die) (x : LVec) : Int := ((d.readS x.b).toNat : Int) + x.off.toInt * 64

/-- `VLD` (R266). -/
def execVld (x : LVec) (s : State) : Out :=
  guarded x.p s fun s =>
    let d := s.here
    let a := d.vecAddr x
    aligned a 64 s (.next (s.put ((d.noteOob a 2048).emitV 6 x.ws (d.vDest x.d) (BitVec.allOnes 512)
      (BitVec.ofNat 16384 (d.spNat a 2048)) [])))

/-- `VST` (R266). -/
def execVst (x : LVec) (s : State) : Out :=
  guarded x.p s fun s =>
    let d := s.here
    let a := d.vecAddr x
    if x.sp then raiseWeightst s a
    else aligned a 64 s
      (.next (s.put ((d.noteOob a 2048).later (.spWrite a (natBytes 2048 (d.readV x.d).toNat)))))

/-- The unmasked lanes of a gather or scatter with their offsets (R267). -/
def Die.lanes (d : Die) (x : LIdx) : List (Nat × Int) :=
  let base : Int := (d.readS x.b).toNat
  ((elems 32 (d.readV x.x)).zipIdx.filter fun e => (d.readK x.k).getLsbD e.2).map fun e => (e.2, base + e.1)

/-- The lowest offending offset of a gather or scatter (R108). -/
def Die.noteLanes (d : Die) (n : Nat) (l : List (Nat × Int)) : Die :=
  match (l.filterMap fun e => d.spOffending e.2 n).min? with
  | none => d
  | some o => d.later (.oob o)

/-- Every unmasked lane's offset is a multiple of the element size (R267). -/
def alignedLanes (n : Nat) (l : List (Nat × Int)) (s : State) (k : Out) : Out :=
  match l.find? fun e => e.2 % (n : Int) != 0 with
  | some e => raiseAlign s e.2
  | none => k

/-- `VLDX` (R267): masked lanes are written with the value read at issue. -/
def execVldx (x : LIdx) (s : State) : Out :=
  guarded x.p s fun s =>
    let d := s.here
    let n := sizeBytes x.size
    let l := d.lanes x
    let old := elems 32 (d.readV x.d)
    let new := old.zipIdx.map fun e => match l.lookup e.2 with
      | some a => d.spNat a n
      | none => e.1
    alignedLanes n l s (.next (s.put ((d.noteLanes n l).emitV 6 x.ws (d.vDest x.d) (BitVec.allOnes 512)
      (pack 32 new) [])))

/-- `VSTX` (R267): of lanes that name one address, the highest leaves its value. -/
def execVstx (x : LIdx) (s : State) : Out :=
  guarded x.p s fun s =>
    let d := s.here
    let n := sizeBytes x.size
    let l := d.lanes x
    let v := (d.readV x.d).toNat
    let put (d : Die) (e : Nat × Int) : Die := d.later (.spWrite e.2 (natBytes n (v / 2 ^ (32 * e.1))))
    if x.sp then raiseWeightst s ((l.head?.map (·.2)).getD (d.readS x.b).toNat)
    else alignedLanes n l s (.next (s.put (l.foldl put (d.noteLanes n l))))

/-- The issuing die writes back and drops its copy of a strong access's line (R109, R270). -/
def State.giveUpLine (s : State) (va : Int) : State :=
  let d := s.here
  match s.translate s.cur d.sr.partid.toNat va false with
  | (.ok ph, s1) => s1.writeBack s.cur (lineOf ph.host ph.pa)
  | (.error _, s1) => s1

/-- The release of a strong write with release ordering (R137, R270). -/
def strongOrder (x : LStrong) (s : State) (k : State → Out) : Out :=
  if x.order = 2#2 ∨ x.order = 3#2 then releaseThen x.scope.toNat true s k else k s

/-- A strong access that returns a value (R269, R270): operand, new value of `CAS`. -/
def strongRead (kind : ReqKind) (x : LStrong) (n : Nat) (s : State) : Out :=
  guarded x.p s fun s =>
    let d := s.here
    let va := d.va x.addr 0
    aligned va (if kind = .heap then 64 else n) s <|
      if d.landingFull then held s .landingBuffer
      else strongOrder x s fun s =>
        let new := if kind = .cas then d.readS x.n else 0#64
        let (id, s1) := (s.giveUpLine va).sendReq kind va n (d.readS x.d) new x.op.toNat x.scope.toNat
          x.order.toNat none
        .next (s1.mod fun d => d.allocLanding id d.sr.atland.toNat x.ws (d.sDest x.d))

/-- `ATOM` (R185, R270). -/
def execAtom (x : LStrong) (s : State) : Out := strongRead .atom x (sizeBytes x.size) s

/-- `CAS` (R270). -/
def execCas (x : LStrong) (s : State) : Out := strongRead .cas x (sizeBytes x.size) s

/-- `HEAPINS` (R272). -/
def execHeapins (x : LStrong) (s : State) : Out := strongRead .heap x 8 s

/-- `RED` (R264, R270, R271): nothing returned; with `ARV` an arrival follows at its home. -/
def execRed (x : LStrong) (s : State) : Out :=
  guarded x.p s fun s =>
    let d := s.here
    let va := d.va x.addr 0
    let arv := if x.arv then some (bitsAt (d.readS (x.d + 1#6)).toNat 0 16) else none
    aligned va (sizeBytes x.size) s <| strongOrder x s fun s =>
      .next ((s.giveUpLine va).sendReq .red va (sizeBytes x.size) (d.readS x.d) 0#64 x.op.toNat
        x.scope.toNat x.order.toNat arv).2

/-- The point of the read-only path moves to this bundle (R114, R273). -/
def roFence (ro : Bool) (s : State) : State :=
  if ro then s.mod fun d => { d with cache.ro := [] } else s

/-- Wait for the replies of earlier strong reads (R138, R273). -/
def acquireThen (s : State) (k : State → Out) : Out :=
  if s.pkg.strongReadsOut s.cur s.here.iss.first then held s .acquire else k s

/-- The writes to package registers are published by a release at `.pkg` or wider (R352). -/
def shareRegs (scope : Nat) (s : State) : State :=
  if 2 ≤ s.here.scope scope then s.modPkg (·.publishRegs s.cur) else s

/-- `FENCE.acq` (R140, R273). -/
def execFenceAcq (x : LFence) (s : State) : Out :=
  guarded x.p s fun s => acquireThen s fun s => .next (roFence x.ro s)

/-- `FENCE.rel` (R140, R273). -/
def execFenceRel (x : LFence) (s : State) : Out :=
  guarded x.p s fun s => releaseThen x.scope.toNat true s fun s =>
    .next (shareRegs x.scope.toNat (roFence x.ro s))

/-- `FENCE.acqrel` (R140, R273). -/
def execFenceAcqrel (x : LFence) (s : State) : Out :=
  guarded x.p s fun s => acquireThen s fun s => releaseThen x.scope.toNat true s fun s =>
    .next (shareRegs x.scope.toNat (roFence x.ro s))

/-- `FENCE.sc` (R136, R140, R273): its place in the fence order is that of its completion, after which no read misses a
write made before it. [DEDUCED, log 18] -/
def execFenceSc (x : LFence) (s : State) : Out :=
  guarded x.p s fun s => acquireThen s fun s => releaseThen x.scope.toNat true s fun s =>
    .next ((shareRegs x.scope.toNat (roFence x.ro s)).modPkg fun p => { p with late := [] })

/-- `FENCE.ro` (R140, R273). -/
def execFenceRo (p : BitVec 5) (s : State) : Out := guarded p s fun s => .next (roFence true s)

/-- `MON` (R274): it replaces any earlier monitor. -/
def execMon (p : BitVec 5) (b : BitVec 6) (s : State) : Out :=
  guarded p s fun s =>
    let (id, s1) := s.sendReq .monitor (s.here.va b 0) 1 0#64 0#64 0 0 0 none
    .next (s1.mod fun d => { d with
      cache.mon := none, cache.monArming := some id, cache.monVa := s.here.va b 0, sr.monstat := d.sr.monstat ||| 1#3 })

/-- `MON.off` (R274). -/
def execMonOff (p : BitVec 5) (_b : BitVec 6) (s : State) : Out :=
  guarded p s fun s => .next (s.mod fun d => { d with
    cache.mon := none, cache.monArming := none, sr.monstat := d.sr.monstat &&& 6#3 })

/-- The physical dimension of a logical one (R14). -/
def Die.physDim (d : Die) (i : Nat) : Nat :=
  if i < 12 then fieldAt d.sr.dmaplo (5 * i) 5 else fieldAt d.sr.dmaphi (5 * (i - 12)) 5

/-- `COPY` (R117): the descriptor and both entries are read at issue. -/
def execCopy (p : BitVec 5) (b : BitVec 6) (s : State) : Out :=
  guarded p s fun s =>
    let d := s.here
    let a : Int := (d.readS b).toNat
    aligned a 128 s <|
      let desc : BitVec 1024 := BitVec.ofNat 1024 (d.spNat a 128)
      let job : CopyJob := ⟨desc, d.spInside a 128, d.tensorRead (fieldAt desc 0 8),
        d.tensorRead (fieldAt desc 8 8), d.ctl.bank, d.sr.ndim.toNat, d.sr.present,
        d.physDim (fieldAt desc 40 5)⟩
      .next (s.sendEngine (fieldAt desc 32 5) none (.copy job))

/-- The status offset of an engine operation; index 0 means none (R276). -/
def Die.statusOff (d : Die) (r : BitVec 6) : Option Nat := if r = 0#6 then none else some (d.readS r).toNat

/-- Send an engine operation with its status word or record (R276, R326). -/
def sendOp (flag : BitVec 5) (st : BitVec 6) (n : Nat) (job : EngineJob) (s : State) : Out :=
  match s.here.statusOff st with
  | some a => if a % n ≠ 0 then raiseAlign s a else .next (s.sendEngine flag.toNat (some a) job)
  | none => .next (s.sendEngine flag.toNat none job)

/-- `TAKE` (R279). -/
def execTake (x : LEng) (s : State) : Out :=
  guarded x.p s fun s =>
    let d := s.here
    let a := (d.readS x.a).toNat
    aligned a 64 s (sendOp x.f x.s 8 (.take (bitsAt (d.readS x.b).toNat 0 6) a) s)

/-- `ENQT` (R278). -/
def execEnqt (x : LEng) (s : State) : Out :=
  guarded x.p s fun s =>
    let d := s.here
    let a := (d.readS x.a).toNat
    aligned a 64 s (sendOp x.f x.s 8 (.enqt (bitsAt (d.readS x.b).toNat 0 6) a) s)

/-- `ENQT.close` (R278). -/
def execEnqtClose (x : LEng) (s : State) : Out :=
  guarded x.p s fun s => sendOp x.f x.s 8 (.enqtClose (bitsAt (s.here.readS x.b).toNat 0 6)) s

/-- `ARRIVE` (R280). -/
def execArrive (x : LEng) (s : State) : Out :=
  guarded x.p s fun s =>
    let d := s.here
    sendOp x.f x.s 8 (.arrive (bitsAt (d.readS x.a).toNat 0 16) ((d.readS x.b).setWidth 32)) s

/-- `ARRIVE.set` (R280). -/
def execArriveSet (x : LEng) (s : State) : Out :=
  guarded x.p s fun s =>
    let d := s.here
    sendOp x.f x.s 8 (.arriveSet (bitsAt (d.readS x.a).toNat 0 16) ((d.readS x.b).setWidth 32)) s

/-- `BARINIT` (R281). -/
def execBarinit (x : LEng) (s : State) : Out :=
  guarded x.p s fun s =>
    let d := s.here
    sendOp x.f x.s 8 (.barinit (bitsAt (d.readS x.a).toNat 0 12) (bitsAt (d.readS x.b).toNat 0 16)
      x.mode.toNat) s

/-- `BARARV` (R282). -/
def execBararv (x : LEng) (s : State) : Out :=
  guarded x.p s fun s => sendOp x.f x.s 8 (.bararv (bitsAt (s.here.readS x.a).toNat 0 12)) s

/-- `ENQL` (R283). [DEDUCED, log 25] -/
def execEnql (x : LEng) (s : State) : Out :=
  guarded x.p s fun s =>
    let a := (s.here.readS x.a).toNat
    aligned a 128 s (sendOp x.f x.s 8 (.enql a) s)

/-- A lock operation (R326): registers are read at issue. -/
def sendLock (x : LLock) (op : Nat) (s : State) : Out :=
  guarded x.p s fun s =>
    sendOp x.f x.s 32 (.lock op x.mode.toNat (s.here.readS x.a) 0 0#64 0#64) s

/-- `LKTXN` (R319, R328): register 0 asks for a fresh age. -/
def execLktxn (x : LLock) (s : State) : Out := sendLock x 0 s
/-- `LKACQ` (R328). -/
def execLkacq (x : LLock) (s : State) : Out := sendLock x 1 s
/-- `LKUP` (R328). -/
def execLkup (x : LLock) (s : State) : Out := sendLock x 2 s
/-- `LKDN` (R328). -/
def execLkdn (x : LLock) (s : State) : Out := sendLock x 3 s
/-- `LKREL` (R328). -/
def execLkrel (x : LLock) (s : State) : Out := sendLock x 4 s
/-- `LKREL.all` (R328). -/
def execLkrelAll (x : LLock) (s : State) : Out := sendLock x 5 s
/-- `LKABT` (R328). -/
def execLkabt (x : LLock) (s : State) : Out := sendLock x 6 s
/-- `LKQRY` (R328). -/
def execLkqry (x : LLock) (s : State) : Out := sendLock x 7 s

end Sys2Proof.Machine
end

