-- ==== Sys2Proof/Machine/Exchange.lean ====
section
/-! DEFINITION. The X slot at issue (chapter 13): fields, traps, the checks made at issue, the numbering
of exchanges, and the loading of channel entries. -/
namespace Sys2Proof.Machine

/-- The fields of a channel entry (R66). -/
def chEfmt (c : BitVec 512) : Nat := fieldAt c 0 5
def chKind (c : BitVec 512) : Nat := fieldAt c 17 1
def chWire (c : BitVec 512) : Nat := fieldAt c 18 2
def chComb (c : BitVec 512) : Nat := fieldAt c 20 4
def chBankA (c : BitVec 512) : Nat := fieldAt c 24 6
def chBankB (c : BitVec 512) : Nat := fieldAt c 30 6
def chDepth (c : BitVec 512) : Nat := fieldAt c 36 4
def chCount (c : BitVec 512) : Nat := fieldAt c 40 24
def chWeclen (c : BitVec 512) : Nat := fieldAt c 64 64

/-- The counter and the buffer base of an expert (R66). -/
def chCtr (c : BitVec 512) (e : Nat) : Nat := fieldAt c (64 + 28 * e) 16
def chBuf (c : BitVec 512) (e : Nat) : Nat := fieldAt c (80 + 28 * e) 12

/-- A floating or integer element format that may be exchanged (R288). -/
def exchFloat (f : Nat) : Bool := f ≤ 4
def exchInt (f : Nat) : Bool := f == 8 || f == 9 || f == 10 || f == 12 || f == 13 || f == 14

/-- The pairing of an element format and a combine operation (R288); 0 combines nothing. -/
def combListed (f op : Nat) : Bool :=
  op == 0 || (exchFloat f && (op == 1 || op == 2 || op == 3 || (op == 8 && f == 0))) ||
    (exchInt f && 1 ≤ op && op ≤ 7)

/-- The pairing of an element format and a wire format (R288). -/
def wireListed (f w : Nat) : Bool := exchFloat f || (exchInt f && w == 0)

/-- The length of a symbol's code in `WECLEN` (R66). -/
def weclen (l i : Nat) : Nat := bitsAt l (4 * i) 4

/-- The code lengths form a prefix code that holds the escape (R299). -/
def weclenOk (l : Nat) : Bool :=
  weclen l 15 != 0 &&
    ((List.range 16).map fun i => if weclen l i = 0 then 0 else 2 ^ (15 - weclen l i)).sum ≤ 2 ^ 15

/-- The size of an element for placing the status word (R286). -/
def exchSize (f : Nat) : Nat := if elemBytes f = 0 then 1 else elemBytes f

/-- The status word of an exchange (R286); `XBAR` writes it at `RBASE` (R291). -/
def Exchange.statusAt (x : Exchange) : Nat :=
  if x.opcode = 8 then x.rbase
  else x.rbase + 64 * ((x.bnd * exchSize (chEfmt x.chan) + 63) / 64)

/-- The instruction sends a block, and posts a region (R294, R295, R303). -/
def Exchange.sends (x : Exchange) : Bool := x.opcode != 6 && x.opcode != 8
def Exchange.posts (x : Exchange) : Bool := x.opcode != 5 && x.opcode != 7 && x.opcode != 8

/-- The channel checks of R67, R288 and R299. -/
def Exchange.channelBad (x : Exchange) (spsize : Nat) : Bool :=
  let c := x.chan
  let fan := chKind c == 1
  chCount c == 0 || chDepth c == 0 ||
  spsize / Config.mib ≤ chBankA c || spsize / Config.mib ≤ chBankB c ||
  !wireListed (chEfmt c) (chWire c) || !combListed (chEfmt c) (chComb c) || 9 ≤ chComb c ||
  (fan && chWire c == 3) || (fan != (x.opcode == 7)) ||
  fieldAt c 5 12 != 0 || (!fan && fieldAt c 128 384 != 0) ||
  (!fan && chWire c == 3 && !weclenOk (chWeclen c)) ||
  (x.opcode == 2 && (x.comb == 0 || !combListed (chEfmt c) x.comb || (x.comb == 8 && x.n < 2)))

/-- Coordinates in iteration order, dimension 0 fastest: those of the i-th element (R286). -/
def coords : List Nat → Nat → List Nat
  | [], _ => []
  | e :: rest, i => i % e :: coords rest (i / e)

/-- Elements of a tensor. -/
def Tensor.count (t : Tensor) : Nat := t.exts.foldl (· * ·) 1

/-- The address of each element of the block (R286). -/
def Exchange.blockAddrs (x : Exchange) : List Int :=
  let z := exchSize (chEfmt x.chan)
  match x.gather with
  | none => (List.range x.n).map fun i => ((x.sbase + i * z : Nat) : Int)
  | some t => (List.range (min x.n t.count)).map fun i => t.addr (coords t.exts i)

/-- The tensor check of R286, with those that R83 and R115 make of an entry that is addressed; a gather of no tensor
id has failed before. -/
def Exchange.tensorBad (x : Exchange) : Bool :=
  match x.gather with
  | none => false
  | some t => t.loc != 1 || t.fmt != chEfmt x.chan || !t.ok || !t.stridesOk

/-- `n` bytes at an address lie in a scratchpad bank. -/
def inBank (b : Nat) (a : Int) (n : Nat) : Bool :=
  n == 0 || ((b * Config.mib : Nat) ≤ a && a + n ≤ ((b + 1) * Config.mib : Nat))

/-- The bank check of R287. -/
def Exchange.bankBad (x : Exchange) : Bool :=
  let z := exchSize (chEfmt x.chan)
  (x.sends && x.blockAddrs.any fun a => !inBank (chBankA x.chan) a z) ||
    (x.posts && !inBank (chBankB x.chan) x.rbase (x.bnd * z)) ||
    !inBank (chBankB x.chan) x.statusAt 8

/-- The code of the checks made at issue, the highest that fails (R288, R291). -/
def Exchange.checked (x : Exchange) (spsize : Nat) (badTid : Bool) : Exchange :=
  { x with fail :=
      if x.opcode = 8 then 0
      else if x.sends && (badTid || x.tensorBad) then 5
      else if x.channelBad spsize then 4
      else if x.bankBad then 3
      else 0 }

/-- The key of a numbering (R289, R302, R304): pairwise by channel and dimension, rings by channel,
barriers by mask, each for one kernel on one die. -/
def numberKey (kern sock opcode ch dim mask : Nat) : Nat :=
  (kern * 16 + sock) * 2 ^ 26 +
    (if opcode = 8 then 2 ^ 25 + mask else if opcode = 4 then 2048 + ch else ch * 32 + dim)

/-- Take the next number of a numbering; `XFAN` is not numbered (R303). -/
def State.takeNumber (s : State) (opcode key : Nat) : Nat × State :=
  if opcode = 7 then (0, s)
  else
    let n := Store.get 0 s.pkg.numbers key
    (n, s.modPkg fun p => { p with numbers := Store.set 0 p.numbers key (n + 1) })

/-- The exchange as an X slot forms it at issue (R286). -/
def Die.formExchange (d : Die) (x : XArgs) (opcode : Nat) (swap : Bool) : Exchange :=
  let f (i : Nat) : Nat := (d.shape 3 x.r.toNat i).toNat
  let c := d.channel x.ch.toNat
  let reg := (d.readS x.arg).toNat
  let e : Exchange := {
    opcode := opcode
    swap := swap
    ch := x.ch.toNat
    dim := x.dim.toNat
    comb := if x.comb = 0#4 then chComb c else x.comb.toNat
    bit := x.bit.toNat
    back := x.back
    chan := c
    n := min (f 4) (min (f 5) (chCount c))
    bnd := f 5
    sbase := f 0
    rbase := f 1
    stride := f 2
    gather := if f 6 < 256 then some (d.tensorRead (f 6)) else none
    mask := if opcode = 7 then reg else bitsAt reg 0 24
    rank := d.sr.rank.toNat
    ndim := d.sr.ndim.toNat
    dmap := (List.range 24).map d.physDim
    present := d.sr.present
    number := 0
    fail := 0
    issue := d.now
    pc := d.ctl.pc
    own := none
    res := XResult.none }
  e.checked d.spsize (256 < f 6)

/-- Bits of a mask, ascending. -/
def maskBits (m : Nat) : List Nat := (List.range 24).filter (m.testBit ·)

/-- The Gray code and its inverse on ring positions (R302). -/
def grayOf (x : Nat) : Nat := x ^^^ (x / 2)
def ungrayOf (c : Nat) : Nat := (ungray (BitVec.ofNat 64 c)).toNat

/-- A rank's coordinate in a mask's subcube: its mask bits, gathered. -/
def gatherBits (rank : Nat) : List Nat → Nat
  | [] => 0
  | e :: rest => (if rank.testBit e then 1 else 0) + 2 * gatherBits rank rest

/-- A rank with its mask bits replaced by those of a coordinate. -/
def scatterBits (rank c : Nat) : List Nat → Nat
  | [] => rank
  | e :: rest =>
    let r := if rank.testBit e = (c % 2 == 1) then rank else rank ^^^ 2 ^ e
    scatterBits r (c / 2) rest

/-- The successor and the predecessor on the Gray ring (R302). -/
def ringNeighbours (rank mask : Nat) (back : Bool) : Nat × Nat :=
  let bits := maskBits mask
  let m := 2 ^ bits.length
  let p := ungrayOf (gatherBits rank bits)
  let at_ (x : Nat) : Nat := scatterBits rank (grayOf (x % m)) bits
  let up := at_ (p + 1)
  let down := at_ (p + m - 1)
  if back then (down, up) else (up, down)

/-- The dimension in which two neighbours differ. -/
def dimBetween (a b : Nat) : Nat := Nat.log2 (a ^^^ b)

/-- The partner's rank of a pairwise exchange, the successor of a ring step (R289, R302). -/
def Exchange.toRank (x : Exchange) : Nat :=
  if x.opcode = 4 then (ringNeighbours x.rank x.mask x.back).1 else x.rank ^^^ 2 ^ x.dim
def Exchange.fromRank (x : Exchange) : Nat :=
  if x.opcode = 4 then (ringNeighbours x.rank x.mask x.back).2 else x.rank ^^^ 2 ^ x.dim

/-- A neighbour's die was absent at gang start (R19, R306). -/
def Exchange.absentRank (x : Exchange) (r : Nat) : Bool := !x.present.getLsbD (dimBetween x.rank r)

/-- An exchange that names an absent neighbour sets `STATUS.ABSENT` at issue (R306). -/
def Exchange.namesAbsent (x : Exchange) : Bool :=
  x.opcode != 7 && x.opcode != 8 && (x.absentRank x.toRank || x.absentRank x.fromRank)

/-- The alignment of the shape fields that the opcode uses (R286): the first that fails. -/
def Exchange.misaligned (x : Exchange) (auto : Bool) : Option Nat :=
  if x.sends ∧ x.gather.isNone ∧ x.fail ≠ 5 ∧ x.sbase % 64 ≠ 0 then some x.sbase
  else if x.rbase % 64 ≠ 0 then some x.rbase
  else if auto ∧ x.stride % 64 ≠ 0 then some x.stride
  else none

/-- `SUBCUBE` with the dimension, mask or rank named (R346). -/
def raiseSubcube (s : State) (v : Nat) : Out := raise s 0x13 (BitVec.ofNat 64 v) 0#64

/-- The traps of R312 that depend on the subcube: `ILLEGAL`, then `SUBCUBE`. -/
def subcubeChecks (x : Exchange) (s : State) (k : Out) : Out :=
  let pairwise := x.opcode == 1 || x.opcode == 2 || x.opcode == 3 || x.opcode == 5 || x.opcode == 6
  if x.opcode = 4 ∧ x.mask = 0 then raiseIllegal s
  else if x.swap ∧ x.mask % 2 ^ x.ndim ≠ 2 ^ x.ndim - 1 then raiseIllegal s
  else if pairwise ∧ x.ndim ≤ x.dim then raiseSubcube s x.dim
  else if (x.opcode = 4 ∨ x.opcode = 8) ∧ 2 ^ x.ndim ≤ x.mask then raiseSubcube s x.mask
  else if x.opcode = 7 ∧ 2 ^ x.ndim ≤ bitsAt x.mask 16 24 then raiseSubcube s (bitsAt x.mask 16 24)
  else k

/-- An X operation but `CHW` (R285, R286): its swap, its traps, its addresses' advance, its number; then
it goes to the exchange unit. The record of an absent neighbour (R73, R306) has `FIRST` 0 and `COUNT` 1.
[DEDUCED, log 41] -/
def exchangeOp (x : XArgs) (opcode : Nat) (swap : Bool) (s : State) : Out :=
  guarded x.p s fun s =>
    if s.here.handler then raiseIllegal s
    else
      let s1 := s.mod (·.swapIf x.sw 3 x.r.toNat)
      let d := s1.here
      let e := d.formExchange x opcode swap
      let auto := (d.shape 3 x.r.toNat 3).getLsbD 0
      orUndo s <| subcubeChecks e s1 <|
        match e.misaligned auto with
        | some a => raiseAlign s1 a
        | none =>
          let step (v : Nat) : BitVec 32 := BitVec.ofNat 32 (v + e.stride)
          let s2 := if auto then
              s1.mod fun d => (d.advanceField 3 x.r.toNat 0 (step e.sbase)).advanceField 3 x.r.toNat 1
                (step e.rbase)
            else s1
          let s3 := if e.namesAbsent then
              s2.mod fun d => (d.later (.status 0x200#10)).pushStat (d.statRecord 8 0 1)
            else s2
          let key := numberKey d.sr.kernid.toNat s.cur opcode e.ch e.dim e.mask
          let (n, s4) := s3.takeNumber opcode key
          .next (s4.sendEngine x.f.toNat none (.exchange { e with number := n }))

/-- `XNOP` (R190, R285). -/
def execXnop (p : BitVec 5) (s : State) : Out :=
  guarded p s fun s => if s.here.handler then raiseIllegal s else .next s

/-- `XCH` (R294). -/
def execXch (x : XArgs) (s : State) : Out := exchangeOp x 1 false s
/-- `XCB` (R295). -/
def execXcb (x : XArgs) (s : State) : Out := exchangeOp x 2 false s
/-- `XSIB` (R294). -/
def execXsib (x : XArgs) (s : State) : Out := exchangeOp x 3 false s
/-- `XRING` (R302). -/
def execXring (x : XArgs) (s : State) : Out := exchangeOp x 4 false s
/-- `XSEND` (R294). -/
def execXsend (x : XArgs) (s : State) : Out := exchangeOp x 5 false s
/-- `XRECV` (R294). -/
def execXrecv (x : XArgs) (s : State) : Out := exchangeOp x 6 false s
/-- `XFAN` (R303). -/
def execXfan (x : XArgs) (s : State) : Out := exchangeOp x 7 false s
/-- `XBAR` (R304). -/
def execXbar (x : XArgs) (s : State) : Out := exchangeOp x 8 false s
/-- `XBAR.swap` (R304). -/
def execXbarSwap (x : XArgs) (s : State) : Out := exchangeOp x 8 true s

/-- `CHW` (R305): the source is read at issue; the entry changes when the operation completes. -/
def execChw (x : XArgs) (s : State) : Out :=
  guarded x.p s fun s =>
    if s.here.handler then raiseIllegal s
    else
      let a := (s.here.readS x.arg).toNat
      aligned a 64 s <| .next (s.sendEngine x.f.toNat none (.chw x.ch.toNat a))

end Sys2Proof.Machine
end

