-- ==== Sys2Proof/Machine/Wire.lean ====
section
/-! DEFINITION. What crosses Twill: wire formats, combining, delivery (R294-R299). Elements carry their
indices; a floating element in Twill is an F32 pattern, an integer element a pattern of its width. -/
namespace Sys2Proof.Machine

/-- An element format as a floating format (R64). -/
def exchFmt (f : Nat) : FFmt :=
  match f with
  | 0 => .f32 | 1 => .bf16 | 2 => .f16 | 3 => .e4m3 | _ => .e5m2

/-- Bits of an element, and whether its integer format is signed. -/
def exchBits (f : Nat) : Nat := 8 * exchSize f
def exchSigned (f : Nat) : Bool := f == 8 || f == 9 || f == 10

/-- An indexed element. -/
abbrev Elem := Nat × Nat

/-- Flags by index; flags of one index are joined. -/
abbrev Raised := Store (BitVec 10)

def Raised.add (r : Raised) (i : Nat) (f : BitVec 10) : Raised := Store.set 0#10 r i (Store.get 0#10 r i ||| f)

def Raised.join (a b : Raised) : Raised := b.foldl (fun r e => r.add e.1 e.2) a

/-- Widen a pattern to F32, exactly (R297). -/
def widen32 (f x : Nat) : Nat := if f = 0 then x else (FFmt.f32.round .fixed ((exchFmt f).dec x)).1

/-- An F32 pattern delivered in a format: RNE, saturating (R294, R295). -/
def narrow (f x : Nat) : Nat × BitVec 10 :=
  if f = 0 then (x, 0#10) else (exchFmt f).round .fixed (FFmt.f32.dec x)

/-- Quantise to BF16 (R297, R299): the value as F32. -/
def toBf16 (x : Nat) : Nat × BitVec 10 :=
  let (b, f) := FFmt.bf16.round .fixed (FFmt.f32.dec x)
  (b * 65536, f)

/-- Magnitude of a value. -/
def FVal.abs : FVal → FVal
  | .fin _ m e => .fin false m e
  | .inf _ => .inf false
  | .nan => .nan

/-- A value is finite. -/
def FVal.isFin : FVal → Bool
  | .fin _ _ _ => true
  | _ => false

/-- floor(log2) of a nonzero finite value. -/
def FVal.top : FVal → Int
  | .fin _ m e => flog2 m e
  | _ => 0

/-- The scale exponent of a WE4 block (R298). -/
def we4Exp (xs : List FVal) : Int :=
  match xs.filter fun v => !v.isZero with
  | [] => -127
  | v :: rest => max (-127) (min 127 (rest.foldl (fun m w => max m w.top) v.top - 7))

/-! Bits on the wire (R299): lists of bits in the order in which they cross, eight to a byte from bit 0 upward. -/

/-- The bits of a field from its least significant bit, and of a code from its most significant bit. -/
def bitsUp (n v : Nat) : List Bool := (List.range n).map v.testBit
def bitsDown (n v : Nat) : List Bool := (bitsUp n v).reverse

/-- The number that bits make, the first the least significant. -/
def bitsVal : List Bool → Nat
  | [] => 0
  | b :: rest => (if b then 1 else 0) + 2 * bitsVal rest

/-- Bits in bytes, with zero bits to the next byte boundary. -/
def packBits (l : List Bool) : List Byte :=
  (List.range ((l.length + 7) / 8)).map fun i => BitVec.ofNat 8 (bitsVal ((l.drop (8 * i)).take 8))

/-- The bits of bytes. -/
def unpackBits (l : List Byte) : List Bool := l.flatMap fun b => bitsUp 8 b.toNat

/-! Wire blocks (R297-R299). What is encoded is an F32 pattern or an integer; a block holds the elements of a span of
consecutive indices. -/

/-- Indices that one block of a wire format spans; W32 and WBF know no blocks. -/
def wireSpan (wire : Nat) : Nat :=
  match wire with
  | 2 => 32
  | 3 => 64
  | _ => 2 ^ 24

/-- Blocks of consecutive indices, counted from a first index. -/
def wireGroups {α : Type} (wire first : Nat) (at_ : α → Nat) (l : List α) : List (List α) :=
  let key (a : α) : Nat := (at_ a - first) / wireSpan wire
  ((l.map key).eraseDups).map fun b => l.filter fun a => key a == b

/-- The flags of a list of elements. -/
def raisedOf (l : List (Nat × BitVec 10)) : Raised := l.foldl (fun (r : Raised) e => r.add e.1 e.2) []

/-- A WE4 block (R298): the scale, then an element at each of 32 places, 0 at the missing places of a partial block also where
a NaN or an infinity makes the others 0x7F, of which the rule says both. [DEDUCED, log 30; DESIGN CHOICE, log 40] -/
def we4Encode (first : Nat) (l : List Elem) : List Byte × Raised :=
  let vals := l.map fun e => FFmt.f32.dec e.2
  let spread (sc : Nat) (b : List Elem) : List Byte :=
    BitVec.ofNat 8 sc :: (List.range 32).map fun i =>
      BitVec.ofNat 8 (((b.find? fun e => (e.1 - first) % 32 == i).map (·.2)).getD 0)
  if vals.any fun v => !v.isFin then
    (spread 0xFF (l.map fun e => (e.1, 0x7F)), raisedOf (l.map fun e => (e.1, fINV)))
  else
    let k := we4Exp vals
    let q := l.map fun e => (e.1, FFmt.e4m3.round .fixed ((FFmt.f32.dec e.2).scale (-k)))
    (spread (k + 127).toNat (q.map fun e => (e.1, e.2.1)), raisedOf (q.map fun e => (e.1, e.2.2)))

/-- A WE4 block decoded, as F32 (R298). -/
def we4Decode (first : Nat) (at_ : List Nat) (b : List Byte) : List Elem × Raised :=
  let byte (i : Nat) : Nat := (b.getD i 0#8).toNat
  let one (i : Nat) : Nat × BitVec 10 :=
    if byte 0 = 0xFF then (FFmt.f32.nanPat, 0#10)
    else FFmt.f32.round .fixed ((FFmt.e4m3.dec (byte (1 + (i - first) % 32))).scale ((byte 0 : Int) - 127))
  (at_.map fun i => (i, (one i).1), raisedOf (at_.map fun i => (i, (one i).2)))

/-- The canonical code of a symbol (R299): codes of the symbols before it, by length and then by value. -/
def wecCode (lens i : Nat) : Nat :=
  let n := weclen lens i
  let before (j : Nat) : Bool := weclen lens j != 0 && (weclen lens j < n || (weclen lens j == n && j < i))
  (((List.range 16).filter before).map fun j => 2 ^ (n - weclen lens j)).sum

/-- The bits of a symbol's code. -/
def wecBits (lens i : Nat) : List Bool := bitsDown (weclen lens i) (wecCode lens i)

/-- One element of a WEC block, a BF16 pattern (R299). -/
def wecElem (lens top x : Nat) : List Bool :=
  let e := bitsAt x 7 8
  let d := if top - e ≤ 14 ∧ weclen lens (top - e) ≠ 0 then top - e else 15
  wecBits lens d ++ (if d = 15 then bitsUp 8 e else []) ++ bitsUp 1 (bitsAt x 15 1) ++ bitsUp 7 x

/-- A WEC block of BF16 patterns (R299): the count of the bytes that follow, `Emax`, the elements. -/
def wecEncode (lens : Nat) (l : List Nat) : List Byte :=
  let top := (l.map fun x => bitsAt x 7 8).foldl max 0
  let body := BitVec.ofNat 8 top :: packBits (l.flatMap (wecElem lens top))
  natBytes 2 body.length ++ body

/-- One element read from the bits of a WEC block, and the bits that follow. -/
def wecRead (lens top : Nat) (l : List Bool) : Nat × List Bool :=
  let sym := ((List.range 16).find? fun i => weclen lens i != 0 && l.take (weclen lens i) == wecBits lens i).getD 15
  let l1 := l.drop (weclen lens sym)
  let (e, l2) := if sym = 15 then (bitsVal (l1.take 8), l1.drop 8) else (top - sym, l1)
  (bitsVal (l2.take 1) * 2 ^ 15 + e * 2 ^ 7 + bitsVal ((l2.drop 1).take 7), l2.drop 8)

/-- Elements read from the bits of a WEC block, as F32. -/
def wecElems (lens top : Nat) : List Nat → List Bool → List Elem
  | [], _ => []
  | i :: rest, l =>
    let (x, l1) := wecRead lens top l
    (i, x * 65536) :: wecElems lens top rest l1

/-- A block as it crosses the wire, and the flags of its quantisation (R297-R299). -/
def wireEncode (fmt wire lens first : Nat) (l : List Elem) : List Byte × Raised :=
  if exchInt fmt then (l.flatMap fun e => natBytes (exchSize fmt) e.2, [])
  else
    let w := l.map fun e => (e.1, widen32 fmt e.2)
    match wire with
    | 0 => (w.flatMap fun e => natBytes 4 e.2, [])
    | 2 => we4Encode first w
    | _ =>
      let q := w.map fun e => (e.1, toBf16 e.2)
      let pats := q.map fun e => e.2.1 / 65536
      (if wire = 3 then wecEncode lens pats else pats.flatMap (natBytes 2), raisedOf (q.map fun e => (e.1, e.2.2)))

/-- Elements of `n` bytes each, at a list of indices. -/
def elemsAt (n : Nat) : List Nat → List Byte → List Elem
  | [], _ => []
  | i :: rest, l => (i, bytesNat (l.take n)) :: elemsAt n rest (l.drop n)

/-- Bytes that a block takes on the wire. -/
def wireLength (fmt wire count : Nat) (l : List Byte) : Nat :=
  if exchInt fmt then count * exchSize fmt
  else match wire with
    | 0 => 4 * count
    | 2 => 33
    | 3 => 2 + bytesNat (l.take 2)
    | _ => 2 * count

/-- A block decoded where it is combined or delivered: F32 patterns or integers, and the flags of decoding. -/
def wireDecode (fmt wire lens first : Nat) (at_ : List Nat) (l : List Byte) : List Elem × Raised :=
  if exchInt fmt then (elemsAt (exchSize fmt) at_ l, [])
  else match wire with
    | 0 => (elemsAt 4 at_ l, [])
    | 2 => we4Decode first at_ l
    | 3 => (wecElems lens (l.getD 2 0#8).toNat at_ (unpackBits (l.drop 3)), [])
    | _ => ((elemsAt 2 at_ l).map fun e => (e.1, e.2 * 65536), [])

/-- Everything that a die puts on the wire: blocks in order (R297-R300). [DEDUCED, log 30] -/
def encodeWire (fmt wire lens first : Nat) (l : List Elem) : List Byte × Raised :=
  let b := (wireGroups wire first (·.1) l).map (wireEncode fmt wire lens first)
  (b.flatMap (·.1), b.foldl (fun (r : Raised) x => r.join x.2) [])

/-- Blocks read one after another. -/
def decodeBlocks (fmt wire lens first : Nat) : List (List Nat) → List Byte → List Elem × Raised
  | [], _ => ([], [])
  | at_ :: rest, l =>
    let n := wireLength fmt wire at_.length l
    let (a, f) := wireDecode fmt wire lens first at_ (l.take n)
    let (b, g) := decodeBlocks fmt wire lens first rest (l.drop n)
    (a ++ b, f.join g)

/-- What comes off the wire, for the elements of a list of indices (R297-R300). [DEDUCED, log 30] -/
def decodeWire (fmt wire lens first : Nat) (at_ : List Nat) (l : List Byte) : List Elem × Raised :=
  decodeBlocks fmt wire lens first (wireGroups wire first id at_) l

/-- What arrives is delivered in the element format (R294). -/
def deliver (fmt : Nat) (l : List Elem) : List Elem × Raised :=
  if exchInt fmt then (l, [])
  else
    let d := l.map fun e => (e.1, narrow fmt e.2)
    (d.map fun e => (e.1, e.2.1), d.foldl (fun (r : Raised) e => r.add e.1 e.2.2) [])

/-! Combining (R295, R296). -/

/-- The identity of an operation. -/
def combId (fmt op : Nat) : Nat :=
  let w := exchBits fmt
  if exchInt fmt then
    match op with
    | 2 => patOf w (intLo (exchSigned fmt) w)
    | 3 => patOf w (intHi (exchSigned fmt) w)
    | 4 => 2 ^ w - 1
    | _ => 0
  else match op with
    | 1 => 0x80000000
    | 2 => 0xFF800000
    | _ => 0x7F800000

/-- One combined element: its value in Twill, flags, and whether ADDSAT clamped. -/
def combOne (fmt op x y : Nat) : Nat × BitVec 10 × Bool :=
  if exchInt fmt then
    let w := exchBits fmt
    let sgn := exchSigned fmt
    let a := intOf sgn w x
    let b := intOf sgn w y
    match op with
    | 1 => ((x + y) % 2 ^ w, 0#10, false)
    | 2 => (if a < b then y else x, 0#10, false)
    | 3 => (if b < a then y else x, 0#10, false)
    | 4 => (x &&& y, 0#10, false)
    | 5 => (x ||| y, 0#10, false)
    | 6 => (x ^^^ y, 0#10, false)
    | _ =>
      let (i, f) := clampInt (intLo sgn w) (intHi sgn w) (a + b)
      (patOf w i, 0#10, f != 0#10)
  else match op with
    | 1 => let (r, f) := addStep x y; (r, f, false)
    | 2 => (FFmt.f32.maxPatOf x y, 0#10, false)
    | _ => (FFmt.f32.minPat x y, 0#10, false)

/-- A combined block before delivery: elements, flags, clamped indices. -/
structure Combined where
  elems : List Elem
  flags : Raised
  sats : List Nat
deriving DecidableEq, Repr

/-- The element of an index, or a default. -/
def elemAt (l : List Elem) (i dflt : Nat) : Nat := (l.lookup i).getD dflt

/-- Element by element: the *L* block first (R295). -/
def combineEach (fmt op n : Nat) (low high : List Elem) : Combined :=
  let c := (List.range n).map fun i =>
    (i, combOne fmt op (elemAt low i (combId fmt op)) (elemAt high i (combId fmt op)))
  ⟨c.map fun e => (e.1, e.2.1), c.foldl (fun (r : Raised) e => r.add e.1 e.2.2.1) [],
    (c.filter (·.2.2.2)).map (·.1)⟩

/-- An F32 product, rounded. -/
def mulStep (x y : Nat) : Nat × BitVec 10 :=
  let (p, f) := (f32v x).mul (f32v y)
  let (r, g) := FFmt.f32.round .fixed p
  (r, f ||| g)

/-- rne(rne(a * x) + rne(b * y)), with its flags. -/
def weighted (a x b y : Nat) : Nat × BitVec 10 :=
  let (p, f) := mulStep a x
  let (q, g) := mulStep b y
  let (r, h) := addStep p q
  (r, f ||| g ||| h)

/-- A weight of SOFTCOMB: VEXP2(rne(m - M)) (R100, R296). -/
def softWeight (m top : Nat) : Nat × BitVec 10 :=
  let (d, f) := addStep m (top ^^^ 0x80000000)
  let (r, g) := fexp2 (f32v d)
  (r, f ||| g)

/-- SOFTCOMB on two triples of `n` elements in all (R296). [DEDUCED, log 30] -/
def combineSoft (n : Nat) (low high : List Elem) : Combined :=
  let negInf := 0xFF800000
  let ml := elemAt low 0 negInf
  let mh := elemAt high 0 negInf
  if ml = negInf ∧ mh = negInf then ⟨(List.range n).map fun i => (i, if i = 0 then negInf else 0), [], []⟩
  else
    let top := FFmt.f32.maxPatOf ml mh
    let (al, f) := softWeight ml top
    let (ah, g) := softWeight mh top
    let c := ((List.range n).filter (0 < ·)).map fun i => (i, weighted al (elemAt low i 0) ah (elemAt high i 0))
    ⟨(0, top) :: c.map fun e => (e.1, e.2.1), c.foldl (fun (r : Raised) e => r.add e.1 e.2.2)
      (Raised.add [] 0 (f ||| g)), []⟩

/-- An operand as it enters Twill (R295-R297): for SOFTCOMB *m* and *s* cross as F32, and blocks count from
element 2. -/
def operandOut (fmt wire lens op : Nat) (l : List Elem) : List Byte × Raised :=
  if op = 8 then
    let (b, f) := encodeWire fmt wire lens 2 (l.filter fun e => 2 ≤ e.1)
    ((l.filter fun e => e.1 < 2).flatMap (fun e => natBytes 4 e.2) ++ b, f)
  else encodeWire fmt wire lens 0 l

/-- An operand of `n` elements where it is combined or delivered. -/
def operandIn (fmt wire lens op : Nat) (at_ : List Nat) (l : List Byte) : List Elem × Raised :=
  if op = 8 then
    let head := at_.filter (· < 2)
    let (o, f) := decodeWire fmt wire lens 2 (at_.filter (2 ≤ ·)) (l.drop (4 * head.length))
    (elemsAt 4 head l ++ o, f)
  else decodeWire fmt wire lens 0 at_ l

/-- Combine two operands. -/
def combine (fmt op n : Nat) (low high : List Elem) : Combined :=
  if op = 8 then combineSoft n low high else combineEach fmt op n low high

/-! What an exchange gives one die. -/

/-- Elements for the die's region, the code, the flags by index, clamped indices; the number of the message that
brought it, among those of its pair of dies (R308). -/
structure Given where
  writes : List Elem
  code : Nat
  flags : Raised
  sats : List Nat
  seq : Nat
deriving DecidableEq, Repr

/-- Nothing but a code. -/
def Given.only (code : Nat) : Given := ⟨[], code, [], [], 0⟩

/-- The combine operation by which a block crosses: only an `XCB` has one. -/
def combOf (opcode comb : Nat) : Nat := if opcode = 2 then comb else 0

/-- An exchange sends an element of its block (R294): under `XSIB` one whose index bit differs from the rank bit. -/
def sentIndex (opcode bit rank dim i : Nat) : Bool :=
  if opcode = 3 then i.testBit bit != rank.testBit dim else opcode != 6 && opcode != 8

/-- The indices that an end sends. -/
def endSends (e : RemoteEnd) (dim : Nat) : List Nat :=
  (List.range e.n).filter (sentIndex e.opcode e.bit e.rank dim)

/-- An end's block as it comes off the wire, and the flags of decoding it. -/
def endElems (e : RemoteEnd) (dim : Nat) : List Elem × Raised :=
  operandIn e.efmt e.wire e.weclen.toNat (combOf e.opcode e.comb) (endSends e dim) e.bytes

/-- Two ends are compatible (R289, R302). [DEDUCED, log 30] -/
def endAgrees (a b : RemoteEnd) : Bool :=
  (match a.opcode with
    | 1 => b.opcode == 1
    | 2 => b.opcode == 2 && a.comb == b.comb
    | 3 => b.opcode == 3 && a.bit == b.bit
    | 4 => b.opcode == 4 && a.mask == b.mask && a.back == b.back
    | 5 => b.opcode == 6
    | 6 => b.opcode == 5
    | _ => false) &&
  a.efmt == b.efmt && a.wire == b.wire && a.chComb == b.chComb && a.kind == b.kind &&
  (a.wire != 3 || a.weclen == b.weclen)

/-- The code of a pair that moves nothing; 0 when it moves (R288, R289, R307). [DEDUCED, log 30] -/
def pairCode (x : Exchange) (own other : RemoteEnd) : Nat :=
  if x.fail ≠ 0 then x.fail
  else if other.fate ≠ 0 then other.fate
  else if other.bad ∨ ¬ endAgrees own other then 6
  else 0

/-- What arrives from a partner (R294): elements at or above `BND` are dropped with `TRUNC`. -/
def received (x : Exchange) (dim : Nat) (other : RemoteEnd) : Given :=
  let (l, f) := endElems other dim
  let (w, g) := deliver other.efmt (l.filter (·.1 < x.bnd))
  let beyond := (endSends other dim).any (x.bnd ≤ ·)
  ⟨w, if beyond then 2 else 0, f.join g, [], other.seq⟩

/-- What the combined block gives a die (R295): `n` indices, its own side first or second; the flags of both
quantisations among its own (R311). -/
def combined (x : Exchange) (own other : RemoteEnd) (n : Nat) : Given :=
  let (a, f) := endElems own x.dim
  let (b, g) := endElems other x.dim
  let lowSide := !own.rank.testBit x.dim
  let c := combine own.efmt own.comb n (if lowSide then a else b) (if lowSide then b else a)
  let (w, h) := deliver own.efmt (c.elems.filter (·.1 < x.bnd))
  let wire := ((Raised.join own.flags other.flags).join f).join g
  ⟨w, if x.bnd < n then 2 else 0, (wire.join c.flags).join h, c.sats, other.seq⟩

/-- What a pairwise exchange gives a die (R294, R295). -/
def pairGiven (x : Exchange) (own other : RemoteEnd) : Given :=
  let code := pairCode x own other
  if code ≠ 0 then Given.only code
  else if x.opcode = 2 then combined x own other (max own.n other.n)
  else if x.opcode = 5 then ⟨[], 0, own.flags, [], 0⟩
  else
    let g := received x x.dim other
    { g with flags := Raised.join own.flags g.flags }

/-- What an absent partner leaves (R306): `XCB` combines with the identity. -/
def absentGiven (x : Exchange) (own : RemoteEnd) : Given :=
  if x.opcode = 2 then
    let g := combined x own { own with rank := own.rank ^^^ 2 ^ x.dim, n := 0, bytes := [], flags := [] } own.n
    { g with code := max 1 g.code, seq := 0 }
  else Given.only 1

end Sys2Proof.Machine
end

