-- ==== Sys2Proof/Machine/Exchanges.lean ====
section
/-! DEFINITION. The exchange units at work: posting, pairing, rings, fan-out, barriers and the swap of route
banks, backlogs, detours, completion (R287-R311, R381, R414). -/
namespace Sys2Proof.Machine

/-- An exchange of the engines' list. -/
def Pkg.exchangeOf (p : Pkg) (id : Nat) : Option (Engine × Exchange) :=
  match p.engine id with
  | none => none
  | some e => match e.job with
    | .exchange x => some (e, x)
    | _ => none

/-- A pairwise instruction (R289). -/
def Exchange.pairwise (x : Exchange) : Bool :=
  x.opcode == 1 || x.opcode == 2 || x.opcode == 3 || x.opcode == 5 || x.opcode == 6

/-- The exchange of another operation of the list, for a predicate. -/
def Engine.isExchange (e : Engine) (f : Exchange → Bool) : Bool :=
  match e.job with
  | .exchange x => f x
  | _ => false

/-- This end of an exchange before its block is read. -/
def Exchange.blank (x : Exchange) : RemoteEnd where
  rank := x.rank
  opcode := x.opcode
  mask := x.mask
  back := x.back
  comb := x.comb
  bit := if x.opcode = 8 then (if x.swap then 1 else 0) else x.bit
  fate := if x.fail = 12 then 12 else 0
  efmt := chEfmt x.chan
  wire := chWire x.chan
  chComb := chComb x.chan
  kind := chKind x.chan
  weclen := BitVec.ofNat 64 (chWeclen x.chan)
  bad := x.fail != 0 && x.fail != 12
  n := 0
  bytes := []
  flags := []
  seq := 0
  taken := false

/-- This end as it stands posted; before that, with nothing in it. -/
def Exchange.end_ (x : Exchange) : RemoteEnd := x.own.getD x.blank

/-- The end with its block, which is read once, when the exchange is posted, and quantised where it enters Twill
(R286, R292, R300). -/
def State.formEnd (s : State) (e : Engine) (x : Exchange) (seq : Nat) : RemoteEnd :=
  let z := exchSize (chEfmt x.chan)
  let addrs := if x.fail = 0 ∧ x.sends then x.blockAddrs else []
  let sent := addrs.zipIdx.filter fun a => sentIndex x.opcode x.bit x.rank x.dim a.2
  let block : List Elem := sent.map fun a => (a.2, bytesNat (s.engineRead e.sock e.kern a.1 z))
  let (bytes, flags) := operandOut (chEfmt x.chan) (chWire x.chan) (chWeclen x.chan) (combOf x.opcode x.comb) block
  { x.blank with n := addrs.length, bytes := bytes, flags := flags, seq := seq }

/-- Where a neighbour lies: a socket of this package, or across a link of a physical dimension. -/
inductive Peer where
  | here (sock : Nat)
  | far (dim : Nat)
deriving DecidableEq, Repr

/-- The neighbour of a rank. -/
def Exchange.peer (x : Exchange) (sock rank : Nat) : Peer :=
  let d := x.dmap.getD (dimBetween x.rank rank) 31
  if d < 4 then .here (sock ^^^ 2 ^ d) else .far d

/-- The ranks of its neighbours. -/
def Exchange.neighbours (x : Exchange) : List Nat :=
  if x.opcode = 4 then [x.toRank, x.fromRank].eraseDups else [x.toRank]

/-- Its block crosses a link (R133, R293): for `XRING` the dimension towards its successor; under `XBAR`, some participant
of its mask lies in another package. -/
def Exchange.goesFar (x : Exchange) (sock : Nat) : Bool :=
  if x.opcode = 8 then (maskBits x.mask).any fun i => 4 ≤ x.dmap.getD i 31
  else !x.absentRank x.toRank && match x.peer sock x.toRank with
    | .far _ => true
    | .here _ => false

/-- The numbering of the package's exchanges in which ends of other packages are kept: that of the die, and for `XBAR`
one of the package. -/
def Exchange.farKey (x : Exchange) (e : Engine) : Nat :=
  numberKey e.kern (if x.opcode = 8 then 0 else e.sock) x.opcode x.ch x.dim x.mask

/-- The ends that other packages have posted for an exchange, and that of one rank. -/
def Pkg.farEndsOf (p : Pkg) (e : Engine) (x : Exchange) : List RemoteEnd :=
  (p.farEnds.filter fun f => f.key == x.farKey e && f.number == x.number).map (·.e)

def Pkg.farEnd (p : Pkg) (e : Engine) (x : Exchange) (rank : Nat) : Option RemoteEnd :=
  (p.farEndsOf e x).find? (·.rank == rank)

/-- An end of another package arrives: what came first stays, and that it took this end's block is noted (R308). -/
def Pkg.addFar (p : Pkg) (key number : Nat) (b : RemoteEnd) : Pkg :=
  let same (f : FarEnd) : Bool := f.key == key && f.number == number && f.e.rank == b.rank
  if p.farEnds.any same then
    { p with farEnds := p.farEnds.map fun f =>
        if same f then { f with e := { f.e with taken := f.e.taken || b.taken } } else f }
  else { p with farEnds := p.farEnds ++ [⟨key, number, b⟩] }

/-- Nothing more is kept for an exchange, but of a ring step its mask. -/
def Pkg.dropFar (p : Pkg) (e : Engine) (x : Exchange) : Pkg :=
  { p with
    farEnds := p.farEnds.filter fun f => !(f.key == x.farKey e && f.number == x.number)
    ringDone := if x.opcode = 4 then (x.farKey e, x.number, x.mask) :: p.ringDone else p.ringDone }

/-- What has become of the die of a rank in another package: 0, 8 ended, 9 fenced (R304, R307). -/
def Pkg.goneCode (p : Pkg) (kern rank : Nat) : Nat :=
  match p.launch kern with
  | none => 0
  | some l => (l.gone.lookup (gidOf l.packet rank)).getD 0

/-- The operation of the same number on a neighbour's die (R289, R302). -/
def Pkg.partner (p : Pkg) (e : Engine) (x : Exchange) (sock : Nat) : Option (Engine × Exchange) :=
  let same (y : Exchange) : Bool :=
    (y.opcode == 4) == (x.opcode == 4) && (y.pairwise || y.opcode == 4) && y.ch == x.ch &&
      (x.opcode == 4 || y.dim == x.dim) && y.number == x.number
  (p.engines.find? fun z => z.kern == e.kern && z.sock == sock && z.isExchange same).bind fun z => p.exchangeOf z.id

/-- A neighbour's die has numbered an exchange of this number already (R288, R302): when the operation is gone,
it completed without its partner. -/
def Pkg.passed (p : Pkg) (e : Engine) (x : Exchange) (sock : Nat) : Bool :=
  x.number < Store.get 0 p.numbers (numberKey e.kern sock x.opcode x.ch x.dim x.mask)

/-- A die of the kernel has been fenced (R307). -/
def Pkg.fencedDie (p : Pkg) (kern sock : Nat) : Bool := (p.launch kern).any (·.fenced.contains sock)

/-! Backlog rings (R309, R381). -/

/-- The operation's kernel is away. -/
def State.isAway (s : State) (sock kern : Nat) : Bool :=
  !s.resident sock kern && (s.pkg.imageOf sock kern).isSome

/-- Bytes a record takes. -/
def Backlog.size (b : Backlog) : Nat := 64 + (b.bytes.length + 63) / 64 * 64

/-- A record as it lies in the ring. -/
def Backlog.record (b : Backlog) : List Byte :=
  natBytes 4 b.dest ++ natBytes 4 b.bytes.length ++ natBytes 1 b.kind ++ natBytes 1 (b.flag.getD 0xFF) ++
    natBytes 2 0 ++ natBytes 4 (b.statusOff.getD 0xFFFFFFFF) ++ natBytes 8 b.statusWord.toNat ++ natBytes 8 b.seq ++
    natBytes 32 0 ++ b.bytes ++ List.replicate (b.size - 64 - b.bytes.length) 0#8

/-- Bytes of a ring that are taken, and its size. -/
def Pkg.ringUsed (p : Pkg) (sock kern : Nat) : Nat :=
  ((p.backlog.filter fun b => b.kern == kern && b.sock == sock && b.kind != lateWrite).map Backlog.size).sum

def State.ringSize (s : State) (kern : Nat) : Nat :=
  match s.pkg.launch kern with
  | none => 0
  | some l => let u := s.rcb l.rcb 0x78 0 16; if u = 0 then Config.mib else 65536 * u

/-- Records fit their ring. -/
def State.ringFits (s : State) (sock kern : Nat) (l : List Backlog) : Bool :=
  s.pkg.ringUsed sock kern + (l.map Backlog.size).sum ≤ s.ringSize kern

/-- A record goes to its ring, after the image in package memory. [DEDUCED, log 21] -/
def State.backlogAdd (s : State) (b : Backlog) : State :=
  let s1 := match s.pkg.imageOf b.sock b.kern with
    | none => s
    | some i => s.physWrite false (i.addr + Config.ctxSize + s.pkg.ringUsed b.sock b.kern) b.record
  s1.modPkg fun p => { p with backlog := p.backlog ++ [b] }

/-! Results. -/

/-- The statistics records of an exchange, by its bundle's issue cycle and program counter (R310). -/
def exchangeRecords (issue pc : Nat) (flags : Raised) (sats : List Nat) : List (BitVec 128) :=
  let rec_ (ev first count : Nat) : BitVec 128 :=
    BitVec.ofNat 128 (issue % 2 ^ 64 * 2 ^ 64 + first % 65536 * 2 ^ 48 + min count 65535 * 2 ^ 32 + 9 * 2 ^ 24 +
      ev * 2 ^ 16 + pc % 2 ^ 15)
  let marked (ev : Nat) : Option (BitVec 128) :=
    match flags.filter fun e => e.2.getLsbD (eventBit ev) with
    | [] => none
    | e :: rest => some (rec_ ev e.1 (rest.length + 1))
  [1, 2, 3, 4, 5, 6, 8].filterMap marked ++ match sats with
    | [] => []
    | i :: rest => [rec_ 9 i (rest.length + 1)]

/-- The `STATUS` bits and records of what an exchange raises on a die (R310, R311). -/
def Die.exchangeRaised (d : Die) (issue pc : Nat) (flags : Raised) (sats : List Nat) : Die :=
  let bits := orFlags (flags.map (·.2)) ||| (if sats = [] then 0#10 else fSAT)
  (exchangeRecords issue pc flags sats).foldl Die.pushStat { d with sr.status := d.sr.status ||| bits }

/-- Those of a completion. -/
def Die.exchangeDone (d : Die) (x : Exchange) : Die :=
  d.exchangeRaised x.issue x.pc x.res.flags (x.res.sats.map (·.1))

/-- The status word (R291). -/
def Exchange.statusWord (x : Exchange) : Nat := x.res.code % 2 ^ 32 + x.res.elems % 2 ^ 24 * 2 ^ 32

/-- An exchange with something more given to it. -/
def Exchange.take (x : Exchange) (g : Given) (sent got : Bool) : Exchange :=
  { x with res := {
      code := max x.res.code g.code
      elems := x.res.elems + g.writes.length
      flags := Raised.join x.res.flags g.flags
      sats := g.sats.foldl (fun m i => Store.set false m i true) x.res.sats
      sent := x.res.sent || sent
      got := x.res.got || got } }

/-- Elements of consecutive indices, together. -/
def runsOf : List Elem → List (Nat × List Nat)
  | [] => []
  | (i, v) :: rest =>
    match runsOf rest with
    | [] => [(i, [v])]
    | (j, l) :: more => if j = i + 1 then (i, v :: l) :: more else (i, [v]) :: (j, l) :: more

/-- What is given, as places in scratchpad and bytes. -/
def Exchange.writes (x : Exchange) (g : Given) : List (Nat × List Byte) :=
  let z := exchSize (chEfmt x.chan)
  (runsOf g.writes).map fun r => (x.rbase + r.1 * z, r.2.flatMap (natBytes z))

/-- Put the flag and the status word into the last record. -/
def closeRecords (e : Engine) (y : Exchange) (seq : Nat) : List Backlog → List Backlog
  | [] => [⟨e.kern, e.sock, 0, [], 2, some e.flag, some y.statusAt, BitVec.ofNat 64 y.statusWord, seq⟩]
  | [b] => [{ b with flag := some e.flag, statusOff := some y.statusAt, statusWord := BitVec.ofNat 64 y.statusWord }]
  | b :: rest => b :: closeRecords e y seq rest

/-- The records of what is given to a kernel that is away (R309, R381). -/
def ringRecords (e : Engine) (x y : Exchange) (g : Given) (done : Bool) : List Backlog :=
  let data := (x.writes g).map fun w => (⟨e.kern, e.sock, w.1, w.2, 0, none, none, 0#64, g.seq⟩ : Backlog)
  if done then closeRecords e y g.seq data else data

/-- An earlier exchange of the same channel and dimension is outstanding (R290). -/
def Pkg.exchangeBehind (p : Pkg) (e : Engine) (x : Exchange) : Bool :=
  p.engines.any fun z => z.sock == e.sock && z.kern == e.kern && z.id < e.id && z.isExchange fun y =>
    y.ch == x.ch && ((x.pairwise && y.pairwise && y.dim == x.dim) || (x.opcode == 4 && y.opcode == 4))

/-- Something may be given now: the kernel is on its die, or its ring takes it, in order of completion, and this is the
step that stores it there. -/
def State.mayGive (s : State) (bl : Bool) (e : Engine) (x : Exchange) (g : Given) : Bool :=
  !s.isAway e.sock e.kern ||
    (bl && !s.pkg.exchangeBehind e x && s.ringFits e.sock e.kern (ringRecords e x x g true))

/-- Give an exchange what has arrived; with `done` it is decided, or complete in its ring. -/
def State.give (s : State) (e : Engine) (x : Exchange) (g : Given) (sent got : Bool) : State :=
  let y := x.take g sent got
  let done := y.res.sent && y.res.got
  if s.isAway e.sock e.kern then
    let s1 := (ringRecords e x y g done).foldl State.backlogAdd s
    if done then
      (s1.modKernelDie e.sock e.kern (·.exchangeDone y)).modPkg fun p => (p.dropEngine e.id).dropFar e x
    else s1.modPkg (·.putEngine { e with job := .exchange y })
  else
    let s1 := (x.writes g).foldl (fun s w => s.engineWrite e.sock e.kern w.1 w.2) s
    s1.modPkg (·.putEngine { e with
      job := .exchange y, stage := if done then .decided y.res.code y.res.elems else .begun })

/-- Decide an exchange with a code and nothing else. -/
def State.stopExchange (s : State) (e : Engine) (x : Exchange) (code : Nat) : State :=
  s.give e x (Given.only code) true true

/-! Posting (R288-R290). -/

/-- A pairwise exchange may be posted: earlier ones of its channel are, and fewer than `DEPTH` are posted and
not complete (R290). -/
def Pkg.mayPost (p : Pkg) (e : Engine) (x : Exchange) : Bool :=
  let mine (z : Engine) : Bool :=
    z.sock == e.sock && z.kern == e.kern && z.id != e.id && z.isExchange fun y => y.pairwise && y.ch == x.ch
  !x.pairwise ||
    (!(p.engines.any fun z => mine z && z.id < e.id && z.stage == .sent) &&
      (x.fail != 0 || (p.engines.filter fun z => mine z && z.stage != .sent).length < chDepth x.chan))

/-- What an end sends across links, each message with the package it is for. -/
def Exchange.messages (x : Exchange) (p : Pkg) (e : Engine) (b : RemoteEnd) : List (Nat × LinkMsg) :=
  match p.launch e.kern with
  | none => []
  | some l =>
    if x.opcode = 8 then
      let dims := ((maskBits x.mask).map (x.dmap.getD · 31)).filter fun d => 4 ≤ d && d < 20
      (packagesOver p.regs.pkgid.toNat dims).map fun k => (k, .barrier k l.packet l.when x.number b)
    else x.neighbours.filterMap fun r =>
      let k := gidOf l.packet r / 16
      match x.peer e.sock r with
      | .here _ => none
      | .far _ => if x.absentRank r then none else some (k, .block k l.packet l.when r x.ch x.dim x.number b)

def State.announce (s : State) (e : Engine) (x : Exchange) (b : RemoteEnd) : State :=
  s.modPkg fun p => { p with outbox := p.outbox ++ (x.messages p e b).map fun m => p.toPackage m.1 m.2 }

/-- The next number of a message from one die to another (R308). -/
def pairKey (kern from_ to_ : Nat) : Nat := (kern * 2 ^ 24 + from_) * 2 ^ 24 + to_

def State.takePairNo (s : State) (kern from_ to_ : Nat) : Nat × State :=
  let k := pairKey kern from_ to_
  let n := Store.get 0 s.pkg.pairNo k
  (n, s.modPkg fun p => { p with pairNo := Store.set 0 p.pairNo k (n + 1) })

/-- Put this end in place. -/
def State.putEnd (s : State) (e : Engine) (x : Exchange) (b : RemoteEnd) : State :=
  s.modPkg (·.putEngine { e with stage := .begun, job := .exchange { x with own := some b } })

/-- Post an exchange (R130), which a kernel does that is on its die (R309). A send, and the arrival at a barrier, is a
release (R133); towards another package it is posted only when that release is complete (R137). One that failed a check at
issue sends no block. [DEDUCED, log 31] -/
def State.post (s : State) (e : Engine) (x : Exchange) : State :=
  let sends := x.fail = 0 ∧ x.sends
  let held := (sends ∨ x.opcode = 8) ∧
    ((x.goesFar e.sock ∧ ¬ s.releaseReady e 3) ∨ (x.opcode = 8 ∧ ¬ s.releaseReady e 4))
  if s.isAway e.sock e.kern ∨ s.waitsFor e ∨ ¬ s.pkg.mayPost e x ∨ held then s
  else
    let s1 := if sends ∨ x.opcode = 8 then s.opRelease e 2 else s
    let (seq, s2) := if sends then s1.takePairNo e.kern x.rank x.toRank else (0, s1)
    let b := s2.formEnd e x seq
    (s2.putEnd e x b).announce e x b

/-! Pairing (R289, R294, R295, R302, R306, R307). -/

/-- Give both ends of a pair. -/
def State.pairBoth (s : State) (bl : Bool) (e : Engine) (x : Exchange) (f : Engine) (y : Exchange) : State :=
  let g := pairGiven x x.end_ y.end_
  let h := pairGiven y y.end_ x.end_
  if s.mayGive bl e x g ∧ s.mayGive bl f y h then (s.give e x g true true).give f y h true true else s

/-- Give one end. -/
def State.giveOne (s : State) (bl : Bool) (e : Engine) (x : Exchange) (g : Given) (sent got : Bool) : State :=
  if s.mayGive bl e x g then s.give e x g sent got else s

/-- Give one end what a partner of another package sent, and tell that package (R293). -/
def State.giveFar (s : State) (bl : Bool) (e : Engine) (x : Exchange) (b : RemoteEnd) (g : Given) (sent : Bool) : State :=
  if s.mayGive bl e x g then
    let s1 := s.give e x g sent true
    if b.opcode = 6 then s1 else s1.announce e x { x.end_ with taken := true }
  else s

/-- A pairwise exchange and the end that a partner of another package has posted: what arrived is given; the exchange is
sent once the partner has taken its block (R137, R293). -/
def State.pairFar (s : State) (bl : Bool) (e : Engine) (x : Exchange) (b : RemoteEnd) : State :=
  if pairCode x x.end_ b ≠ 0 then s.giveOne bl e x (pairGiven x x.end_ b) true true
  else if ¬ x.res.got then s.giveFar bl e x b (pairGiven x x.end_ b) (b.taken || x.opcode == 6)
  else if b.taken ∧ ¬ x.res.sent then s.giveOne bl e x (Given.only 0) true false
  else s

/-- A pairwise exchange meets its partner, if it can. [DEDUCED, log 30] -/
def State.pair (s : State) (bl : Bool) (e : Engine) (x : Exchange) : State :=
  if x.fail ≠ 0 then s.giveOne bl e x (Given.only x.fail) true true
  else if x.absentRank x.toRank then s.giveOne bl e x (absentGiven x x.end_) true true
  else match x.peer e.sock x.toRank with
    | .here k =>
      if s.pkg.fencedDie e.kern k then s.giveOne bl e x (Given.only 9) true true
      else match s.pkg.partner e x k with
        | some (f, y) => if f.stage = .begun then s.pairBoth bl e x f y else s
        | none => if s.pkg.passed e x k then s.giveOne bl e x (Given.only 6) true true else s
    | .far _ =>
      if s.pkg.goneCode e.kern x.toRank = 9 then s.giveOne bl e x (Given.only 9) true true
      else match s.pkg.farEnd e x x.toRank with
        | none => s
        | some b => s.pairFar bl e x b

/-- What the sender and the receiver of a ring step are given. -/
def ringSent (x : Exchange) (own other : RemoteEnd) : Given :=
  let code := pairCode x own other
  if code ≠ 0 then Given.only code else ⟨[], 0, own.flags, [], 0⟩

def ringGot (x : Exchange) (own other : RemoteEnd) : Given :=
  let code := pairCode x own other
  if code ≠ 0 then Given.only code else received x x.dim other

/-- One ring step from a die to another, both posted. [DEDUCED, log 30] -/
def State.ringStep (s : State) (bl : Bool) (e : Engine) (x : Exchange) (f : Engine) (y : Exchange) : State :=
  let g := ringSent x x.end_ y.end_
  let h := ringGot y y.end_ x.end_
  if s.mayGive bl e x g ∧ s.mayGive bl f y h then
    (s.give e x g (x.toRank == y.rank) false).give f y h false (y.fromRank == x.rank)
  else s

/-- The sending half of a ring step; towards another package it is done once the successor has taken the block. -/
def State.ringSend (s : State) (bl : Bool) (e : Engine) (x : Exchange) : State :=
  if x.res.sent then s
  else if x.absentRank x.toRank then s.giveOne bl e x (Given.only 1) true false
  else match x.peer e.sock x.toRank with
    | .here k =>
      if s.pkg.fencedDie e.kern k then s.giveOne bl e x (Given.only 9) true false
      else match s.pkg.partner e x k with
        | some (f, y) => if f.stage = .begun then s.ringStep bl e x f y else s
        | none => if s.pkg.passed e x k then s.giveOne bl e x (Given.only 6) true false else s
    | .far _ =>
      if s.pkg.goneCode e.kern x.toRank = 9 then s.giveOne bl e x (Given.only 9) true false
      else match s.pkg.farEnd e x x.toRank with
        | none => s
        | some b =>
          if b.taken ∨ pairCode x x.end_ b ≠ 0 then s.giveOne bl e x (ringSent x x.end_ b) true false else s

/-- The receiving half of a ring step. -/
def State.ringReceive (s : State) (bl : Bool) (e : Engine) (x : Exchange) : State :=
  if x.res.got then s
  else if x.absentRank x.fromRank then s.giveOne bl e x (Given.only 1) false true
  else match x.peer e.sock x.fromRank with
    | .here k =>
      if s.pkg.fencedDie e.kern k then s.giveOne bl e x (Given.only 9) false true
      else match s.pkg.partner e x k with
        | some (f, y) => if f.stage = .begun then s.ringStep bl f y e x else s
        | none => if s.pkg.passed e x k then s.giveOne bl e x (Given.only 6) false true else s
    | .far _ =>
      if s.pkg.goneCode e.kern x.fromRank = 9 then s.giveOne bl e x (Given.only 9) false true
      else match s.pkg.farEnd e x x.fromRank with
        | none => s
        | some b => s.giveFar bl e x b (ringGot x x.end_ b) false

/-- Ends of other packages whose ring names this die although its own ring does not name theirs. -/
def Pkg.ringStrays (p : Pkg) (e : Engine) (x : Exchange) : List RemoteEnd :=
  (p.farEndsOf e x).filter fun b => !b.taken && !x.neighbours.contains b.rank

/-- Both dies of such a pair complete with `MISMATCH` (R302): this one has the code, and the other learns of it from this
die's own end. -/
def State.ringStray (s : State) (e : Engine) (x : Exchange) : State :=
  let strays := s.pkg.ringStrays e x
  match s.pkg.launch e.kern with
  | none => s
  | some l =>
    if strays = [] then s
    else
      let heard (f : FarEnd) : FarEnd :=
        if f.key == x.farKey e && f.number == x.number then { f with e := { f.e with taken := true } } else f
      s.modPkg fun p => { p.putEngine { e with job := .exchange (x.take (Given.only 6) false false) } with
        farEnds := p.farEnds.map heard
        outbox := p.outbox ++ strays.map fun b =>
          let k := gidOf l.packet b.rank / 16
          p.toPackage k (.block k l.packet l.when b.rank x.ch x.dim x.number x.end_) }

/-- The halves of a ring step that has been posted, as far as they go. -/
def State.ring (t : State) (bl : Bool) (e : Engine) (y : Exchange) : State :=
  let s := t.ringStray e y
  let x := match s.pkg.exchangeOf e.id with
    | some z => z.2
    | none => y
  if x.fail ≠ 0 then s.giveOne bl e x (Given.only x.fail) true true
  else
    let s1 := s.ringSend bl e x
    match s1.pkg.exchangeOf e.id with
    | some (f, y) => if f.stage = .begun then s1.ringReceive bl f y else s1
    | none => s1

/-! Barriers (R304) and swaps (R414). -/

/-- The arrivals of a phase in this package: of the ranks that differ from one only within the mask (R304). -/
def Pkg.arrivals (p : Pkg) (kern : Nat) (x : Exchange) : List (Engine × Exchange) :=
  (p.engines.filter fun z => z.kern == kern && z.stage == .begun && z.isExchange fun y =>
    y.opcode == 8 && y.mask == x.mask && y.number == x.number && outside (y.rank ^^^ x.rank) x.mask == 0).filterMap
    fun z => p.exchangeOf z.id

/-- The arrivals of a phase that names every dimension (R304). -/
def Pkg.swapArrivals (p : Pkg) (v : Vote) : List (Engine × Exchange) :=
  (p.engines.filter fun z => z.kern == v.kern && z.stage == .begun && z.isExchange fun y =>
    y.opcode == 8 && y.mask == v.mask && y.number == v.number).filterMap fun z => p.exchangeOf z.id

/-- Decide every arrival of a phase. [DEDUCED, log 32] -/
def State.decidePhase (s : State) (l : List (Engine × Exchange)) (code elems : Nat) : State :=
  s.modPkg fun p => l.foldl (fun p z => p.putEngine { z.1 with
    job := .exchange { z.2 with res := { z.2.res with code := code, elems := elems } }
    stage := .decided code elems }) p

/-- Dimensions 4-19 of a subcube. -/
def Launch.links (l : Launch) : List Nat := linkDims l.packet

/-- The conditions under which a package votes for a swap (R414). [DEDUCED, log 32] -/
def Pkg.votesYes (p : Pkg) (dims : List Nat) : Bool :=
  let act := p.regs.rtact
  let all := (List.range 20).filter (4 ≤ ·)
  let named := (all.filter fun d => routeValid (p.route (!act) d)).map fun d => routePort (p.route (!act) d)
  p.regs.armed && !p.regs.swaplk &&
    (dims.all fun d =>
      let e := p.route (!act) d
      let x := p.port (routePort e)
      routeValid e && x.state == .up && x.nbr.toNat == routeExpect e) &&
    (all.all fun d => dims.contains d || p.route (!act) d == p.route act d) && named.eraseDups == named

/-- What is known of a phase: the ranks it has, those absent, whether everything due to it is there, the code that the
missing leave, the swap bits of those that arrived. -/
structure Phase where
  total : Nat
  absent : Nat
  complete : Bool
  code : Nat
  swap : Bool
  mixed : Bool
deriving DecidableEq, Repr

/-- Look at a phase with what other packages have reported. -/
def State.phase (s : State) (l : Launch) (e : Engine) (x : Exchange) : Phase :=
  let bits := maskBits x.mask
  let base := outside x.rank x.mask
  let ranks := (List.range (2 ^ bits.length)).map fun c => scatterBits base c bits
  let gone (r : Nat) : Bool := l.absent.contains r
  let here (r : Nat) : Bool := gidOf l.packet r / 16 == s.pkg.regs.pkgid.toNat
  let sock (r : Nat) : Nat := gidOf l.packet r % 16
  let arr := s.pkg.arrivals l.id x
  let far := s.pkg.farEndsOf e x
  let came (r : Nat) : Bool := (arr.any fun z => z.2.rank == r) || far.any fun b => b.rank == r && b.fate == 0
  let fate (r : Nat) : Nat :=
    if here r then (if l.fenced.contains (sock r) then 9 else if l.ended.contains (sock r) then 8 else 0)
    else max (s.pkg.goneCode l.id r) (((far.find? (·.rank == r)).map (·.fate)).getD 0)
  let missing := ranks.filter fun r => !gone r && !came r
  let swaps := arr.map (·.2.swap) ++ (far.filter fun b => b.fate == 0 && ranks.contains b.rank).map fun b => b.bit == 1
  let mixed := swaps.any id && !swaps.all id
  ⟨ranks.length, (ranks.filter gone).length, missing.all fun r => fate r != 0,
    max (if mixed then 6 else 0) ((missing.map fate).foldl max 0), swaps.any id, mixed⟩

/-- The package that decides on a swap: that of the lowest present rank (R414). -/
def Pkg.decider (p : Pkg) (l : Launch) : Nat :=
  match (List.range (2 ^ pktNdim l.packet)).find? fun r => !l.absent.contains r with
  | none => p.regs.pkgid.toNat
  | some r => gidOf l.packet r / 16

/-- Take part in the vote on a swap (R414): the vote goes to the package that decides. [DEDUCED, log 32] -/
def State.castVote (s : State) (l : Launch) (x : Exchange) (ph : Phase) : State :=
  if s.pkg.votes.any fun v => v.kern == l.id && v.mask == x.mask && v.number == x.number then s
  else
    let yes := s.pkg.votesYes l.links
    let own := s.pkg.regs.pkgid.toNat
    let k := s.pkg.decider l
    let msgs : List HostMsg := if k = own then [] else
      [s.pkg.toPackage k (.vote k own l.packet l.when x.mask x.number yes)]
    s.modPkg fun p => { p with
      votes := p.votes ++ [⟨p.nextId, l.id, l.packet, l.when, x.mask, x.number, k, !p.regs.swaplk, yes, ph.total - ph.absent⟩]
      nextId := p.nextId + 1
      regs := { p.regs with swaplk := true }
      outbox := p.outbox ++ msgs }

/-- A barrier phase that has everything due to it completes, or is put to the vote when every participant has arrived with
the swap bit set (R304). [DEDUCED, log 30] -/
def State.barrierPhase (s : State) (e : Engine) (x : Exchange) : State :=
  if x.mask = 0 then s.decidePhase [(e, x)] 0 1
  else match s.pkg.launch e.kern with
    | none => s
    | some l =>
      let ph := s.phase l e x
      if ¬ ph.complete then s
      else if ph.swap ∧ ph.code = 0 then s.castVote l x ph
      else (s.decidePhase (s.pkg.arrivals e.kern x) ph.code (ph.total - ph.absent)).modPkg (·.dropFar e x)

/-- Route writes that waited on a swap (R414). -/
def Pkg.applyHeld (p : Pkg) : Pkg :=
  if p.regs.swaplk then p
  else
    let one (p : Pkg) (h : HeldRoute) : Pkg :=
      if h.bank != p.regs.rtact then p.writeRoute h.bank h.dim h.entry
      else { p with regs := { p.regs with lostw := true } }
    p.heldRoutes.foldl one { p with heldRoutes := [] }

/-- A vote of another package on the swap of a vote here. -/
def Vote.meets (v : Vote) (w : FarVote) : Bool :=
  w.packet == v.packet && w.time == v.time && w.mask == v.mask && w.number == v.number

/-- The swap of a vote is done here, or not (R414). The ports that a `RETOPO` drained carry traffic again (R413). -/
def Pkg.swapped (p : Pkg) (v : Vote) (commit : Bool) : Pkg :=
  let g := p.regs
  let g1 := if commit then { g with rtact := !g.rtact, armed := false, swaplk := false }
    else { g with swaplk := g.swaplk && !v.holds }
  { p with
    regs := g1
    ports := if commit then p.ports.map fun e => (e.1, { e.2 with lost := false }) else p.ports
    votes := p.votes.filter (·.id != v.id)
    farVotes := p.farVotes.filter (!v.meets ·)
    farEnds := p.farEnds.filter fun f => !(f.key == numberKey v.kern 0 8 0 0 v.mask && f.number == v.number) }

/-- A swap is decided for this package, as every vote known here and those that `farYes` stands for have it, or as another
package has decided (R414): what was voted on is done or not, the package that decides tells the others, and the phase
completes on the dies that still wait in it. -/
def State.decideVote (s : State) (v : Vote) (farYes : Bool) : State :=
  let commit := v.yes && farYes && (s.pkg.farVotes.filter v.meets).all (·.yes)
  let own := s.pkg.regs.pkgid.toNat
  let msgs : List HostMsg := if v.decider = own then (otherPackages own v.packet).map fun k =>
    s.pkg.toPackage k (.decision k v.packet v.time v.mask v.number commit) else []
  let arr := s.pkg.swapArrivals v
  (s.modPkg fun p => { (p.swapped v commit).applyHeld with outbox := p.outbox ++ msgs }).decidePhase arr
    (if commit then 0 else 11) v.elems

/-- The same for the vote of a number. -/
def State.decideSwap (s : State) (id : Nat) (farYes : Bool) : State :=
  match s.pkg.votes.find? (·.id == id) with
  | none => s
  | some v => s.decideVote v farYes

/-- `SWAP_DECISION` (R414): on the swap of a vote of this package, with the votes that have come in and with those still
out, or the decision that another package has taken. [DEDUCED, log 32] -/
def execSwapDecision (id : Nat) (farYes : Bool) (s : State) : Out := .next (s.decideSwap id farYes)

/-! The steps. -/

/-- Post what waits to be posted, then go as far as both ends allow. -/
def State.exchangeStep (s : State) (bl : Bool) (id : Nat) : State :=
  let s1 := match s.pkg.exchangeOf id with
    | some (e, x) => if e.stage = EngineStage.sent ∧ x.opcode ≠ 7 then s.post e x else s
    | none => s
  match s1.pkg.exchangeOf id with
  | none => s1
  | some (e, x) =>
    if e.stage ≠ EngineStage.begun ∨ x.opcode = 7 then s1
    else if x.opcode = 8 then s1.barrierPhase e x
    else if x.opcode = 4 then s1.ring bl e x
    else s1.pair bl e x

/-- Ends that arrive with a step. -/
def State.addFarEnds (s : State) (id : Nat) (far : List RemoteEnd) : State :=
  match s.pkg.exchangeOf id with
  | none => s
  | some (e, x) => s.modPkg fun p => far.foldl (fun p b => p.addFar (x.farKey e) x.number b) p

/-- `EXCHANGE_PAIRING` (R289): an exchange is posted and meets its partners; `far` holds what other packages
have posted. -/
def execExchangePairing (id : Nat) (far : List RemoteEnd) (s : State) : Out :=
  .next ((s.addFarEnds id far).exchangeStep false id)

/-- `BACKLOG_STORE` (R309): as a pairing, with an end whose stream is away and whose ring has room. -/
def execBacklogStore (id : Nat) (s : State) : Out := .next (s.exchangeStep true id)

/-- `EXCHANGE_COMPLETE` (R291, R310). -/
def execExchangeComplete (id : Nat) (s : State) : Out :=
  match s.pkg.exchangeOf id with
  | none => .next s
  | some (e, x) =>
    match e.stage with
    | .decided _ _ =>
      if s.pkg.exchangeBehind e x then .next s
      else
        let s1 := if e.orphan then s else s.modKernelDie e.sock e.kern (·.exchangeDone x)
        .next ((s1.finish e [((x.statusAt : Int), natBytes 8 x.statusWord)] (2 ≤ x.res.code)).modPkg fun p =>
          if x.opcode = 8 then p else p.dropFar e x)
    | _ => .next s

/-! Fan-out (R303). -/

/-- A row at its destination: the kernel's die there, the channel and its parameters, the experts, the row of `n` elements
as it crosses the wire, the issue cycle and program counter of its bundle, its number in its pair of dies. -/
structure FanRow where
  kern : Nat
  part : Nat
  region : Nat
  sock : Nat
  ch : Nat
  efmt : Nat
  wire : Nat
  mask : Nat
  n : Nat
  bytes : List Byte
  issue : Nat
  pc : Nat
  seq : Nat
deriving DecidableEq, Repr

/-- Experts of a mask. -/
def FanRow.experts (r : FanRow) : List Nat := (List.range 16).filter (r.mask.testBit ·)

/-- One expert's copy: the highest code so far, copies written, the state. -/
def State.fanCopy (s : State) (r : FanRow) (entry : BitVec 512) (bytes : List Byte) (acc : Nat × Nat) (e : Nat) :
    (Nat × Nat) × State :=
  let c := chCtr entry e
  if ¬ ownedBy (s.pkg.counter c).owner r.part r.region then ((max 7 acc.1, acc.2), s)
  else
    let k := (s.pkg.counter c).value.toNat
    let at_ := chBuf entry e * 16384 + k * (64 * ((bytes.length + 63) / 64))
    let bump (s : State) : State := s.modPkg fun p => (p.arrive c 1#32).1
    if (s.kernelDie r.sock r.kern).spsize < at_ + bytes.length then ((max 3 acc.1, acc.2), bump s)
    else
      let s1 := if s.isAway r.sock r.kern then
          s.backlogAdd ⟨r.kern, r.sock, at_, bytes, 1, none, none, 0#64, r.seq⟩
        else s.engineWrite r.sock r.kern at_ bytes
      ((acc.1, acc.2 + 1), bump s1)

/-- A row arrives (R303): the code, the copies written, the state; `none` while a ring is full (R309). An empty mask gives
`OK` as the rule's text has it, whatever the entry holds, where its pseudocode would compare the entries first.
[DEDUCED, log 31] -/
def State.fanArrive (s : State) (r : FanRow) : Option (Nat × Nat × State) :=
  let d := s.kernelDie r.sock r.kern
  let entry := d.channel r.ch
  if r.experts = [] then some (0, 0, s)
  else if chKind entry ≠ 1 ∨ chEfmt entry ≠ r.efmt ∨ chWire entry ≠ r.wire then some (6, 0, s)
  else
    let (w, f) := operandIn r.efmt r.wire 0 0 (List.range r.n) r.bytes
    let (l, g) := deliver r.efmt w
    let bytes := l.flatMap fun e => natBytes (exchSize r.efmt) e.2
    let rec_ : Backlog := ⟨r.kern, r.sock, 0, bytes, 1, none, none, 0#64, r.seq⟩
    if s.isAway r.sock r.kern ∧ ¬ s.ringFits r.sock r.kern (r.experts.map fun _ => rec_) then none
    else
      let s1 := s.modKernelDie r.sock r.kern fun d => d.exchangeRaised r.issue r.pc (f.join g) []
      let (acc, s2) := r.experts.foldl (fun (a : (Nat × Nat) × State) e => a.2.fanCopy r entry bytes a.1 e) ((0, 0), s1)
      some (acc.1, acc.2, s2)

/-- The destination rank of a route register (R303). -/
def Exchange.destRank (x : Exchange) : Nat := bitsAt x.mask 16 24

/-- The widest physical dimension a row crosses first. -/
def Exchange.firstLink (x : Exchange) : Nat :=
  (((List.range 24).filter fun i => (x.rank ^^^ x.destRank).testBit i).map (x.dmap.getD · 31)).find? (4 ≤ ·) |>.getD 31

/-- The answer to a fan-out row: its code and the copies written. -/
def State.fanAnswer (s : State) (e : Engine) (x : Exchange) (code copies : Nat) (flags : Raised) : State :=
  s.giveOne true e { x with res := { x.res with elems := copies } } ⟨[], code, flags, [], 0⟩ true true

/-- The row that an end sends, for a socket. -/
def Exchange.fanRow (x : Exchange) (e : Engine) (b : RemoteEnd) (sock : Nat) : FanRow :=
  ⟨e.kern, e.part, e.region, sock, x.ch, b.efmt, b.wire, x.mask % 65536, b.n, b.bytes, x.issue, x.pc, b.seq⟩

/-- A row for another package. -/
def Exchange.rowMessage (x : Exchange) (p : Pkg) (l : Launch) (e : Engine) (b : RemoteEnd) : LinkMsg :=
  let gid := gidOf l.packet x.destRank
  .row (gid / 16) l.packet l.when
    ⟨p.regs.pkgid.toNat, e.id, e.kern, gid % 16, x.ch, b.efmt, b.wire, x.mask % 65536, b.n, b.bytes, x.issue, x.pc, b.seq⟩

/-- A fan-out row sets out, and arrives if its destination lies in this package (R303, R306, R307). -/
def State.fanSend (s : State) (e : Engine) (x : Exchange) : State :=
  match s.pkg.launch e.kern with
  | none => s
  | some l =>
    let gid := gidOf l.packet x.destRank
    let away := gid / 16 != s.pkg.regs.pkgid.toNat
    if x.fail ≠ 0 then s.fanAnswer e x x.fail 0 []
    else if l.absent.contains x.destRank then s.fanAnswer e x 1 0 [(0, 0x200#10)]
    else if away ∧ ¬ s.releaseReady e 3 then s
    else
      let (seq, s1) := (s.opRelease e 2).takePairNo e.kern x.rank x.destRank
      let b := s1.formEnd e x seq
      let s2 := s1.putEnd e x b
      if away then s2.modPkg fun p => { p with
        outbox := p.outbox ++ [p.toPackage (gid / 16) (x.rowMessage p l e b)] }
      else s2

/-- A row of this package's sender that has set out: it arrives, or is answered, or its destination is fenced
(R303, R307). -/
def State.fanGo (s : State) (e : Engine) (x : Exchange) : State :=
  match s.pkg.launch e.kern with
  | none => s
  | some l =>
    let gid := gidOf l.packet x.destRank
    let b := x.end_
    if x.res.got then s.fanAnswer e x x.res.code x.res.elems b.flags
    else if gid / 16 ≠ s.pkg.regs.pkgid.toNat then
      if s.pkg.goneCode e.kern x.destRank = 9 then s.fanAnswer e x 9 0 [] else s
    else if s.pkg.fencedDie e.kern (gid % 16) then s.fanAnswer e x 9 0 []
    else match s.fanArrive (x.fanRow e b (gid % 16)) with
      | none => s
      | some (code, n, s1) =>
        s1.modPkg (·.putEngine { e with job := .exchange { x with res := { x.res with code := code, elems := n, got := true } } })

/-- The next step of a fan-out of this package. -/
def State.fanStep (s : State) (id : Nat) : State :=
  match s.pkg.exchangeOf id with
  | none => s
  | some (e, x) =>
    if x.opcode ≠ 7 then s
    else if e.stage = EngineStage.sent then (if s.isAway e.sock e.kern ∨ s.waitsFor e then s else s.fanSend e x)
    else if e.stage = EngineStage.begun then s.fanGo e x
    else s

/-- The destination has answered a row: what it reports is kept until the sender can be given it. -/
def State.fanAnswered (s : State) (id code copies : Nat) : State :=
  match s.pkg.exchangeOf id with
  | none => s
  | some (e, x) =>
    if x.opcode = 7 ∧ e.stage = EngineStage.begun ∧ x.res.got = false then
      s.modPkg (·.putEngine { e with
        job := .exchange { x with res := { x.res with code := code, elems := copies, got := true } } })
    else s

/-- A row of another package arrives, once (R303, R308); its sender is answered. While a ring has no room it waits
(R309). -/
def State.fanIn (s : State) (r : RemoteRow) : State :=
  let same (x : RemoteRow) : Bool := x.sender == r.sender && x.op == r.op
  match s.pkg.launch r.launch with
  | none => s
  | some l =>
    if s.pkg.rowsSeen.contains (r.sender, r.op) then s
    else
      let answer (s : State) (code copies : Nat) : State := s.modPkg fun p => { p with
        farRows := p.farRows.filter (!same ·)
        rowsSeen := (r.sender, r.op) :: p.rowsSeen
        outbox := p.outbox ++ [p.toPackage r.sender (.rowDone r.sender r.op code copies)] }
      if s.pkg.fencedDie l.id r.sock then answer s 9 0
      else match s.fanArrive ⟨l.id, l.part, l.region, r.sock, r.ch, r.efmt, r.wire, r.mask, r.n, r.bytes, r.issue, r.pc, r.seq⟩ with
        | none => if s.pkg.farRows.any same then s else s.modPkg fun p => { p with farRows := p.farRows ++ [r] }
        | some (code, n, s1) => answer s1 code n

/-- `XFAN_ARRIVAL` (R303): a row of this package's sender goes on its way, or is answered from afar with a code and
the copies written; or a row of another package arrives. [DEDUCED, log 31] -/
def execXfanArrival (id : Nat) (answer : Option (Nat × Nat)) (row : Option RemoteRow) (s : State) : Out :=
  match row with
  | some r => .next (s.fanIn r)
  | none => match answer with
    | some (code, n) => .next ((s.fanAnswered id code n).fanStep id)
    | none => .next (s.fanStep id)

/-! Detours (R308, R415). -/

/-- Physical dimensions that an exchange crosses by link. -/
def Exchange.crosses (x : Exchange) : List Nat :=
  let phys (i : Nat) : Nat := x.dmap.getD i 31
  let dims := if x.opcode = 7 then (List.range 24).filter fun i => (x.rank ^^^ x.destRank).testBit i
    else if x.opcode = 8 then maskBits x.mask
    else if x.opcode = 4 then [dimBetween x.rank x.toRank, dimBetween x.rank x.fromRank].eraseDups
    else [x.dim]
  (dims.map phys).filter fun d => 4 ≤ d && d < 20

/-- What an exchange has sent over links, as it was sent, each message with the package it is for. -/
def Exchange.sentMessages (x : Exchange) (p : Pkg) (e : Engine) : List (Nat × LinkMsg) :=
  let b := { x.end_ with taken := x.res.got }
  if x.opcode = 7 then match p.launch e.kern with
    | none => []
    | some l => [(gidOf l.packet x.destRank / 16, x.rowMessage p l e b)]
  else x.messages p e b

/-- `LINK_DETOUR` (R308): what an exchange has sent over a dead link and may have been lost is sent again, as it was, by
the first detour that works; `via` and `via2` say whether the links beyond this package on each are up. With none, the
exchange completes with `LINKDOWN`. [DEDUCED, log 31] -/
def execLinkDetour (id : Nat) (via via2 : Bool) (s : State) : Out :=
  match s.pkg.exchangeOf id with
  | none => .next s
  | some (e, x) =>
    match x.crosses.filter fun d => !s.pkg.linkUp d with
    | [] => .next s
    | dead :: more =>
      let usable (d : Nat) (ok : Bool) : Bool := ok && s.pkg.detourFor dead d && !more.contains d
      let lost := (x.sentMessages s.pkg e).filter fun m => (dead :: more).contains (s.pkg.towards m.1 31 m.2)
      let again (d : Nat) : State := s.modPkg fun p => { p.forgetWaiting (lost.map (·.2)) with
        outbox := (p.forgetWaiting (lost.map (·.2))).outbox ++ lost.map fun m => .link d (p.portOf d) m.2 }
      if e.stage ≠ .begun then .next s
      else if usable s.pkg.regs.detour.toNat via then .next (again s.pkg.regs.detour.toNat)
      else if usable s.pkg.regs.detour2.toNat via2 then .next (again s.pkg.regs.detour2.toNat)
      else if x.opcode = 8 then match s.pkg.launch e.kern with
        | none => .next s
        | some l =>
          let ph := s.phase l e x
          .next (((s.modPkg (·.forgetWaiting (lost.map (·.2)))).decidePhase (s.pkg.arrivals e.kern x) 10 (ph.total - ph.absent)).modPkg (·.dropFar e x))
      else .next ((s.modPkg (·.forgetWaiting (lost.map (·.2)))).giveOne true e x (Given.only 10) true true)

end Sys2Proof.Machine
end

