-- ==== Sys2Proof/Machine/Links.lean ====
section
/-! DEFINITION. Management commands, ports, partitions and package time (R406-R421). -/
namespace Sys2Proof.Machine

/-! The management ring (R412, R423). -/

/-- A command's bytes. -/
def cmdAt (c : BitVec 512) (i n : Nat) : Nat := fieldAt c (8 * i) (8 * n)
def cmdOp (c : BitVec 512) : Nat := cmdAt c 0 2
def cmdTag (c : BitVec 512) : Nat := cmdAt c 2 2
def cmdPkg (c : BitVec 512) : Nat := fieldAt c 32 20

/-- A completion entry goes to the completion ring, and a vector of the PF signals it (R412, R423, R425): tag, status, a bit
for each failed port. [DEDUCED, log 34] -/
def State.mgmtDone (s : State) (tag status failed : Nat) : State :=
  let bits : BitVec 128 := BitVec.ofNat 128 (tag + status * 2 ^ 16 + failed * 2 ^ 32)
  let r := s.pkg.bridge.mgmt
  let s1 := if r.cqsize = 0 then s
    else s.physWrite true (r.cqbase.toNat + 16 * (r.cqprod % 2 ^ r.cqsize)) (natBytes 16 bits.toNat)
  s1.modPkg fun p => { p with
    bridge.mgmt := { p.bridge.mgmt with cqprod := p.bridge.mgmt.cqprod + 1 }
    outbox := p.outbox ++ [.mgmtDone bits, .vector 0 (Config.mgmtVector % 32)] }

/-- A command that another package's ring brought is answered there (R412). -/
def State.cmdDone (s : State) (sender op tag status failed : Nat) : State :=
  let own := s.pkg.regs.pkgid.toNat
  if sender = own then s.mgmtDone tag status failed
  else s.modPkg fun p => { p with outbox := p.outbox ++
    [p.toPackage sender (.commandDone sender own op (BitVec.ofNat 128 (tag + status * 2 ^ 16 + failed * 2 ^ 32)))] }

/-- The command's entry is consumed. -/
def State.mgmtTake (s : State) : State :=
  s.modPkg fun p => { p with bridge.mgmt := { p.bridge.mgmt with cons := p.bridge.mgmt.cons + 1 } }

/-- A command that names a package (R412): `NOPKG` outside the board group; another package of the group gets it
over the board links. -/
def State.forPackage (s : State) (cmd : BitVec 512) (bad : Bool) (k : State → State) : State :=
  let own := s.pkg.regs.pkgid.toNat
  let to_ := cmdPkg cmd
  if bad then s.mgmtDone (cmdTag cmd) 2 0
  else if to_ / 4 ≠ own / 4 then s.mgmtDone (cmdTag cmd) 4 0
  else if to_ ≠ own then s.modPkg fun p => { p with
    outbox := p.outbox ++ [p.toPackage to_ (.command to_ own cmd)] }
  else k s

/-- The next command of the management ring, which lies in host memory (R423); none before step 8 of bring-up
(R426). -/
def State.nextCommand (s : State) : Option (BitVec 512) :=
  let r := s.pkg.bridge.mgmt
  if s.pkg.regs.bootStep ≠ 8#4 ∨ r.prod = r.cons ∨ r.size = 0 then none
  else some (BitVec.ofNat 512 (s.memNat true (r.base.toNat + 64 * (r.cons % 2 ^ r.size)) 64))

/-- The next command, when its opcode is one that is served here. -/
def State.command (s : State) (op : Nat → Bool) (k : BitVec 512 → State → State) : State :=
  match s.nextCommand with
  | none => s
  | some c => if op (cmdOp c) then k c s.mgmtTake else s

/-! Ports (R407, R408). -/

/-- A port enters a state. -/
def Pkg.movePort (p : Pkg) (n : Nat) (st : PortState) : Pkg :=
  let x := p.port n
  p.setPort n { x with
    state := st
    since := p.ptime.toNat
    retrain := if st = .training ∧ x.retrain ≠ 0xFFF#12 then x.retrain + 1#12 else x.retrain }

/-- A port of a `RETOPO` that has come to rest (R413). -/
def Pkg.settled (p : Pkg) (n : Nat) : Bool := (p.port n).state == .up || (p.port n).state == .failed

/-- The ports of a list that failed, as a mask. -/
def Pkg.failedMask (p : Pkg) (l : List Nat) : Nat :=
  l.foldl (fun m n => if (p.port n).state == .failed then m ||| 2 ^ n else m) 0

/-- Completions of a `RETOPO` that its ports' states bring about (R413). -/
def State.settleRetopo (s : State) (r : Retopo) : State :=
  let p := s.pkg
  let drop (s : State) : State := s.modPkg fun p => { p with retopos := p.retopos.filter (· != r) }
  if r.hold ∧ ¬ r.darkReady ∧ r.ports.all (fun n => (p.port n).state == .dark) then
    (s.modPkg fun p => { p with
      retopos := p.retopos.map fun x => if x == r then { x with darkReady := true } else x }).cmdDone r.sender 1 r.tag.toNat 5 0
  else if r.ports.all p.settled then
    (drop s).cmdDone r.sender 1 r.tag.toNat (if p.failedMask r.ports = 0 then 0 else 1) (p.failedMask r.ports)
  else s

/-- After a port has moved. [DEDUCED, log 34] -/
def State.settlePorts (s : State) : State := s.pkg.retopos.foldl State.settleRetopo s

/-- Move a port and settle. -/
def State.moved (s : State) (n : Nat) (st : PortState) : State := (s.modPkg (·.movePort n st)).settlePorts

/-- A port moves when it is in a state and a condition holds, with what the package does before it. -/
def portEventWith (eff : Nat → Pkg → Pkg) (port : BitVec 5) (src dst : PortState) (ok : Port → State → Bool) (s : State) :
    Out :=
  let n := port.toNat
  let x := s.pkg.port n
  if n < 24 ∧ x.state = src ∧ ok x s then .next ((s.modPkg (eff n)).moved n dst) else .next s

/-- A port moves. -/
def portEvent (port : BitVec 5) (src dst : PortState) (ok : Port → State → Bool) (s : State) : Out :=
  portEventWith (fun _ p => p) port src dst ok s

/-- Nanoseconds have passed since the port entered its state. -/
def waited (ns : Nat) (x : Port) (s : State) : Bool := x.since + ns ≤ s.pkg.ptime.toNat

/-- `PORT_DRAINED` (R408). -/
def execPortDrained (port : BitVec 5) (s : State) : Out := portEvent port .draining .quiet (fun _ _ => true) s
/-- The last `left` of what has left on a port are sent again, by detour (R308, R408). -/
def Pkg.resend (p : Pkg) (n left : Nat) : Pkg :=
  let sent := p.outbox.filterMap fun m => match m with
    | .link d q x => if q = n then some (d, x) else none
    | _ => none
  { p with outbox := p.outbox ++ (sent.drop (sent.length - left)).map fun e => p.across e.1 e.2 }

/-- `DRAIN_TIMEOUT` (R408): 100 µs; the last of what has left on the port, not acknowledged, are sent again by detour.
[DEDUCED, log 31] -/
def execDrainTimeout (d : Drain) (s : State) : Out :=
  portEventWith (fun n p => p.resend n d.left) d.port .draining .quiet (waited 100000) s
/-- `PORT_GO_DARK` (R408). -/
def execPortGoDark (port : BitVec 5) (s : State) : Out := portEvent port .quiet .dark (fun _ _ => true) s
/-- `DARKUS_EXPIRY` (R408). -/
def execDarkusExpiry (port : BitVec 5) (s : State) : Out :=
  portEvent port .dark .training (fun x s => !x.held && x.dark.any fun ns => waited ns x s) s
/-- The entry of a bank that names a port, valid or, at bring-up, not yet (R409, R430). -/
def Pkg.entryNaming (p : Pkg) (bank : Bool) (port : Nat) : Option (Nat × BitVec 64) :=
  let all := ((List.range 16).map (· + 4)).map fun d => (d, p.route bank d)
  (all.find? fun e => routeValid e.2 && routePort e.2 == port).or
    (all.find? fun e => e.2 != 0#64 && routePort e.2 == port)

/-- This end's identity flit goes out on a port (R409). -/
def Pkg.identify (p : Pkg) (n : Nat) : Pkg :=
  match p.entryNaming (p.port n).bank n with
  | none => p
  | some (d, e) => { p with outbox := p.outbox ++ [.identity n p.regs.pkgid.toNat d (routeExpect e)] }

/-- `LANES_TRAINED` (R408): in `VERIFY` this end sends its identity (R409). -/
def execLanesTrained (port : BitVec 5) (s : State) : Out :=
  portEventWith (fun n p => p.identify n) port .training .verify (fun _ _ => true) s
/-- `TRAINING_TIMEOUT` (R408): 250 ms. -/
def execTrainingTimeout (port : BitVec 5) (s : State) : Out := portEvent port .training .failed (waited 250000000) s
/-- `VERIFY_TIMEOUT` (R408): 1 ms. -/
def execVerifyTimeout (port : BitVec 5) (s : State) : Out := portEvent port .verify .failed (waited 1000000) s
/-- `LINK_ERROR_BUDGET_EXCEEDED` (R406, R408). -/
def execLinkErrorBudgetExceeded (port : BitVec 5) (s : State) : Out := portEvent port .up .failed (fun _ _ => true) s

/-- `FLIT_REPLAY` (R406): the flit is sent again on the same port; nothing that the spec names changes.
[DEDUCED, log 34] -/
def execFlitReplay (s : State) : Out := .next s

/-- What an identity flit says agrees with the entry that a port verifies under (R409). -/
def Pkg.identityOk (p : Pkg) (n pkg dim expect : Nat) : Bool :=
  match p.entryNaming (p.port n).bank n with
  | none => false
  | some (d, e) => pkg == routeExpect e && routeExpect e == p.regs.pkgid.toNat ^^^ 2 ^ (d - 4) && dim == d &&
      expect == p.regs.pkgid.toNat

/-- `IDENTITY_FLIT` (R409). [DEDUCED, log 34] -/
def execIdentityFlit (port : BitVec 5) (pkg : BitVec 20) (dim : BitVec 5) (expect : BitVec 20) (s : State) : Out :=
  let n := port.toNat
  let x := s.pkg.port n
  if ¬ (n < 24 ∧ x.state = .verify) then .next s
  else .next ((s.modPkg (·.setPort n { x with nbr := pkg })).moved n
    (if s.pkg.identityOk n pkg.toNat dim.toNat expect.toNat then .up else .failed))

/-! `RETOPO` and `RELIGHT` (R413). -/

/-- A record of a `RETOPO`. -/
structure PortRec where
  port : Nat
  dim : Nat
  expect : Nat
  reserved : Bool
deriving DecidableEq, Repr

def recAt (c : BitVec 512) (i : Nat) : PortRec :=
  let b := 16 + 6 * i
  ⟨cmdAt c b 1, cmdAt c (b + 1) 1, fieldAt c (8 * (b + 2)) 20, fieldAt c (8 * (b + 2) + 20) 4 != 0 || cmdAt c (b + 5) 1 != 0⟩

def cmdRecs (c : BitVec 512) : List PortRec := (List.range (cmdAt c 8 1)).map (recAt c)

/-- A board dimension's port is wired to it (R406). -/
def wired (r : PortRec) : Bool :=
  if r.dim = 4 then r.port == 0 || r.port == 2 else if r.dim = 5 then r.port == 1 || r.port == 3 else true

/-- A list names nothing twice. -/
def noRepeat (l : List Nat) : Bool := l.eraseDups == l

/-- The fields of a `RETOPO` that make it `BADCMD`. -/
def retopoBad (c : BitVec 512) : Bool :=
  let n := cmdAt c 8 1
  let rs := cmdRecs c
  fieldAt c 52 12 != 0 || n == 0 || 8 < n || 1 < cmdAt c 9 1 || 1 < cmdAt c 10 1 || cmdAt c 11 1 != 0 ||
    rs.any (fun r => r.reserved || 23 < r.port || r.dim < 4 || 19 < r.dim || !wired r) ||
    !noRepeat (rs.map (·.port)) || !noRepeat (rs.map (·.dim)) || cmdAt c (16 + 6 * n) (48 - 6 * n) != 0

/-- An entry as a `RETOPO` writes it (R358). -/
def routeEntry (r : PortRec) : BitVec 64 := BitVec.ofNat 64 (r.port + 2 ^ 7 + r.expect * 2 ^ 12)

/-- A `RETOPO` names a port (R408); one that it drains carries no traffic of the active bank until the next swap (R413). -/
def Pkg.renamePort (p : Pkg) (bank hold : Bool) (ns n : Nat) : Pkg :=
  let x := { p.port n with
    bank := bank, held := hold, dark := some ns, lost := (p.port n).lost || (p.port n).state == .up }
  let q := p.setPort n x
  q.movePort n (if x.state = .up then .draining else .dark)

/-- A port that a `RETOPO` may not name now (R408). -/
def Pkg.portBusy (p : Pkg) (n : Nat) : Bool :=
  match (p.port n).state with
  | .draining | .quiet | .training | .verify => true
  | _ => false

/-- Carry a `RETOPO` out. [DEDUCED, log 34] -/
def State.retopo (s : State) (sender : Nat) (c : BitVec 512) : State :=
  let bank := cmdAt c 9 1 == 1
  let rs := cmdRecs c
  let g := s.pkg.regs
  if bank = g.rtact ∨ g.swaplk ∨ rs.any (fun r => s.pkg.portBusy r.port) then s.cmdDone sender 1 (cmdTag c) 3 0
  else
    let hold := cmdAt c 10 1 == 1
    let ns := cmdAt c 12 4 * 1000
    let s1 := s.modPkg fun p =>
      let copied := ((List.range 16).map (· + 4)).foldl (fun (p : Pkg) d => p.setRoute bank d (p.route (!bank) d)) p
      let written := rs.foldl (fun (p : Pkg) r => p.writeRoute bank r.dim (routeEntry r)) copied
      let named := rs.foldl (fun (p : Pkg) r => p.renamePort bank hold ns r.port) written
      { named with retopos := named.retopos ++ [⟨sender, BitVec.ofNat 16 (cmdTag c), rs.map (·.port), hold, false⟩] }
    s1.settlePorts

/-- Carry a `RELIGHT` out (R413): every named `DARK` port goes to `TRAINING`. [DEDUCED, log 34] -/
def State.relight (s : State) (sender : Nat) (c : BitVec 512) : State :=
  let named := (List.range 24).filter (cmdAt c 8 3).testBit
  let dark := named.filter fun n => (s.pkg.port n).state == .dark
  let s1 := s.modPkg fun p => dark.foldl (fun (p : Pkg) n =>
    (p.setPort n { p.port n with held := false }).movePort n .training) p
  s1.cmdDone sender 2 (cmdTag c) (if dark = named then 0 else 3) 0

/-- `RETOPO` (R413). [DEDUCED, log 34] -/
def execRetopo (s : State) : Out :=
  .next (s.command (· == 1) fun cmd s => s.forPackage cmd (retopoBad cmd) fun s => s.retopo s.pkg.regs.pkgid.toNat cmd)

/-- `RELIGHT` (R413). [DEDUCED, log 34] -/
def execRelight (s : State) : Out :=
  .next (s.command (· == 2) fun cmd s =>
    s.forPackage cmd (fieldAt cmd 52 12 != 0 || cmdAt cmd 11 1 != 0 || cmdAt cmd 12 52 != 0) fun s =>
      s.relight s.pkg.regs.pkgid.toNat cmd)

/-- `UNASSIGNED_MANAGEMENT_OPCODE` (R412). -/
def execUnassignedManagementOpcode (s : State) : Out :=
  .next (s.command (fun op => op == 0 || 4 < op) fun cmd s => s.mgmtDone (cmdTag cmd) 2 0)

/-! Partitions (R420, R421). -/

/-- Two aligned subcubes share a die. -/
def subcubesMeet (b1 m1 b2 m2 : Nat) : Bool := (b1 ^^^ b2) &&& ((m1 ||| m2) ^^^ 0xFFFFFF) == 0

/-- A root that R361 accepts: a partition's block with no parent. -/
def State.rootOk (s : State) (a : Nat) : Bool := s.rcbOk a && s.chain a == some [a]

/-- The packages that a subcube of global ids touches (R420). -/
def subcubePackages (base mask : Nat) : List Nat :=
  let dims := ((List.range 20).filter mask.testBit).filter (4 ≤ ·)
  (base / 16) :: packagesOver (base / 16) dims

/-- The fields of a `PARTNEW` that make it `BADCMD` anywhere. -/
def partnewBad (c : BitVec 512) : Bool :=
  cmdAt c 4 2 == 0 || 16 < cmdAt c 6 1 || cmdAt c 7 1 != 0 || cmdAt c 11 1 != 0 || cmdAt c 15 1 != 0 ||
    cmdAt c 32 32 != 0 || fieldAt c 64 24 &&& fieldAt c 96 24 != 0 || 2 ^ 20 ≤ fieldAt c 96 24

/-- What `PARTNEW` finds at a package (R421): its status. -/
def State.partnewStatus (s : State) (c : BitVec 512) : Nat :=
  let id := cmdAt c 4 2
  let fn := cmdAt c 6 1
  let taken (x : Partition) : Bool :=
    subcubesMeet x.base.toNat x.mask.toNat (fieldAt c 64 24) (fieldAt c 96 24) || (fn != 0 && x.fn == fn)
  if !s.rootOk (cmdAt c 16 8) then 2
  else if s.pkg.partitions.any (·.id == id) then 3
  else if s.pkg.partitions.any taken then 6
  else 0

/-- What `PARTEND` finds at a package (R421): its status. -/
def State.partendStatus (s : State) (c : BitVec 512) : Nat :=
  let id := cmdAt c 4 2
  if ¬ s.pkg.partitions.any (·.id == id) then 2
  else if s.pkg.launches.any (·.part == id) ∨ s.pkg.garnet.locks.any (fun l => l.part == id && !l.holders.isEmpty) then 3
  else 0

/-- Open or close the partition of an id to launches. -/
def Pkg.openPart (p : Pkg) (id : Nat) (b : Bool) : Pkg :=
  { p with partitions := p.partitions.map fun x => if x.id == id then { x with isOpen := b } else x }

/-- A package agrees to a partition command, with status 0, or does not (R421): the dies and the function are taken, or the
partition takes no more launches, until the command is carried out or given up. [DEDUCED, log 34] -/
def State.partBegin (s : State) (c : BitVec 512) : Nat × State :=
  let id := cmdAt c 4 2
  let st := if cmdOp c = 3 then s.partnewStatus c else s.partendStatus c
  if st ≠ 0 then (st, s)
  else if cmdOp c = 3 then (0, s.modPkg fun p => { p with partitions := p.partitions ++
    [⟨id, cmdAt c 6 1, BitVec.ofNat 24 (fieldAt c 64 24), BitVec.ofNat 24 (fieldAt c 96 24), cmdAt c 16 8, false⟩] })
  else (0, s.modPkg (·.openPart id false))

/-- The objects of a partition's regions are closed and owned by nobody (R421). -/
def Pkg.disown (p : Pkg) (part : Nat) : Pkg :=
  let ours (o : Owner) : Bool := o.region != 0 && o.part == part
  { p with
    tiles := p.tiles.map fun e => (e.1, if ours e.2.owner then { e.2 with closed := true, owner := Owner.none } else e.2)
    counters := (p.counters.map fun e => (e.1, if ours e.2.owner then { e.2 with owner := Owner.none } else e.2)).filter
      fun e => e.2 != Counter.fresh
    barriers := p.barriers.map fun e => (e.1, if ours e.2.owner then { e.2 with owner := Owner.none } else e.2) }

/-- A partition that is not there. -/
def Pkg.dropPart (p : Pkg) (id : Nat) : Pkg := { p with partitions := p.partitions.filter (·.id != id) }

/-- A package's copy of a partition's `PTROOT` (R389). -/
def Pkg.setRoot (p : Pkg) (id : Nat) (v : Word) : Pkg :=
  { p with regs.ptroot := Store.set 0#64 p.regs.ptroot id (v &&& 0xFFFFFFFFFF001#64) }

/-- A package that has agreed to a partition command carries it out, or gives it up (R421). -/
def Pkg.partEnact (p : Pkg) (c : BitVec 512) (commit : Bool) : Pkg :=
  let id := cmdAt c 4 2
  if cmdOp c = 3 then
    if commit then { (p.openPart id true).setRoot id (BitVec.ofNat 64 (fieldAt c 192 64)) with
      garnet.matrix := Store.set Config.lockMatrix p.garnet.matrix id Config.lockMatrix }
    else p.dropPart id
  else if commit then ((p.disown id).dropPart id).setRoot id 0#64
  else p.openPart id true

/-- A partition command completes (R421); the partitions that this bridge has made are kept for `PARTEND`. -/
def State.partDone (s : State) (x : PartCmd) : State :=
  let id := cmdAt x.bits 4 2
  let others (p : Pkg) : List (Nat × Nat × List Nat) := p.carried.filter (·.1 != id)
  let kept (p : Pkg) : Pkg :=
    if x.status ≠ 0 then p
    else if cmdOp x.bits = 3 then { p with carried := others p ++ [(id, cmdAt x.bits 6 1, x.packages)] }
    else { p with carried := others p }
  (s.modPkg kept).mgmtDone (cmdTag x.bits) x.status 0

/-- Every package has answered: where all agreed, all carry the command out, and it completes once they have; otherwise
those that agreed give it up (R421). [DEDUCED, log 34] -/
def State.partDecide (s : State) (x : PartCmd) : State :=
  let own := s.pkg.regs.pkgid.toNat
  let commit := x.status == 0
  let far := x.agreed.filter (· != own)
  let s1 := s.modPkg fun p =>
    let q := if x.agreed.contains own then p.partEnact x.bits commit else p
    { q with outbox := q.outbox ++ far.map fun d => q.toPackage d (.partCommit d own x.bits commit) }
  if commit ∧ far ≠ [] then s1.modPkg fun p => { p with partCmds := p.partCmds ++ [{ x with left := far, commit := true }] }
  else s1.partDone x

/-- What stands in the way of a `PARTNEW` at the bridge that carries it (R421): a partition of the same id, or of the same
function, that it has made or is making elsewhere. -/
def Pkg.bridgeStatus (p : Pkg) (c : BitVec 512) : Nat :=
  let id := cmdAt c 4 2
  let fn := cmdAt c 6 1
  let making := p.partCmds.filter fun x => cmdOp x.bits == 3
  if cmdOp c ≠ 3 then (if p.partCmds.any fun x => cmdAt x.bits 4 2 == id then 3 else 0)
  else if p.carried.any (·.1 == id) || p.partCmds.any (fun x => cmdAt x.bits 4 2 == id) then 3
  else if fn != 0 && (p.carried.any (·.2.1 == fn) || making.any fun x => cmdAt x.bits 6 1 == fn) then 6
  else 0

/-- Carry a partition command to the packages of its subcube (R421): with the highest status. [DEDUCED, log 34] -/
def State.partCarry (s : State) (c : BitVec 512) (packages : List Nat) : State :=
  let own := s.pkg.regs.pkgid.toNat
  let st := s.pkg.bridgeStatus c
  if st ≠ 0 then s.mgmtDone (cmdTag c) st 0
  else
    let (st, s1) := if packages.contains own then s.partBegin c else (0, s)
    let agreed := if packages.contains own ∧ st = 0 then [own] else []
    let x : PartCmd := ⟨c, st, packages, packages.filter (· != own), agreed, false⟩
    if x.left = [] then s1.partDecide x
    else s1.modPkg fun p => { p with
      partCmds := p.partCmds ++ [x]
      outbox := p.outbox ++ x.left.map fun d => p.toPackage d (.command d own c) }

/-- A package has answered a partition command, or carried it out. -/
def State.partAnswered (s : State) (sender op tag status : Nat) : State :=
  match s.pkg.partCmds.find? fun x => cmdOp x.bits == op && cmdTag x.bits == tag && x.left.contains sender with
  | none => s
  | some x =>
    let y := { x with
      status := max x.status status
      left := x.left.filter (· != sender)
      agreed := if status = 0 ∧ ¬ x.commit then x.agreed ++ [sender] else x.agreed }
    let s1 := s.modPkg fun p => { p with partCmds := p.partCmds.filter (· != x) }
    if y.left ≠ [] then s1.modPkg fun p => { p with partCmds := p.partCmds ++ [y] }
    else if y.commit then s1.partDone y
    else s1.partDecide y

/-- `PARTNEW` (R421). [DEDUCED, log 34] -/
def execPartnew (s : State) : Out :=
  .next (s.command (· == 3) fun c s =>
    if partnewBad c then s.mgmtDone (cmdTag c) 2 0
    else s.partCarry c (subcubePackages (fieldAt c 64 24) (fieldAt c 96 24)))

/-- `PARTEND` (R421). [DEDUCED, log 34] -/
def execPartend (s : State) : Out :=
  .next (s.command (· == 4) fun c s =>
    match s.pkg.carried.find? (·.1 == cmdAt c 4 2) with
    | some x => if cmdAt c 6 58 ≠ 0 then s.mgmtDone (cmdTag c) 2 0 else s.partCarry c x.2.2
    | none => s.mgmtDone (cmdTag c) 2 0)

/-- A command of another package's management ring, served here (R412, R421). -/
def State.serveCommand (s : State) (sender : Nat) (c : BitVec 512) : State :=
  if cmdOp c = 1 then s.retopo sender c
  else if cmdOp c = 2 then s.relight sender c
  else
    let (st, s1) := s.partBegin c
    s1.cmdDone sender (cmdOp c) (cmdTag c) st 0

/-! Package time (R416-R419). -/

/-- The active-bank port of a dimension is `UP`; during step 6 of bring-up `VALID` does not matter (R417, R430). -/
def Pkg.timeUp (p : Pkg) (d : Nat) : Bool :=
  let e := p.route p.regs.rtact d
  (routeValid e || (p.regs.bootStep == 6#4 && e != 0#64)) && (p.port (routePort e)).state == .up

/-- The time parent's dimension (R417): the lowest in which the package differs from the grandmaster and whose
active port is `UP`; 31 none. -/
def Pkg.parentDim (p : Pkg) : Nat :=
  (((List.range 16).map (· + 4)).find? fun d => (p.regs.pkgid ^^^ p.regs.gmid).getLsbD (d - 4) && p.timeUp d).getD 31

/-- The package's time less its parent's, in ns (R417). [DEDUCED, log 35] -/
def timeOffset (t1 t2 t3 t4 : Word) : Int :=
  (((t2.toNat : Int) - t1.toNat) - ((t4.toNat : Int) - t3.toNat)) / 2

/-- Set `PTIME` once, at step 6 (R416): the ports' clocks go with it. [DEDUCED, log 35] -/
def Pkg.jumpTime (p : Pkg) (t : Int) : Pkg :=
  let shift (x : Port) : Port := { x with since := (x.since + (t - p.ptime.toNat)).toNat }
  { p with ptime := wordOf t, ports := p.ports.map fun e => (e.1, shift e.2) }

/-- An exchange with the parent is complete (R416-R418): the first, at step 6, sets `PTIME`; later ones change its rate.
[DEDUCED, log 35] -/
def State.syncDone (s : State) (x : TimeSync) (t4 : Word) (bound : BitVec 32) : State :=
  let p := s.pkg
  let off := timeOffset x.t1 x.t2 x.t3 t4
  let q : Pkg := { p with
    sync := none, pskew := bound, regs := { p.regs with hold := false, parent := BitVec.ofNat 5 p.parentDim } }
  if p.regs.bootStep = 6#4 then { s with pkg := q.jumpTime ((p.ptime.toNat : Int) - off) }
  else { s with pkg := { q with slew := -off * 5 * (max 1 p.regs.mhz.toNat : Nat) } }

/-- A message leaves on the active port of a dimension. -/
def Pkg.sendOn (p : Pkg) (d : Nat) (m : LinkMsg) : Pkg := { p with outbox := p.outbox ++ [.link d (p.portOf d) m] }

/-- The id of the neighbour across a dimension (R417). -/
def Pkg.neighbour (p : Pkg) (d : Nat) : Nat := p.regs.pkgid.toNat ^^^ 2 ^ (d - 4)

/-- The package's time parent, when it has one in reach (R417). -/
def Pkg.timeParent (p : Pkg) : Option Nat :=
  if p.regs.gm ∨ p.parentDim = 31 then none else some (p.neighbour p.parentDim)

/-- A sync flit of a neighbour (R417): the parent's is recorded with its receive time, and answered by a delay request.
[DEDUCED, log 35] -/
def Pkg.syncIn (p : Pkg) (sender : Nat) (t1 : Word) (bound : BitVec 32) : Pkg :=
  if p.timeParent ≠ some sender then p
  else { p with sync := some ⟨t1, p.ptime, p.ptime, bound⟩ }.sendOn p.parentDim (.delayReq sender p.regs.pkgid.toNat)

/-- A child's delay request is answered with its receive time (R417). -/
def Pkg.delayIn (p : Pkg) (sender : Nat) : Pkg :=
  { p with outbox := p.outbox ++ [p.toPackage sender (.delayResp sender p.regs.pkgid.toNat p.ptime)] }

/-- The parent's bound and the bound of the child's own estimation, saturating (R418). [DEDUCED, log 35] -/
def skewSum (bound : BitVec 32) (est : Nat) : BitVec 32 := BitVec.ofNat 32 (min (2 ^ 32 - 1) (bound.toNat + est))

/-- The parent's answer, with its receive time *t*4 (R417, R418). [DEDUCED, log 35] -/
def State.delayDone (s : State) (sender : Nat) (t4 : Word) : State :=
  match s.pkg.sync with
  | none => s
  | some x =>
    if s.pkg.timeParent ≠ some sender then s
    else { s with fresh := s.fresh + 1 }.syncDone x t4 (skewSum x.bound (Config.syncBound s.fresh))

/-- `TIME_SYNC_EXCHANGE` (R416-R418): the parent `sender` answers the delay request of the exchange that its sync flit of
*t*1 opened, with its receive time *t*4 and its bound; `est` is the bound of the child's estimation. The times *t*2 and
*t*3 are the package's own. [DEDUCED, log 35] -/
def execTimeSyncExchange (sender : Nat) (t1 t4 : Word) (bound est : BitVec 32) (s : State) : Out :=
  match s.pkg.sync with
  | none => .next s
  | some x =>
    .next (if s.pkg.timeParent = some sender ∧ x.t1 = t1 then s.syncDone x t4 (skewSum bound est.toNat) else s)

/-- Every 65,536 ns a sync flit and its follow-up go to the neighbours across the links that are up, of which those whose
parent this is take it (R417). [DEDUCED, log 35] -/
def Pkg.sendSync (p : Pkg) : Pkg :=
  if p.regs.bootStep ≠ 8#4 ∨ p.ptime.toNat < p.syncAt + 65536 then p
  else (((List.range 16).map (· + 4)).filter p.timeUp).foldl
    (fun q d => q.sendOn d (.sync (p.neighbour d) p.regs.pkgid.toNat p.ptime p.pskew)) { p with syncAt := p.ptime.toNat }

/-- A package with no parent in reach holds, and its `PSKEW` grows by 1 ns each 20 µs from then on; with one, it does not
hold (R419). -/
def Pkg.holdTime (p : Pkg) : Pkg :=
  let d := p.parentDim
  let due := p.regs.hold && p.holdAt + 20000 ≤ p.ptime.toNat
  if p.regs.gm then p
  else if d ≠ 31 then { p with regs.hold := false, regs.parent := BitVec.ofNat 5 d }
  else { p with
    pskew := if due then satAddSkew p.pskew else p.pskew
    holdAt := if due then p.holdAt + 20000 else if p.regs.hold then p.holdAt else p.ptime.toNat
    regs := { p.regs with hold := true, parent := 0x1F#5 } }
where
  /-- One nanosecond more, saturating. -/
  satAddSkew (x : BitVec 32) : BitVec 32 := if x = 0xFFFFFFFF#32 then x else x + 1#32

/-- `TIME_HOLD` (R419). -/
def execTimeHold (s : State) : Out := .next (s.modPkg (·.holdTime))

/-- What the package does about time at each of its clock edges, once it is ready (R417, R419). [DEDUCED, log 35] -/
def Pkg.timeEdge (p : Pkg) : Pkg := if p.regs.bootStep = 8#4 then p.holdTime.sendSync else p

end Sys2Proof.Machine
end

