-- ==== Sys2Proof/Machine/HostEvents.lean ====
section
/-! DEFINITION. The host's window, function-level reset, bring-up, attestation and the clock (R424-R434). -/
namespace Sys2Proof.Machine

/-! BAR2 (R423, R424). -/

/-- The address a window access reaches: the base of the function's window and an offset below 64 GiB. -/
def Pkg.windowAt (p : Pkg) (vf addr : Nat) : Nat :=
  bitsAt (Store.get 0#64 p.bridge.winbase vf).toNat 36 21 * 2 ^ 36 + addr % 2 ^ 36

/-- The PCIe functions: 0 the PF, 1-16 the VFs (R422). -/
def isFn (fn : Nat) : Bool := fn ≤ 16

/-- The board-group package that a select of two bits names (R422, R423). -/
def Pkg.boardPkg (p : Pkg) (sel : BitVec 2) : Nat := p.regs.pkgid.toNat / 4 * 4 + sel.toNat

/-- A message for another package, or what it does here. -/
def State.overBoard (s : State) (dest : Nat) (m : LinkMsg) (here : State → State) : State :=
  if dest = s.pkg.regs.pkgid.toNat then here s
  else s.modPkg fun p => { p with outbox := p.outbox ++ [p.toPackage dest m] }

/-- `BAR2_ACCESS` (R424): function 0 is the PF, whose accesses to another package cross the board links; a VF's reach its
partition's virtual space. [DEDUCED, log 23] -/
def execBar2Access (write : Bool) (vf : Nat) (addr : Word) (data : List Byte) (len : Nat) (s : State) : Out :=
  let own := s.pkg.regs.pkgid.toNat
  let part := (s.pkg.partitions.find? (·.fn == vf)).map (·.id)
  let x : WindowOp := ⟨own, vf, if vf = 0 then none else part, write, s.pkg.windowAt vf addr.toNat, data, len⟩
  if s.pkg.regs.bootStep ≠ 8#4 ∨ ¬ isFn vf ∨ (vf ≠ 0 ∧ part = none) then .next s
  else
    let dest := if vf = 0 then s.pkg.boardPkg s.pkg.bridge.winpkg else own
    .next (s.overBoard dest (.window dest x) (·.windowEnter x))

/-! BAR0 (R423). -/

/-- A field of a ring pair. [DEDUCED, log 23] -/
def Ring.get (r : Ring) (f : Nat) : Word :=
  match f with
  | 0 => r.base
  | 1 => BitVec.ofNat 64 r.size
  | 2 => BitVec.ofNat 64 r.prod
  | 3 => BitVec.ofNat 64 r.cons
  | 4 => r.cqbase
  | 5 => BitVec.ofNat 64 r.cqsize
  | 6 => BitVec.ofNat 64 r.cqprod
  | _ => BitVec.ofNat 64 r.cqcons

/-- The host writes a field of a ring pair; `CONS` and `CQPROD` are the device's. A size is 4-16.
[DEDUCED, log 23] -/
def Ring.put (r : Ring) (f : Nat) (v : Word) : Ring :=
  let k := max 4 (min 16 v.toNat)
  match f with
  | 0 => { r with base := v }
  | 1 => { r with size := k }
  | 2 => { r with prod := v.toNat }
  | 4 => { r with cqbase := v }
  | 5 => { r with cqsize := k }
  | 7 => { r with cqcons := v.toNat }
  | _ => r

/-- What lies at an offset of a function's BAR0 (R423): registers of 8 bytes in the order in which R423 lists them.
[DEDUCED, log 23] -/
def bar0Reg (fn off sel : Nat) : HostReg :=
  let i := off / 8
  if fn = 0 then
    if off = 0x8 then .pkgsel
    else if off = 0x10 then .winpkg
    else if off = 0x18 then .winbase 0
    else if 0x1000 ≤ off ∧ off < 0x1040 then .mgmt (i - 0x200)
    else if 0x2000 ≤ off ∧ off < 0x2040 then .launch 0 (i - 0x400)
    else if 0x10000 ≤ off ∧ off < 0x10400 then .priv (i - 0x2000 + 0x800) sel
    else .ident i
  else if off < 0x40 then .launch fn i
  else if off = 0x1000 then .winbase fn
  else .ident i

/-- The anti-rollback counter in the fuses (R427), and M's write of it: it advances only, up to the `SVN` of the image
that has brought the package to step 8. -/
def Carrier.antiRollback (c : Carrier) : Nat := fieldAt c.fuses 256 32

def Pkg.burnSvn (p : Pkg) (v : Nat) : Pkg :=
  let old := p.carrier.antiRollback
  if p.regs.bootStep = 8#4 ∧ old < v ∧ v ≤ bitsAt p.regs.fwver.toNat 32 32 then
    { p with carrier.fuses := p.carrier.fuses + BitVec.ofNat _ ((v - old) * 2 ^ 256) }
  else p

/-- A write of a privileged register of this package by the host or by M (R343, R352, R423): of one of the package, or of
one that each die has. [DEDUCED, log 23] -/
def State.privWrite (s : State) (n sel : Nat) (v : Word) : State :=
  if sregPkg n then (let t := s.writePkg sel n v; if n = 0x824 then t.rearrange else t)
  else if (swrFate true n).isSome then s
  else s.modDie (sel % 16) (·.writeReg n v)

/-- The value of such a register, with the state after the read. [DEDUCED, log 23] -/
def State.privRead (s : State) (n sel : Nat) : Word × State :=
  if (srdFate true n).isSome then (Config.bar0Word n, s)
  else if sregPkg n then
    (s.pkg.readReg sel (Config.powerReading s.fresh) n, if n = 0x86A then { s with fresh := s.fresh + 1 } else s)
  else ((s.die (sel % 16)).readReg s.pkg (sel % 16) n, s)

/-- An access through the register window at the package that it selects (R423): the window has an `MSEL` of its own
(R431). -/
def State.regWindow (s : State) (bridge fn : Nat) (write : Bool) (n sel : Nat) (v : Word) : State :=
  let tell (w : Word) (s : State) : State := s.answerHost bridge fn (some (natBytes 8 w.toNat))
  if write then (if n = 0x860 then s.modPkg fun p => { p with regs := { p.regs with hostMsel := v.setWidth 3 } }
    else s.privWrite n sel v)
  else if n = 0x860 then tell (s.pkg.regs.hostMsel.setWidth 64) s
  else if 0x861 ≤ n ∧ n ≤ 0x864 then tell (mdata s.pkg s.pkg.regs.hostMsel.toNat (n - 0x861)) s
  else tell (s.privRead n sel).1 (s.privRead n sel).2

/-- An access of the host to a privileged register, at the package that `PKGSEL` selects (R423). -/
def State.privAccess (s : State) (write : Bool) (n sel : Nat) (v : Word) : State :=
  let dest := s.pkg.boardPkg s.pkg.bridge.pkgsel
  let own := s.pkg.regs.pkgid.toNat
  s.overBoard dest (.hostReg dest own 0 write n sel v) fun s => s.regWindow own 0 write n sel v

/-- A write of the host (R351, R352, R423) or of M, which reaches the registers of every die and every object
(R343). [DEDUCED, log 23; DEDUCED, log 38] -/
def State.regWrite (s : State) (r : HostReg) (v : Word) : State :=
  let set (f : Bridge → Bridge) : State := s.modPkg fun p => { p with bridge := f p.bridge }
  match r with
  | .pkgsel => set fun b => { b with pkgsel := v.setWidth 2 }
  | .winpkg => set fun b => { b with winpkg := v.setWidth 2 }
  | .winbase fn =>
    if isFn fn then set fun b => { b with winbase := Store.set 0#64 b.winbase fn (v &&& 0x1FFFFF000000000#64) } else s
  | .mgmt f => set fun b => { b with mgmt := b.mgmt.put f v }
  | .launch fn f => if isFn fn then s.modPkg fun p => p.setRing fn ((p.ring fn).put f v) else s
  | .ident _ | .bar0 _ _ _ => s
  | .priv n sel => s.privAccess true n sel v
  | .m n sel => s.privWrite n sel v
  | .object part i => match objOf i with
    | none => s
    | some o => (s.setObj part o v).rearrange
  | .fuseSvn => s.modPkg (·.burnSvn v.toNat)

/-- What the host reads, and M. [DEDUCED, log 23] -/
def State.regRead (s : State) (r : HostReg) : State :=
  let p := s.pkg
  let tell (fn : Nat) (w : Word) (s : State) : State := s.tellHost (.readDone fn (natBytes 8 w.toNat))
  match r with
  | .pkgsel => tell 0 (p.bridge.pkgsel.setWidth 64) s
  | .winpkg => tell 0 (p.bridge.winpkg.setWidth 64) s
  | .winbase fn => tell fn (Store.get 0#64 p.bridge.winbase fn) s
  | .mgmt f => tell 0 (p.bridge.mgmt.get f) s
  | .launch fn f => tell fn ((p.ring fn).get f) s
  | .ident i => tell 0 (Config.bar0Word i) s
  | .bar0 _ _ _ => s
  | .priv n sel => s.privAccess false n sel 0#64
  | .m n sel => tell 0 (s.privRead n sel).1 (s.privRead n sel).2
  | .object _ i => match objOf i with
    | none => s
    | some o => tell 0 (s.objWord o) s
  | .fuseSvn => tell 0 (BitVec.ofNat 64 p.carrier.antiRollback) s

/-- The register that an access of the host names, by name or by its offset in BAR0. -/
def HostReg.resolve : HostReg → HostReg
  | .bar0 fn off sel => if isFn fn then bar0Reg fn off sel else .ident off
  | r => r

/-- A write of the host or of M. -/
def State.hostRegWrite (s : State) (r : HostReg) (v : Word) : State := s.regWrite r.resolve v

/-- A read of the host or of M. -/
def State.hostRegRead (s : State) (r : HostReg) : State := s.regRead r.resolve

/-! Function-level reset (R425). -/

/-- Kill a kernel wherever it stands; it completes with `KILLED`. -/
def State.killKernel (s : State) (l : Launch) : State :=
  match l.stage with
  | .running =>
    let s1 := l.running.foldl (fun s k => s.killStream k Config.resetStatus) s
    match s1.pkg.launch l.id with
    | none => s1
    | some m =>
      let s2 := l.saved.foldl (fun s k => (s.abortLocks k l.id).modPkg (·.abandonAll (member k l.id))) s1
      (s2.dropImages l).completeLaunch { m with code := max codeKilled m.code }
  | .descheduled => s.dropAway l codeKilled
  | .done => s
  | _ => s.cancelLaunch l codeKilled

/-- The kernels of a partition end in this package. -/
def State.killPart (s : State) (part : Nat) : State :=
  ((s.pkg.launches.filter (·.part == part)).map (·.id)).foldl (fun s id => match s.pkg.launch id with
    | none => s
    | some l => s.killKernel l) s

/-- Every kernel of a partition ends, in its other packages too (R425). -/
def State.killEverywhere (s : State) (x : Partition) : State :=
  let far := (subcubePackages x.base.toNat x.mask.toNat).filter (· != s.pkg.regs.pkgid.toNat)
  (s.killPart x.id).modPkg fun p => { p with outbox := p.outbox ++ far.map fun d => p.toPackage d (.reset d x.id) }

/-- The launch ring of a function is empty (R425). -/
def Pkg.emptyRing (p : Pkg) (fn : Nat) : Pkg := p.setRing fn { p.ring fn with cons := (p.ring fn).prod }

/-- The partitions that a reset of a function concerns, in this bridge's packages: the PF's every one (R425). -/
def Pkg.resetParts (p : Pkg) (fn : Nat) : List Partition := p.partitions.filter fun x => fn == 0 || x.fn == fn

/-- Partitions that this bridge made wholly in other packages (R421, R425): those packages are told. -/
def State.killCarried (s : State) (fn : Nat) : State := s.modPkg fun p =>
  let away := p.carried.filter fun x => (fn == 0 || x.2.1 == fn) && !p.partitions.any (·.id == x.1)
  { p with outbox := p.outbox ++ away.flatMap fun x => x.2.2.map fun d => p.toPackage d (.reset d x.1) }

/-- `FUNCTION_LEVEL_RESET` (R425): of a VF, its partition's kernels and its launch ring; of the PF, those of every
partition. -/
def execFunctionLevelReset (fn : Nat) (s : State) : Out :=
  if ¬ isFn fn then .next s
  else
    let s1 := (s.pkg.resetParts fn).foldl (fun s x => s.killEverywhere x) s
    let fns := if fn = 0 then List.range 17 else [fn]
    .next ((s1.killCarried fn).modPkg fun p => fns.foldl Pkg.emptyRing p).rearrange

/-! Bring-up (R426-R430, R432). -/

/-- The configuration record that the carrier's bytes hold (R430): physical dimensions 4-19 only.
[DESIGN CHOICE, log 22] -/
def recordOf (b : List Byte) : ConfigRecord :=
  ⟨(Config.recordEntries b).filter fun e => 4 ≤ e.1 && e.1 < 20, Config.recordDetour b, Config.recordDetour2 b,
    Config.recordGm b, Config.recordGmid b⟩

def Carrier.config (c : Carrier) : ConfigRecord := recordOf c.record

/-- The failure code of the boot ROM's checks, in the order of R427; 0 when the image is accepted, and the configuration
record, which is signed with it (R430). [DEDUCED, log 22] -/
def Carrier.firmwareCode (c : Carrier) : Nat :=
  let be (a : Nat) : Nat := beNat (c.flashBytes a 32)
  let len := c.header 8 4
  if c.header 0 4 ≠ 0x58463631 ∨ c.header 80 112 ≠ 0 ∨ len % 4096 ≠ 0 then 1
  else if bytesNat (sha256 (c.flashBytes 16 64)) ≠ fieldAt c.fuses 0 256 then 2
  else if c.header 4 4 < c.antiRollback then 3
  else if ¬ ecdsaVerify (be 16) (be 48) (sha256 (c.flashBytes 0 192 ++ c.flashBytes 256 len)) (be 192) (be 224) then 4
  else if ¬ ecdsaVerify (be 16) (be 48) (sha256 c.record) c.sigR c.sigS then 4
  else 0

/-- The package as power-on or a package reset finds it: what lies outside stays. -/
def Pkg.poweredOn (p : Pkg) : Pkg := { Pkg.reset with carrier := p.carrier, host := p.host, outbox := p.outbox }

/-- `BOOTST` shows a step (R426). -/
def Pkg.atStep (p : Pkg) (n : BitVec 4) : Pkg := { p with regs.bootStep := n }

/-- The package stops in the step that `BOOTST` shows, with a code (R426). -/
def Pkg.stopBoot (p : Pkg) (code : BitVec 8) : Pkg := { p with regs.bootCode := code, boot := none }

/-- Step 1 passed: the version registers, `MEAS0` and `MEAS1` (R427, R432). -/
def Pkg.measureFirmware (p : Pkg) : Pkg :=
  let c := p.carrier
  let q := { p with regs := { p.regs with
    fwver := BitVec.ofNat 64 (c.header 4 4 * 2 ^ 32 + c.header 12 4)
    pkgid := c.pkgid &&& 0xFFFF#20, gm := c.config.gm, gmid := c.config.gmid &&& 0xFFFF#20 } }
  (q.extend 0 (sha256 (c.flashBytes 0 (256 + c.header 8 4)))).extend 1 (sha256 c.record)

/-- Step 4: the sockets that pass are admitted (R428, R429). -/
def State.admitAll (s : State) (bad : BitVec 16) : State :=
  sockets.foldl (fun s k => if bad.getLsbD k then s.modPkg (·.setSock k .fenced) else s.beginAdmission k) s

/-- The ports that a record names. -/
def ConfigRecord.ports (c : ConfigRecord) : List Nat := (c.entries.map fun e => routePort e.2).filter (· < 24)

/-- Step 5: bank 0 takes the record's entries with `VALID` clear (R430). -/
def Pkg.enterRoutes (p : Pkg) (c : ConfigRecord) : Pkg :=
  c.entries.foldl (fun (p : Pkg) e => p.setRoute false e.1 (e.2 &&& ~~~128#64)) p

/-- Step 5: the ports go from `DARK` to `TRAINING`, then to `VERIFY`, in which each sends its identity, then to `UP` or
`FAILED` by what has come in (R408, R409, R430). -/
def Pkg.startTraining (p : Pkg) (l : List Nat) : Pkg := l.foldl (fun (p : Pkg) n => p.movePort n .training) p

def Pkg.startVerify (p : Pkg) (l : List Nat) : Pkg := l.foldl (fun (p : Pkg) n => (p.identify n).movePort n .verify) p

def Pkg.verifyPort (p : Pkg) (ids : List Ident) (n : Nat) : Pkg :=
  match ids.find? (·.port == n) with
  | none => p.movePort n .failed
  | some i => (p.setPort n { p.port n with nbr := BitVec.ofNat 20 i.pkg }).movePort n
      (if p.identityOk n (i.pkg % 2 ^ 20) i.dim i.expect then .up else .failed)

/-- Step 5, as far as it has come: the state after one more of its moves. -/
def Pkg.trainPorts (p : Pkg) (c : ConfigRecord) (ids : List Ident) : Pkg :=
  let l := c.ports
  let now (st : PortState) : Bool := l.any fun n => (p.port n).state == st
  if now .dark then (p.enterRoutes c).startTraining l
  else if now .training then p.startVerify l
  else (l.foldl (fun (p : Pkg) n => p.verifyPort ids n) p).atStep 6#4

/-- Step 6: the first synchronisation sets `PTIME`; the grandmaster needs none; without one, or without a parent in reach,
the package holds (R416-R419). -/
def Pkg.firstSync (p : Pkg) (sync : Option (Word × BitVec 32)) : Pkg :=
  match sync with
  | some (t, bound) =>
    if p.regs.gm then p
    else if p.parentDim = 31 then p.holdTime
    else { p with ptime := t, pskew := bound, regs := { p.regs with parent := BitVec.ofNat 5 p.parentDim } }
  | none => if p.regs.gm ∨ p.regs.parent ≠ 0x1F#5 then p
    else { p with holdAt := p.ptime.toNat, regs := { p.regs with hold := true } }

/-- Step 7: entries whose port is up become valid, the detour registers are loaded (R430). -/
def Pkg.loadRoutes (p : Pkg) (c : ConfigRecord) : Pkg :=
  let q := c.entries.foldl (fun (p : Pkg) e =>
    let ent := p.route false e.1
    if (p.port (routePort ent)).state = .up then p.setRoute false e.1 (ent ||| 128#64) else p) p
  { q with regs := { q.regs with rtact := false, armed := false, detour := c.detour, detour2 := c.detour2 } }

/-- Step 8 (R426, R432). -/
def Pkg.ready (p : Pkg) : Pkg :=
  let out := sockets.filter fun k => p.sock k == .fenced
  let q := p.extend 3 (natBytes 32 (Config.bootDigest p.carrier.fuses out p.badStacks).toNat)
  { q with
    regs := { q.regs with bootStep := 8#4 }
    syncAt := q.ptime.toNat
    boot := none
    outbox := q.outbox ++ (if p.carrier.bridging then [.vector 0 0] else []) }

/-- The work of the step that `BOOTST` shows (R426): it goes on to the next, or the package stops. [DESIGN CHOICE, log 22] -/
def State.bootStep (s : State) (b : Boot) : State :=
  let c := s.pkg.carrier
  match s.pkg.regs.bootStep.toNat with
  | 1 =>
    if c.firmwareCode ≠ 0 then s.modPkg (·.stopBoot (BitVec.ofNat 8 c.firmwareCode))
    else s.modPkg fun p => p.measureFirmware.atStep 2#4
  | 2 =>
    if b.selfTest then s.modPkg (·.atStep 3#4)
    else s.modPkg (·.stopBoot (if Config.selfTestCode = 0#8 then 1#8 else Config.selfTestCode))
  | 3 => s.modPkg fun p => { p with badStacks := (List.range 12).filter b.badStacks.getLsbD }.atStep 4#4
  | 4 => (s.admitAll b.badSockets).modPkg (·.atStep 5#4)
  | 5 => s.modPkg (·.trainPorts c.config b.idents)
  | 6 => s.modPkg fun p => (p.firstSync b.sync).atStep 7#4
  | _ => s.modPkg fun p => (p.loadRoutes c.config).ready

/-- A bring-up that is under way goes on at each clock edge of the package (R426). [DESIGN CHOICE, log 22] -/
def State.bootEdge (s : State) : State :=
  match s.pkg.boot with
  | none => s
  | some b => s.bootStep b

/-- `POWER_ON` (R426): the package is as reset finds it, and step 1 of bring-up begins, with what the self-tests, the
training and the first synchronisation will come to. [DESIGN CHOICE, log 4; DESIGN CHOICE, log 22] -/
def execPowerOn (selfTest : Bool) (badStacks : BitVec 12) (badSockets : BitVec 16) (idents : List Ident)
    (sync : Option (BitVec 64 × BitVec 32)) (s : State) : Out :=
  .next { s with
    dies := [], cur := 0
    pkg := { s.pkg.poweredOn with boot := some ⟨selfTest, badStacks, badSockets, idents, sync⟩ } }

/-! Attestation (R431-R433). -/

/-- `MEXT` (R432). -/
def execMext (v : Word) (s : State) : Out := .next (s.mext v)

/-- `ATTCMD_GO` (R433). -/
def execAttcmdGo (s : State) : Out := .next (s.writeAttcmd 1#64)

/-- `ATTESTATION_REPORT_DONE` (R433). -/
def execAttestationReportDone (s : State) : Out := .next s.finishReport

/-! The clock (R434). -/

/-- The C-dies' clock takes a rate; the fraction of a nanosecond is kept. -/
def Pkg.setClock (p : Pkg) (mhz : Nat) (cause : BitVec 3) : Pkg :=
  { p with
    pfrac := p.pfrac * mhz / max 1 p.regs.mhz.toNat
    clkAt := p.ptime.toNat
    regs := { p.regs with mhz := BitVec.ofNat 16 mhz, pwrCause := cause } }

/-- `CLOCK_STEP_DOWN` (R434): never below 1,000 MHz; the cap is a cause only while it is enabled. -/
def execClockStepDown (cause : BitVec 3) (s : State) : Out :=
  let c : BitVec 3 := if s.pkg.regs.pwrcapEn then cause else cause &&& 6#3
  if c = 0#3 then .next s
  else .next (s.modPkg fun p => p.setClock (max 1000 (p.regs.mhz.toNat - 100)) c)

/-- `CLOCK_STEP_UP` (R434): no cause holds; the clock rises by a step each millisecond. -/
def execClockStepUp (s : State) : Out :=
  .next (s.modPkg fun p =>
    if p.clkAt + 1000000 ≤ p.ptime.toNat then p.setClock (min 2000 (p.regs.mhz.toNat + 100)) 0#3
    else { p with regs := { p.regs with pwrCause := 0#3 } })

end Sys2Proof.Machine
end

