-- ==== Sys2Proof/Machine/Vector.lean ====
section
/-! DEFINITION. The V slots (chapter 10): elementwise arithmetic, reductions, permutes, conversions, output
ports, masks. -/
namespace Sys2Proof.Machine

/-- An element of a result with the flags it raised. -/
abbrev Flagged := Nat × BitVec 10

/-- Every lane. -/
def allLanes : Mask := BitVec.allOnes 512

/-- Schedule the elements of a result under a mask (R55, R223). -/
def Die.emitElems (d : Die) (lat : Nat) (ws : Bool) (dest : Dest) (m : Mask) (w : Nat) (r : List Flagged) : Die :=
  d.emitV lat ws dest m (pack w (r.map (·.1))) (maskFlags m w (r.map (·.2)))

/-- A two-source instruction on elements; `f` gets the rounding rule. -/
def elementwise (lat : Nat) (x : VArgs) (f : Rule → Nat → Nat → Flagged) (s : State) : Out :=
  guarded x.p s fun s => withVV x.ty x.a x.b s fun a b s =>
    let d := s.here
    let w := vWidth x.ty
    .next (s.put (d.emitElems lat x.ws (d.vDest x.d) (d.readK x.k) w
      (((elems w a).zip (elems w b)).map fun e => f d.rule e.1 e.2)))

/-- A one-source instruction on elements. -/
def elementwiseOne (lat : Nat) (x : VOne) (f : Nat → Flagged) (s : State) : Out :=
  guarded x.p s fun s => withV x.ty x.a s fun a s =>
    let d := s.here
    let w := vWidth x.ty
    .next (s.put (d.emitElems lat x.ws (d.vDest x.d) (d.readK x.k) w ((elems w a).map f)))

/-- An operation of a type: on exact values rounded once, or on integers kept to the width (R224, R225). -/
def typedOp (ty : VType) (fop : Rule → FVal → FVal → FVal × BitVec 10) (iop : Int → Int → Int)
    (r : Rule) (x y : Nat) : Flagged :=
  match vFmt ty with
  | some f =>
    let (v, g) := fop r (f.dec x) (f.dec y)
    let (p, h) := f.settle r v
    (p, g ||| h)
  | none => (patOf (vWidth ty) (iop (intOf (vSigned ty) (vWidth ty) x) (intOf (vSigned ty) (vWidth ty) y)), 0#10)

/-- An operation on integers clamped to the type's range (R225). -/
def saturated (ty : VType) (iop : Int → Int → Int) (x y : Nat) : Flagged :=
  let w := vWidth ty
  let sg := vSigned ty
  let (i, f) := clampInt (intLo sg w) (intHi sg w) (iop (intOf sg w x) (intOf sg w y))
  (patOf w i, f)

/-- The smaller and the larger of two patterns (R88, R225). -/
def minElem (ty : VType) (x y : Nat) : Nat :=
  match vFmt ty with
  | some f => f.minPat x y
  | none => if intOf (vSigned ty) (vWidth ty) y < intOf (vSigned ty) (vWidth ty) x then y else x

def maxElem (ty : VType) (x y : Nat) : Nat :=
  match vFmt ty with
  | some f => f.maxPatOf x y
  | none => if intOf (vSigned ty) (vWidth ty) x < intOf (vSigned ty) (vWidth ty) y then y else x

/-- A bitwise operation on patterns. -/
def bitwise (x : VArgs) (f : Nat → Nat → Nat) (s : State) : Out := elementwise 2 x (fun _ a b => (f a b, 0#10)) s

/-- The shift amount: log2 of the width low bits (R225). -/
def shiftBy (ty : VType) (b : Nat) : Nat := b % vWidth ty

/-- `VNOP` (R190). -/
def execVnop (p : BitVec 5) (s : State) : Out := guarded p s .next

/-- `VADD` (R224, R225). -/
def execVadd (x : VArgs) (s : State) : Out :=
  elementwise 2 x (typedOp x.ty (fun r a b => a.add r.rm b) (· + ·)) s

/-- `VSUB` (R224, R225). -/
def execVsub (x : VArgs) (s : State) : Out :=
  elementwise 2 x (typedOp x.ty (fun r a b => a.add r.rm b.neg) (· - ·)) s

/-- `VMUL` (R224, R225). -/
def execVmul (x : VArgs) (s : State) : Out :=
  elementwise 4 x (typedOp x.ty (fun _ a b => a.mul b) (· * ·)) s

/-- A fused multiply-add: one rounding; the destination is read at issue (R224). -/
def fused (x : VArgs) (neg : Bool) (s : State) : Out :=
  guarded x.p s fun s =>
    let c := s.here.readV x.d
    withVV x.ty x.a x.b s fun a b s =>
      let d := s.here
      let w := vWidth x.ty
      let f := (vFmt x.ty).getD .f32
      let one (p q r : Nat) : Flagged :=
        let u := if neg then (f.dec p).neg else f.dec p
        let (v, g) := FVal.fma d.rule.rm u (f.dec q) (f.dec r)
        let (y, h) := f.settle d.rule v
        (y, g ||| h)
      .next (s.put (d.emitElems 4 x.ws (d.vDest x.d) (d.readK x.k) w
        (((elems w a).zip ((elems w b).zip (elems w c))).map fun e => one e.1 e.2.1 e.2.2)))

/-- `VFMA` (R224). -/
def execVfma (x : VArgs) (s : State) : Out := fused x false s

/-- `VFMS` (R224). -/
def execVfms (x : VArgs) (s : State) : Out := fused x true s

/-- `VMIN` (R88, R224, R225). -/
def execVmin (x : VArgs) (s : State) : Out := elementwise 2 x (fun _ a b => (minElem x.ty a b, 0#10)) s

/-- `VMAX` (R88, R224, R225). -/
def execVmax (x : VArgs) (s : State) : Out := elementwise 2 x (fun _ a b => (maxElem x.ty a b, 0#10)) s

/-- A sign operation: exact, a NaN becomes canonical (R224); integers keep the width (R225). -/
def signOp (ty : VType) (f : Nat → Nat → Nat) (i : Int → Int) (a : Nat) : Flagged :=
  match vFmt ty with
  | some t => (if (t.dec a).isNan then t.nanPat else f t.signBit a, 0#10)
  | none => (patOf (vWidth ty) (i (intOf (vSigned ty) (vWidth ty) a)), 0#10)

/-- `VABS` (R224, R225). -/
def execVabs (x : VOne) (s : State) : Out :=
  elementwiseOne 2 x (signOp x.ty (fun sb a => a % sb) fun i => (i.natAbs : Int)) s

/-- `VNEG` (R224, R225). -/
def execVneg (x : VOne) (s : State) : Out :=
  elementwiseOne 2 x (signOp x.ty (fun sb a => if a < sb then a + sb else a - sb) fun i => -i) s

/-- `VAND` (R225). -/
def execVand (x : VArgs) (s : State) : Out := bitwise x (· &&& ·) s

/-- `VOR` (R225). -/
def execVor (x : VArgs) (s : State) : Out := bitwise x (· ||| ·) s

/-- `VXOR` (R225). -/
def execVxor (x : VArgs) (s : State) : Out := bitwise x (· ^^^ ·) s

/-- `VSHL` (R225). -/
def execVshl (x : VArgs) (s : State) : Out := bitwise x (fun a b => a * 2 ^ shiftBy x.ty b) s

/-- `VSHR` (R225): zero-extended. -/
def execVshr (x : VArgs) (s : State) : Out := bitwise x (fun a b => a / 2 ^ shiftBy x.ty b) s

/-- `VSRA` (R225): sign-extended. -/
def execVsra (x : VArgs) (s : State) : Out :=
  bitwise x (fun a b => patOf (vWidth x.ty) (intOf true (vWidth x.ty) a / 2 ^ shiftBy x.ty b)) s

/-- One comparison of `VCMP` (R187). -/
def vcmpTest (ty : VType) (c : Nat) (a b : Nat) : Bool :=
  if c = 6 then a &&& b != 0
  else if c = 7 then a &&& b == 0
  else match ty with
    | .f32 => FVal.test c (f32v a) (f32v b)
    | _ =>
      let x := intOf (vSigned ty) 32 a
      let y := intOf (vSigned ty) 32 b
      match c with
      | 0 => x == y
      | 1 => x != y
      | 2 => decide (x < y)
      | 3 => decide (y ≤ x)
      | 4 => decide (x ≤ y)
      | _ => decide (y < x)

/-- The number whose bits a list gives. -/
def bitsOf : List Bool → Nat
  | [] => 0
  | b :: rest => (if b then 1 else 0) + 2 * bitsOf rest

/-- `VCMP` (R187): bits of the destination mask under the slot's mask. -/
def execVcmp (x : VCmpArgs) (s : State) : Out :=
  guarded x.p s fun s => withVV x.ty x.a x.b s fun a b s =>
    let d := s.here
    let r := ((elems 32 a).zip (elems 32 b)).map fun e => vcmpTest x.ty x.c.toNat e.1 e.2
    .next (s.put (d.emitV 2 x.ws (Die.kDest x.d) (d.readK x.k) (BitVec.ofNat 16384 (bitsOf r)) []))

/-- `VSEL` (R226): the mask selects, and every lane is written. -/
def execVsel (x : VArgs) (s : State) : Out :=
  guarded x.p s fun s => withVV x.ty x.a x.b s fun a b s =>
    let d := s.here
    .next (s.put (d.emitV 2 x.ws (d.vDest x.d) allLanes (merge (d.readK x.k) a b) []))

/-- `VMOV` (R226). -/
def execVmov (x : VOne) (s : State) : Out := elementwiseOne 2 x (fun a => (a, 0#10)) s

/-- `VBCAST` (R226): a pattern, not converted. -/
def execVbcast (x : VBcastArgs) (s : State) : Out :=
  guarded x.p s fun s => withOne x.a s fun a s =>
    let d := s.here
    .next (s.put (d.emitV 2 x.ws (d.vDest x.d) (d.readK x.k) (splat (vWidth x.ty) a.toNat) []))

/-- `VIOTA` (R226). -/
def execViota (x : VArgs) (s : State) : Out :=
  guarded x.p s fun s => withVV x.ty x.a x.b s fun a b s =>
    let d := s.here
    let w := vWidth x.ty
    let r := ((elems w a).zip (elems w b)).zipIdx.map fun e => e.1.1 + e.2 * e.1.2
    .next (s.put (d.emitV 2 x.ws (d.vDest x.d) (d.readK x.k) (pack w r) []))

/-- A transcendental of R100-R103: a 16-bit element is widened, and the F32 result rounded once (R99). -/
def viaF32 (ty : VType) (f : FVal → Flagged) (a : Nat) : Flagged :=
  match vFmt ty with
  | some .f32 => f (f32v a)
  | some t =>
    let (y, g) := f (r32 (t.dec a)).1
    let (z, h) := t.round .fixed (f32v y)
    (z, g ||| h)
  | none => (a, 0#10)

/-- `VEXP2` (R232). -/
def execVexp2 (x : VOne) (s : State) : Out := elementwiseOne 8 x (viaF32 x.ty fexp2) s

/-- `VLOG2` (R232). -/
def execVlog2 (x : VOne) (s : State) : Out := elementwiseOne 8 x (viaF32 x.ty flog) s

/-- `VRCP` (R232). -/
def execVrcp (x : VOne) (s : State) : Out := elementwiseOne 8 x (viaF32 x.ty frcp) s

/-- `VRSQ` (R232). -/
def execVrsq (x : VOne) (s : State) : Out := elementwiseOne 8 x (viaF32 x.ty frsq) s

/-- One level of the tree of R97: place `i` takes in place `i + n`. -/
def treeLevel (f : Nat → Nat → Flagged) (n : Nat) (l : List Flagged) : List Flagged :=
  ((l.take n).zip (l.drop n)).map fun e =>
    let (y, g) := f e.1.1 e.2.1
    (y, e.1.2 ||| g)

/-- The tree of R97: the result and the flags of each place that took part. -/
def tree (f : Nat → Nat → Flagged) (l : List Nat) : Nat × List (BitVec 10) :=
  let step (acc : List Flagged × List (BitVec 10)) (n : Nat) : List Flagged × List (BitVec 10) :=
    let next := treeLevel f n acc.1
    (next, (next.map (·.2)).zipIdx.map (fun e => e.1 ||| acc.2.getD e.2 0#10) ++ acc.2.drop n)
  let (r, fl) := [256, 128, 64, 32, 16, 8, 4, 2, 1].foldl step (l.map fun x => (x, 0#10), List.replicate 512 0#10)
  ((r.head?.map (·.1)).getD 0, fl)

/-- Pairs of a list. -/
def pairUp : List Nat → List (Nat × Nat)
  | a :: b :: rest => (a, b) :: pairUp rest
  | _ => []

/-- A masked element enters as an identity (R97, R229). -/
def withIdentity (m : Mask) (w ident : Nat) (l : List Nat) : List Nat :=
  l.zipIdx.map fun e => if unmasked m w e.2 then e.1 else ident

/-- A floating reduction (R97): a 16-bit type first combines the two elements of each lane. -/
def reduceFloat (f : FFmt) (m : Mask) (op : Nat → Nat → Flagged) (ident : FVal) (a : Vec) :
    Nat × List (BitVec 10) :=
  let wide := (elems f.width a).map fun x => if f = .f32 then x else (FFmt.f32.round .fixed (f.dec x)).1
  let l := withIdentity m f.width (FFmt.f32.round .fixed ident).1 wide
  if f = .f32 then tree op l
  else
    let firsts := (pairUp l).map fun p => op p.1 p.2
    let (y, fl) := tree op (firsts.map (·.1))
    let (z, g) := f.round .fixed (f32v y)
    let all := (firsts.zip fl).map fun e => e.1.2 ||| e.2
    (z, all.zipIdx.map fun e => if e.2 = 0 then e.1 ||| g else e.1)

/-- An integer reduction (R229). -/
def reduceInt (ty : VType) (m : Mask) (op : Int → Int → Int) (ident : Int) (a : Vec) : Nat :=
  let w := vWidth ty
  let l := (elems w a).zipIdx.map fun e => if unmasked m w e.2 then intOf (vSigned ty) w e.1 else ident
  patOf w (l.foldl op ident)

/-- A reduction writes its value to every element of the unmasked lanes (R229). [DEDUCED, log 27] -/
def reduction (x : VOne) (fop : Nat → Nat → Flagged) (fid : FVal) (iop : Int → Int → Int)
    (iid : Bool → Nat → Int) (s : State) : Out :=
  guarded x.p s fun s => withV x.ty x.a s fun a s =>
    let d := s.here
    let m := d.readK x.k
    let w := vWidth x.ty
    let (v, fl) := match vFmt x.ty with
      | some f => reduceFloat f m fop fid a
      | none => (reduceInt x.ty m iop (iid (vSigned x.ty) w) a, [])
    .next (s.put (d.emitV 10 x.ws (d.vDest x.d) m (splat w v) fl))

/-- `VRSUM` (R97, R229). -/
def execVrsum (x : VOne) (s : State) : Out :=
  reduction x addStep (.fin true 0 0) (· + ·) (fun _ _ => 0) s

/-- `VRMAX` (R97, R229). -/
def execVrmax (x : VOne) (s : State) : Out :=
  reduction x (fun a b => (FFmt.f32.maxPatOf a b, 0#10)) (.inf true) max intLo s

/-- `VRMIN` (R97, R229). -/
def execVrmin (x : VOne) (s : State) : Out :=
  reduction x (fun a b => (FFmt.f32.minPat a b, 0#10)) (.inf false) min intHi s

/-- The order of `VARGMAX` (R88, R230). -/
def elemBelow (ty : VType) (x y : Nat) : Bool :=
  match vFmt ty with
  | some f => (f.dec x).below (f.dec y)
  | none => intOf (vSigned ty) (vWidth ty) x < intOf (vSigned ty) (vWidth ty) y

/-- The index of the largest element that is no NaN and not masked (R230). -/
def argmax (ty : VType) (m : Mask) (a : Vec) : Nat :=
  let ok (e : Nat × Nat) : Bool :=
    unmasked m (vWidth ty) e.2 && !((vFmt ty).map fun f => (f.dec e.1).isNan).getD false
  let l := (elems (vWidth ty) a).zipIdx.filter ok
  let best := l.foldl (fun (b : Option (Nat × Nat)) e => match b with
    | none => some e
    | some x => if elemBelow ty x.1 e.1 then some e else some x) none
  (best.map (·.2)).getD 0xFFFFFFFF

/-- `VARGMAX` (R230). -/
def execVargmax (x : VOne) (s : State) : Out :=
  guarded x.p s fun s => withV x.ty x.a s fun a s =>
    let d := s.here
    let m := d.readK x.k
    .next (s.put (d.emitV 10 x.ws (d.vDest x.d) m (splat 32 (argmax x.ty m a)) []))

/-- One step of the scan of R98. -/
def scanStep (f : Nat → Nat → Flagged) (k : Nat) (l : List Flagged) : List Flagged :=
  l.take k ++ ((l.drop k).zip l).map fun e =>
    let (y, g) := f e.1.1 e.2.1
    (y, e.1.2 ||| g)

/-- The scan: log2 of the length steps. [DEDUCED, log 27] -/
def scan (f : Nat → Nat → Flagged) (l : List Nat) : List Flagged :=
  (List.range (Nat.log2 l.length)).foldl (fun l i => scanStep f (2 ^ i) l) (l.map fun x => (x, 0#10))

/-- The scan of a floating type (R98, R231): the flags of its steps at every place, of the final
rounding only in unmasked lanes; F32 places are exact, a NaN the canonical one (R88). -/
def scanFloat (f : FFmt) (m : Mask) (a : Vec) : List Flagged :=
  let wide := (elems f.width a).map fun x => if f = .f32 then x else (FFmt.f32.round .fixed (f.dec x)).1
  let r := scan addStep (withIdentity m f.width 0x80000000 wide)
  r.zipIdx.map fun e =>
    let (y, g) := f.round .fixed (f32v e.1.1)
    (y, if unmasked m f.width e.2 then e.1.2 ||| g else e.1.2)

/-- `VSCAN` (R98, R231). -/
def execVscan (x : VOne) (s : State) : Out :=
  guarded x.p s fun s => withV x.ty x.a s fun a s =>
    let d := s.here
    let m := d.readK x.k
    let w := vWidth x.ty
    let r := match vFmt x.ty with
      | some f => scanFloat f m a
      | none => scan (fun p q => ((p + q) % 2 ^ w, 0#10)) (withIdentity m w 0 (elems w a))
    .next (s.put (d.emitV 12 x.ws (d.vDest x.d) m (pack w (r.map (·.1))) (r.map (·.2))))

/-- `VPERM` (R228). -/
def execVperm (x : VArgs) (s : State) : Out :=
  guarded x.p s fun s => withVV x.ty x.a x.b s fun a b s =>
    let d := s.here
    let w := vWidth x.ty
    let r := (elems w b).map fun i => a.toNat / 2 ^ (w * (i % count w)) % 2 ^ w
    .next (s.put (d.emitV 4 x.ws (d.vDest x.d) (d.readK x.k) (pack w r) []))

/-- `VROTL` (R228). -/
def execVrotl (x : VArgs) (s : State) : Out :=
  guarded x.p s fun s => withVV x.ty x.a x.b s fun a b s =>
    let d := s.here
    let w := vWidth x.ty
    let r := b.toNat % 2 ^ w % count w
    .next (s.put (d.emitV 4 x.ws (d.vDest x.d) (d.readK x.k) (a.rotateRight (w * r)) []))

/-- The type of an immediate source of a conversion pair (R161, R188). -/
def vcvtSource (c : Nat) : VType :=
  if c ≤ 3 then .f32
  else if c = 0x04 ∨ c = 0x08 ∨ c = 0x0A ∨ c = 0x0B then .bf16
  else if c = 0x05 ∨ c = 0x09 ∨ c = 0x1E then .f16
  else if c = 0x06 ∨ c = 0x0C then .e4m3
  else if c = 0x07 ∨ c = 0x0D then .e5m2
  else if c = 0x0E ∨ c = 0x10 ∨ c = 0x12 then .f32
  else if c = 0x16 then .i16
  else if c = 0x17 then .i8
  else if c = 0x1A then .z16
  else if c = 0x1B then .z8
  else if c = 0x11 ∨ c = 0x14 ∨ c = 0x15 ∨ c = 0x1C then .i32
  else .z32

/-- A lane-by-lane conversion (R233, R240). [DEDUCED, log 28] -/
def convertLanes (c : Nat) (r : Rule) (a : Vec) : List Flagged := (elems 32 a).map fun x => (vcvtPair c).run r x

/-- `VCVT` (R188, R233). -/
def execVcvt (x : VCvtArgs) (s : State) : Out :=
  guarded x.p s fun s => withV (vcvtSource x.c.toNat) x.a s fun a s =>
    let d := s.here
    .next (s.put (d.emitElems 3 x.ws (d.vDest x.d) (d.readK x.k) 32 (convertLanes x.c.toNat d.rule a)))

/-- The source type, which an immediate takes too, and the conversion of `VPACK` (R161, R234). [DEDUCED, log 40] -/
def packFrom (ty : VType) : VType × Conv :=
  match ty with
  | .bf16 => (.f32, .ff .f32 .bf16)
  | .f16 => (.f32, .ff .f32 .f16)
  | .i16 => (.i32, .ii true 32 true 16)
  | .z16 => (.z32, .ii false 32 false 16)
  | .e4m3 => (.bf16, .ff .bf16 .e4m3)
  | .e5m2 => (.bf16, .ff .bf16 .e5m2)
  | .i8 => (.i16, .ii true 16 true 8)
  | _ => (.z16, .ii false 16 false 8)

/-- `VPACK` (R234); an immediate is of the source type, which its element width takes. [DEDUCED, log 40] -/
def execVpack (x : VArgs) (s : State) : Out :=
  let (src, conv) := packFrom x.ty
  guarded x.p s fun s => withVV src x.a x.b s fun a b s =>
    let d := s.here
    let l := elems (vWidth src) a ++ elems (vWidth src) b
    .next (s.put (d.emitElems 3 x.ws (d.vDest x.d) (d.readK x.k) (vWidth x.ty) (l.map (conv.run d.rule))))

/-- `VUNPK` (R235): widening is exact. [DEDUCED, log 28] -/
def widen (ty : VType) (x : Nat) : Nat :=
  match ty with
  | .bf16 => x * 65536
  | .f16 => (FFmt.f32.round .fixed (FFmt.f16.dec x)).1
  | .i16 => patOf 32 (intOf true 16 x)
  | .i8 => patOf 16 (intOf true 8 x)
  | _ => x

/-- `VUNPK` (R235). -/
def execVunpk (x : VUnpkArgs) (s : State) : Out :=
  guarded x.p s fun s => withV x.ty x.a s fun a s =>
    let d := s.here
    let w := vWidth x.ty
    let m := count w / 2
    let half := ((elems w a).drop (if x.h then m else 0)).take m
    let wide (e : Nat) : Nat := if x.ty = .bf16 ∧ (FFmt.bf16.dec e).isNan then FFmt.f32.nanPat else widen x.ty e
    .next (s.put (d.emitV 3 x.ws (d.vDest x.d) (d.readK x.k) (pack (2 * w) (half.map wide)) []))

/-- The address of a place in a generator's sequence (R59). -/
def seqAddr (base : Int) (cnt : List Nat) (str : List Int) (n : Nat) : Int :=
  match cnt, str with
  | c :: cs, t :: ts => seqAddr (base + (n % c : Nat) * t) cs ts (n / c)
  | _, _ => base

/-- Send a vector to an output port (R60, R236): it lands there in `lat` cycles. -/
def sendOut (y lat : Nat) (v : Vec) (s : State) (k : State → Out) : Out :=
  let d := s.here
  match Store.get none d.tab.outp y with
  | none => raiseIllegal s
  | some x =>
    let land := d.now + lat
    let n := seqLength x.cnt
    if d.handler ∨ ¬ x.armed ∨ x.drained ∨ n ≤ x.given then raiseIllegal s
    else if d.tab.outq.any fun q => q.port == y && q.land == land && !q.landed then raiseIllegal s
    else
      let o : OutVec := ⟨y, d.now, land, seqAddr x.base x.cnt x.str x.given, v, x.given + 1 == n, x.arming, false⟩
      let ports := Store.set none d.tab.outp y (some { x with given := x.given + 1 })
      k (s.put { d with tab.outp := ports, tab.outq := d.tab.outq ++ [o] })

/-- `VOUT` (R236): zero in every masked lane. -/
def execVout (x : VOutArgs) (s : State) : Out :=
  guarded x.p s fun s => withV x.ty x.a s fun a s =>
    let v := merge (s.here.readK x.k) a 0#16384
    sendOut x.y.toNat 2 v s fun s => .next (s.mod fun d => d.emitV 2 false .none allLanes v [])

/-- A mask instruction with a mask result (R237). -/
def maskOp (x : KArgs) (f : Mask → Mask → Mask) (s : State) : Out :=
  guarded x.p s fun s =>
    let d := s.here
    let v := f (d.readK x.a) (d.readK x.b)
    .next (s.put (d.emitV 2 x.ws (Die.kDest (x.d.setWidth 3)) allLanes (v.setWidth 16384) []))

/-- `KAND` (R237). -/
def execKand (x : KArgs) (s : State) : Out := maskOp x (· &&& ·) s

/-- `KOR` (R237). -/
def execKor (x : KArgs) (s : State) : Out := maskOp x (· ||| ·) s

/-- `KNOT` (R237). -/
def execKnot (x : KArgs) (s : State) : Out := maskOp x (fun a _ => ~~~a) s

/-- Set bits of a number, by its low `n` bits. -/
def onesIn (v n : Nat) : Nat := (List.range n).foldl (fun c i => if v.testBit i then c + 1 else c) 0

/-- `KPOPC` (R237). -/
def execKpopc (x : KArgs) (s : State) : Out :=
  guarded x.p s fun s =>
    let d := s.here
    .next (s.put (d.emitS 2 x.ws x.d (BitVec.ofNat 64 (onesIn (d.readK x.a).toNat 512)) 0#10))

/-- `VEXTS` (R227). -/
def execVexts (x : VExtArgs) (s : State) : Out :=
  guarded x.p s fun s => withV x.ty x.a s fun a s => withOne x.b s fun b s =>
    let d := s.here
    let w := vWidth x.ty
    let e := a.toNat / 2 ^ (w * (b.toNat % count w)) % 2 ^ w
    .next (s.put (d.emitS 3 x.ws x.d (if vSigned x.ty then wordOf (sextInt e w) else BitVec.ofNat 64 e) 0#10))

/-- `VINSS` (R227): the other elements as read at issue. -/
def execVinss (x : VInsArgs) (s : State) : Out :=
  guarded x.p s fun s =>
    let old := s.here.readV x.d
    withTwo x.a x.b s fun a b s =>
      let d := s.here
      let w := vWidth x.ty
      .next (s.put (d.emitV 3 x.ws (d.vDest x.d) allLanes (putBits old (w * (b.toNat % count w)) w a.toNat) []))

/-- `VMULH` (R225). -/
def execVmulh (x : VArgs) (s : State) : Out :=
  elementwise 4 x (typedOp x.ty (fun _ a _ => (a, 0#10)) fun a b => a * b / 2 ^ vWidth x.ty) s

/-- `VADDS` (R225). -/
def execVadds (x : VArgs) (s : State) : Out := elementwise 2 x (fun _ a b => saturated x.ty (· + ·) a b) s

/-- `VSUBS` (R225). -/
def execVsubs (x : VArgs) (s : State) : Out := elementwise 2 x (fun _ a b => saturated x.ty (· - ·) a b) s

end Sys2Proof.Machine
end

