-- ==== Sys2Proof/Machine/Matrix.lean ====
section
/-! DEFINITION. The M slots (chapter 11): pushes, plane swaps, beats, drains, clears. -/
namespace Sys2Proof.Machine

/-- The array of an M slot, which is also its engine number (R247). -/
def Issue.unit (i : Issue) : Nat := if i.slot = .m1 then 1 else 0

/-- The shape fields of an M slot's register, read on the active copy (R249). -/
structure MShape where
  kext : Nat
  next : Nat
  pushcur : Nat
  rowcur : Nat
  rowlim : Nat
  accbase : Nat
  accinc : Nat
  afmt : Nat
  wfmt : Nat
  ofmt : Nat
  asct : Nat
  wsct : Nat
  wsaddr : Nat
  wsstr : BitVec 32
  drctl : Nat
deriving DecidableEq, Repr

def Die.mshape (d : Die) (eng r : Nat) : MShape :=
  let f (i : Nat) : Nat := (d.shape eng r i).toNat
  ⟨f 0, f 1, f 2, f 3, f 4, f 6, f 7, f 8, f 9, f 10, f 11, f 12, f 13, d.shape eng r 14, f 15⟩

/-- The modes of R248. -/
inductive MMode where
  | fp8 | int8 | bf16 | e2m1
deriving DecidableEq, Repr

/-- The mode that a record selects, with its extents in range (R248, R250). -/
def MShape.mode (x : MShape) : Option MMode :=
  let n512 := 1 ≤ x.next && x.next ≤ 512
  let k512 := 1 ≤ x.kext && x.kext ≤ 512
  if (x.afmt = 3 ∨ x.afmt = 4) ∧ (x.wfmt = 3 ∨ x.wfmt = 4) then if n512 && k512 then some .fp8 else none
  else if x.afmt = 10 ∧ x.wfmt = 10 then if n512 && k512 then some .int8 else none
  else if x.afmt = 1 ∧ x.wfmt = 1 then
    if 1 ≤ x.next && x.next ≤ 256 && k512 then some .bf16 else none
  else if x.afmt = 5 ∧ x.wfmt = 5 then
    if n512 && 32 ≤ x.kext && x.kext ≤ 1024 && x.kext % 32 == 0 then some .e2m1 else none
  else none

/-- A scale tensor that the record may name (R250). -/
def Die.scaleTensorOk (d : Die) (m : MMode) (id : Nat) : Bool :=
  if id = 0x100 then true
  else if m = .bf16 ∨ 0xFF < id then false
  else
    let t := d.tensorRead id
    let n := if m = .e2m1 then 2 else 1
    t.ok && t.loc == 1 && t.rank == 2 && t.fmt == (if m = .e2m1 then 13 else 6) && t.str 0 == n

/-- Plane rows of a tile (R248). -/
def MShape.planeRows (x : MShape) (m : MMode) : Nat := if m = .e2m1 then x.kext / 2 else x.kext

/-- A scale record that R254 reads: element (`i`, `j`) of an entry, 0x807F where the index is outside the
entry's extents; the offset that sets `STATUS.OOB`. [DEDUCED, log 27] -/
def Die.scaleRecord (d : Die) (m : MMode) (t : Tensor) (i j : Nat) : Nat × Option Int :=
  let a := t.addr [i, j]
  if t.ext 0 ≤ i ∨ t.ext 1 ≤ j then (0x807F, some a)
  else
    let n := if m = .e2m1 then 2 else 1
    let v := d.spNat a n
    (if m = .e2m1 then v else 0x8000 + v, d.spOffending a n)

/-- The records of a list of elements, and the lowest offending offset. -/
def Die.scaleRecords (d : Die) (m : MMode) (id : Nat) (l : List (Nat × Nat)) : List Nat × Option Int :=
  if id = 0x100 then (l.map fun _ => 0x807F, none)
  else
    let r := l.map fun e => d.scaleRecord m (d.tensorRead id) e.1 e.2
    (r.map (·.1), (r.filterMap (·.2)).min?)

/-- Note an offending offset. -/
def Die.noteOff (d : Die) : Option Int → Die
  | none => d
  | some o => d.later (.oob o)

/-- A row of weights with the columns at or above `NEXT` zero (R253). -/
def maskRow (m : MMode) (next : Nat) (row : Nat) : BitVec 4096 :=
  BitVec.ofNat 4096 (match m with
    | .bf16 => row % 2 ^ (16 * next)
    | .e2m1 => row % 2 ^ (4 * next) + row / 2 ^ 2048 % 2 ^ (4 * next) * 2 ^ 2048
    | _ => row % 2 ^ (8 * next))

/-- The scale records a push writes with the first row of a group (R254). -/
def Die.pushScales (d : Die) (m : MMode) (x : MShape) : Option (Nat × BitVec 8192) × Option Int :=
  let per := if m = .e2m1 then 16 else 32
  if x.pushcur % per ≠ 0 then (none, none)
  else
    let g := x.pushcur / per
    let (recs, off) := d.scaleRecords m x.wsct ((List.range x.next).map fun n => (n, g))
    (some (g, BitVec.ofNat 8192 (packNat 16 (recs ++ List.replicate (512 - x.next) 0x807F))), off)

/-- Run an M operation: `ILLEGAL` in handler state (R45, R251), then its swap (R61). -/
def matrixOp (x : MArgs) (s : State) (k : Nat → MShape → State → Out) : Out :=
  guarded x.p s fun s =>
    let unit := s.here.iss.unit
    if s.here.handler then raiseIllegal s
    else
      let s1 := s.mod (·.swapIf x.sw unit x.r.toNat)
      orUndo s (k unit (s1.here.mshape unit x.r.toNat) s1)

/-- The checks of a push (R250). -/
def pushChecked (x : MShape) (s : State) (k : MMode → Out) : Out :=
  match x.mode with
  | none => raiseIllegal s
  | some m => if s.here.scaleTensorOk m x.wsct then k m else raiseIllegal s

/-- Send a row on its way to the shadow plane (R253, R254). -/
def sendRow (unit r : Nat) (m : MMode) (x : MShape) (row : Nat) (s : State) : State :=
  s.mod fun d =>
    let (sc, off) := d.pushScales m x
    let d1 := (d.noteOff off).advanceField unit r 2 (BitVec.ofNat 32 (x.pushcur + 1))
    { d1 with pipe.mdue := d1.pipe.mdue ++ [⟨d.now + 3, .push unit x.pushcur (maskRow m x.next row) sc⟩] }

/-- `MNOP` (R190, R251). -/
def execMnop (p : BitVec 5) (s : State) : Out :=
  guarded p s fun s => if s.here.handler then raiseIllegal s else .next s

/-- `MPUSH` (R253): a masked push reads nothing. -/
def execMpush (x : MArgs) (src : MSrc) (s : State) : Out :=
  matrixOp x s fun unit f s => pushChecked f s fun m =>
    if f.planeRows m ≤ f.pushcur then .next s
    else withM src s fun v s => .next (sendRow unit x.r.toNat m f v.toNat s)

/-- Weight-store bytes; at or above its size they read as zero (R111). -/
def Die.wsRead (d : Die) (a n : Nat) : List Byte :=
  (List.range n).map fun i => if a + i < Config.wsSize then Store.get 0#8 d.arr.ws (a + i) else 0#8

/-- The read of a weight-store range falls in a refresh window (R111). -/
def wsRefreshing (clk a n : Nat) : Bool :=
  refreshOpen clk (a / Config.wsBank) && a < Config.wsSize ||
    (refreshOpen clk ((a + n - 1) / Config.wsBank) && a + n - 1 < Config.wsSize)

/-- The first address at or above the weight store's size (R111). -/
def wsOffending (a n : Nat) : Option Int :=
  if Config.wsSize < a + n then some (max a Config.wsSize : Nat) else none

/-- `MPUSHW` (R253): it freezes while a bank it reads refreshes (R111). Where it overruns both the weight store
and its scale tensor, `OOBADDR` takes the weight-store address. [DEDUCED, log 41] -/
def execMpushw (x : MArgs) (s : State) : Out :=
  matrixOp x s fun unit f s => pushChecked f s fun m =>
    if f.wsaddr % 64 ≠ 0 then raiseAlign s f.wsaddr
    else if f.planeRows m ≤ f.pushcur then .next s
    else if wsRefreshing s.pkg.clk f.wsaddr 512 then held s .refresh
    else
      let row := bytesNat (s.here.wsRead f.wsaddr 512)
      let s1 := s.mod fun d => (d.noteOff (wsOffending f.wsaddr 512)).advanceField unit x.r.toNat 13
        (BitVec.ofNat 32 f.wsaddr + f.wsstr)
      .next (sendRow unit x.r.toNat m f row s1)

/-- `MSWAPW` (R255). -/
def execMswapw (x : MArgs) (s : State) : Out :=
  matrixOp x s fun unit _ s => .next (s.mod fun d =>
    { d with pipe.mdue := d.pipe.mdue ++ [⟨d.now + 1, .swap unit⟩] })

/-- The active plane of a unit, as a number: its rows and records are keyed by it. -/
def Die.activePlane (d : Die) (unit : Nat) : Nat :=
  unit * 2 + (if Store.get false d.arr.planeSel unit then 1 else 0)

/-- A row of a plane. -/
def Die.planeRow (d : Die) (plane row : Nat) : BitVec 4096 := Store.get 0#4096 d.arr.plane (plane * 512 + row)

/-- The scale record of a column and a group. -/
def Die.planeScale (d : Die) (plane g n : Nat) : Nat :=
  fieldAt (Store.get 0#8192 d.arr.scale (plane * 32 + g)) (16 * n) 16

/-- A value of an 8-bit or 16-bit element by its format code. -/
def matVal (fmt v : Nat) : FVal :=
  match fmt with
  | 1 => FFmt.bf16.dec v
  | 3 => FFmt.e4m3.dec v
  | 4 => FFmt.e5m2.dec v
  | _ => .ofInt (intOf true 8 v)

/-- Activation element `k` of a source row (R248). -/
def actVal (m : MMode) (afmt : Nat) (src : Nat) (spare k : Nat) : FVal :=
  match m with
  | .bf16 => matVal 1 (bitsAt src (16 * k) 16)
  | .e2m1 => e2m1 spare (bitsAt src (4 * k) 4)
  | _ => matVal afmt (bitsAt src (8 * k) 8)

/-- Weight `k` of column `n` (R248). -/
def weightVal (d : Die) (m : MMode) (wfmt plane spare k n : Nat) : FVal :=
  match m with
  | .bf16 => matVal 1 (fieldAt (d.planeRow plane k) (16 * n) 16)
  | .e2m1 => e2m1 spare (fieldAt (d.planeRow plane (k / 2)) (2048 * (k % 2) + 4 * n) 4)
  | _ => matVal wfmt (fieldAt (d.planeRow plane k) (8 * n) 8)

/-- One product: integer products have no signed zero (R94, R257). -/
def matProduct (m : MMode) (a w : FVal) : FVal × BitVec 10 :=
  match m, a, w with
  | .int8, .fin s x _, .fin t y _ => (.ofInt (signed s x * signed t y), 0#10)
  | _, _, _ => a.mul w

/-- The exact sum of a group's products (R94, R96): a NaN product makes it NaN. -/
def exactSum (l : List (FVal × BitVec 10)) : FVal × BitVec 10 :=
  let fl := orFlags (l.map (·.2))
  if l.any fun p => p.1.isNan then (.nan, fl)
  else match l with
    | [] => (.fin false 0 0, 0#10)
    | p :: rest => rest.foldl (fun acc q =>
        let (v, g) := acc.1.add 0 q.1
        (v, acc.2 ||| g)) (p.1, fl)

/-- A group's rounded sum, scaled (R94). -/
def groupSum (d : Die) (x : MShape) (m : MMode) (plane src : Nat) (act : List Nat) (n g : Nat) : Flagged :=
  let wrec := d.planeScale plane g n
  let arec := act.getD g 0x807F
  let prods := (List.range (min 32 (x.kext - 32 * g))).map fun i =>
    matProduct m (actVal m x.afmt src (arec / 256) (32 * g + i))
      (weightVal d m x.wfmt plane (wrec / 256) (32 * g + i) n)
  let (gs, f) := exactSum prods
  let (y, h) := FFmt.f32.round .fixed ((gs.mul (e8m0 (arec % 256))).1.mul (e8m0 (wrec % 256))).1
  (y, f ||| h)

/-- The total of a column: groups in order (R94). -/
def groupTotal (d : Die) (x : MShape) (m : MMode) (plane src : Nat) (act : List Nat) (n : Nat) : Flagged :=
  match (List.range ((x.kext + 31) / 32)).map (groupSum d x m plane src act n) with
  | [] => (0, 0#10)
  | first :: rest => rest.foldl (fun acc g =>
      let (y, f) := addStep acc.1 g.1
      (y, acc.2 ||| g.2 ||| f)) first

/-- The total of a column in BF16 mode: every step rounds once (R95, R96). -/
def sequentialTotal (d : Die) (x : MShape) (plane src n : Nat) : Flagged :=
  let prods := (List.range x.kext).map fun k =>
    (actVal .bf16 1 src 0 k).mul (weightVal d .bf16 1 plane 0 k n)
  match prods with
  | [] => (0, 0#10)
  | (v, f) :: rest =>
    let first := FFmt.f32.round .fixed v
    rest.foldl (fun acc p =>
      let (t, g) := (f32v acc.1).add 0 p.1
      let (y, h) := FFmt.f32.round .fixed t
      (y, acc.2 ||| p.2 ||| g ||| h)) (first.1, f ||| first.2)

/-- The totals of a beat (R257). [DEDUCED, log 27] -/
def beatTotals (d : Die) (x : MShape) (m : MMode) (plane src : Nat) (act : List Nat) : List Flagged :=
  (List.range x.next).map fun n =>
    if m = .bf16 then sequentialTotal d x plane src n else groupTotal d x m plane src act n

/-- The accumulator row of R256. -/
def MShape.accRow (x : MShape) (field : Nat) : Nat := (x.accbase + field + x.rowcur * x.accinc) % 2048

/-- Flags by column, kept where they are not zero. -/
def flagStore (l : List (BitVec 10)) : Store (BitVec 10) :=
  (l.zipIdx.filter fun e => e.1 != 0#10).map fun e => (e.2, e.1)

/-- A masked beat (R256): only the port it names pops. -/
def maskedBeat (src : MSrc) (s : State) : Out :=
  match src with
  | .port j => withPort j s fun _ s => .next s
  | _ => .next s

/-- A beat (R256, R257). -/
def beat (x : MArgs) (src : MSrc) (acc : Bool) (s : State) : Out :=
  matrixOp x s fun unit f s =>
    match f.mode with
    | none => raiseIllegal s
    | some m =>
      if ¬ s.here.scaleTensorOk m f.asct then raiseIllegal s
      else if f.rowlim ≤ f.rowcur then maskedBeat src s
      else withM src s fun v s =>
        let d := s.here
        let groups := (f.kext + 31) / 32
        let (act, off) := d.scaleRecords m f.asct ((List.range groups).map fun g => (g, f.rowcur))
        let tot := beatTotals d f m (d.activePlane unit) v.toNat act
        let w : MWork := .beat unit (f.accRow x.row.toNat) f.next acc (pack 32 (tot.map (·.1)))
          (flagStore (tot.map (·.2))) d.now d.ctl.pc d.iss.slot.num
        let d1 := (d.noteOff off).advanceField unit x.r.toNat 3 (BitVec.ofNat 32 (f.rowcur + 1))
        .next (s.put { d1 with pipe.mdue := d1.pipe.mdue ++ [⟨d.now + Config.beatLatency, w⟩] })

/-- `MMUL` (R257). -/
def execMmul (x : MArgs) (src : MSrc) (s : State) : Out := beat x src false s

/-- `MACC` (R257). -/
def execMacc (x : MArgs) (src : MSrc) (s : State) : Out := beat x src true s

/-- The output width and conversion of `MDRAIN` (R250, R258). -/
def drainConv (ofmt : Nat) : Option (Nat × (Nat → Flagged)) :=
  let conv (f : FFmt) : Nat × (Nat → Flagged) := (f.width, fun v => f.round .fixed (f32v v))
  match ofmt with
  | 0 => some (32, fun v => (v, 0#10))
  | 1 => some (conv .bf16)
  | 2 => some (conv .f16)
  | 3 => some (conv .e4m3)
  | 4 => some (conv .e5m2)
  | 8 => some (32, fun v => let (i, f) := (f32v v).toInt 0 true 32; (patOf 32 i, f))
  | _ => none

/-- A drain's port is neither IDLE nor DRAINED, whether or not the drain is masked (R258). -/
def drainPortOk (d : Die) : MDst → Bool
  | .reg _ => true
  | .port y => (Store.get none d.tab.outp y.toNat).any fun p => p.armed && !p.drained

/-- `MDRAIN` (R258, R260). -/
def execMdrain (x : MArgs) (dst : MDst) (s : State) : Out :=
  matrixOp x s fun unit f s =>
    match drainConv f.ofmt with
    | none => raiseIllegal s
    | some (w, conv) =>
      if 2 ≤ f.drctl ∨ ¬ drainPortOk s.here dst then raiseIllegal s
      else if f.rowlim ≤ f.rowcur then .next s
      else
        let row := f.accRow x.row.toNat
        let r := (elems 32 (Store.get 0#16384 s.here.arr.acc (unit * 2048 + row))).map conv
        let v := pack w (r.map (·.1))
        let flags := r.map (·.2)
        let send (dest : Dest) (s : State) : Out :=
          .next (s.mod fun d =>
            let d1 := (d.emitV 8 false dest allLanes v []).advanceField unit x.r.toNat 3
              (BitVec.ofNat 32 (f.rowcur + 1))
            let d2 := if orFlags flags = 0#10 then d1 else
              (d.records flags).foldl Die.pushStat (d1.later (.status (orFlags flags)))
            if f.drctl = 1 then { d2 with pipe.mdue := d2.pipe.mdue ++ [⟨d.now + 1, .clear unit row⟩] } else d2)
        match dst with
        | .reg q => send (s.here.vDest q) s
        | .port y => sendOut y.toNat 8 v s (send .none)

/-- `MCLR` (R256, R259). -/
def execMclr (x : MArgs) (s : State) : Out :=
  matrixOp x s fun unit f s =>
    if f.rowlim ≤ f.rowcur then .next s
    else .next (s.mod fun d =>
      let d1 := d.advanceField unit x.r.toNat 3 (BitVec.ofNat 32 (f.rowcur + 1))
      { d1 with pipe.mdue := d1.pipe.mdue ++ [⟨d.now + 1, .clear unit (f.accRow x.row.toNat)⟩] })

/-! The matrix events of step 1 (R252). -/

/-- A push lands (R253, R254): in the plane that is then the shadow plane. -/
def Die.landPush (d : Die) (w : MWork) : Die :=
  match w with
  | .push unit row bytes sc =>
    let plane := unit * 2 + (if Store.get false d.arr.planeSel unit then 0 else 1)
    let planes := Store.set 0#4096 d.arr.plane (plane * 512 + row) bytes
    let scales := match sc with
      | none => d.arr.scale
      | some (g, b) => Store.set 0#8192 d.arr.scale (plane * 32 + g) b
    { d with arr.plane := planes, arr.scale := scales }
  | _ => d

/-- The planes exchange (R255). -/
def Die.swapPlanes (d : Die) (w : MWork) : Die :=
  match w with
  | .swap unit =>
    { d with arr.planeSel := Store.set false d.arr.planeSel unit (!Store.get false d.arr.planeSel unit) }
  | _ => d

/-- An accumulator row becomes +0 (R258, R259). -/
def Die.clearRow (d : Die) (w : MWork) : Die :=
  match w with
  | .clear unit row => { d with arr.acc := Store.set 0#16384 d.arr.acc (unit * 2048 + row) 0#16384 }
  | _ => d

/-- The records of a beat: `FIRST` the row, `COUNT` the columns with the event (R260). -/
def beatRecords (row issue pc slot : Nat) (fl : List (BitVec 10)) : List (BitVec 128) :=
  if orFlags fl = 0#10 then []
  else ([1, 2, 3, 4, 5, 6]).filterMap fun ev =>
    (firstCount (eventBit ev) fl).map fun x =>
      BitVec.ofNat 128 (issue % 2 ^ 64 * 2 ^ 64 + row % 65536 * 2 ^ 48 + min x.2 65535 * 2 ^ 32 +
        slot * 2 ^ 24 + ev * 2 ^ 16 + pc % 2 ^ 15)

/-- A beat's update (R257, R260). -/
def Die.updateRow (d : Die) (w : MWork) : Die :=
  match w with
  | .beat unit row next acc total flags issue pc slot =>
    let old := elems 32 (Store.get 0#16384 d.arr.acc (unit * 2048 + row))
    let new := ((old.zip (elems 32 total)).zipIdx).map fun e =>
      let f := Store.get 0#10 flags e.2
      if e.2 < next then
        if acc then let (y, g) := addStep e.1.1 e.1.2; (y, f ||| g) else (e.1.2, f)
      else (if acc then e.1.1 else 0, 0#10)
    let fl := new.map (·.2)
    let d1 := { d.setStatus (orFlags fl) with
      arr.acc := Store.set 0#16384 d.arr.acc (unit * 2048 + row) (pack 32 (new.map (·.1))) }
    (beatRecords row issue pc slot fl).foldl Die.pushStat d1
  | _ => d

/-- The matrix events due in a cycle, in the order of R252. -/
def Die.landMatrix (d : Die) : Die :=
  let due := (d.pipe.mdue.filter fun x => x.land == d.now).map (·.work)
  let d0 := { d with pipe.mdue := d.pipe.mdue.filter fun x => x.land != d.now }
  let d1 := due.foldl Die.landPush d0
  let d2 := due.foldl Die.swapPlanes d1
  let d3 := due.foldl Die.clearRow d2
  due.foldl Die.updateRow d3

end Sys2Proof.Machine
end

