-- ==== Sys2Proof/Machine/Transform.lean ====
section
/-! DEFINITION. The T slot (chapter 10): `TEXP`, the quantiser, `TCVT`, the transposer (R239-R246). -/
namespace Sys2Proof.Machine

/-- Run a T operation: `ILLEGAL` in handler state (R239), then its swap (R61). -/
def transformOp (x : TArgs) (s : State) (k : State → Out) : Out :=
  guarded x.p s fun s =>
    if s.here.handler then raiseIllegal s
    else orUndo s (k (s.mod (·.swapIf x.sw 2 x.r.toNat)))

/-- A field of the active copy of the named `ta` register. -/
def taField (x : TArgs) (s : State) (f : Nat) : Nat := (s.here.shape 2 x.r.toNat f).toNat

/-- `TNOP` (R190). -/
def execTnop (p : BitVec 5) (s : State) : Out :=
  guarded p s fun s => if s.here.handler then raiseIllegal s else .next s

/-- One lane of `TEXP` (R241). -/
def texpLane (ofmt v : Nat) : Flagged :=
  let (y, f) := fexp2 (f32v v)
  match ofmt with
  | 1 => let (z, g) := FFmt.bf16.round .fixed (f32v y); (z, f ||| g)
  | 2 => let (z, g) := FFmt.f16.round .fixed (f32v y); (z, f ||| g)
  | _ => (y, f)

/-- `TEXP` (R241). -/
def execTexp (x : TArgs) (s : State) : Out :=
  transformOp x s fun s =>
    let ofmt := taField x s 1
    if taField x s 0 ≠ 0 ∨ 3 ≤ ofmt then raiseIllegal s
    else
      let d := s.here
      .next (s.put (d.emitElems 4 false (d.vDest x.d) allLanes 32
        ((elems 32 (d.readV x.s)).map (texpLane ofmt))))

/-- A scale tensor that `TQNT` may name (R242). -/
def Die.quantTensorOk (d : Die) (id : Nat) : Bool :=
  id == 0x100 || (id ≤ 0xFF && (d.tensorRead id).ok && (d.tensorRead id).loc == 1 &&
    (d.tensorRead id).fmt == 13 && (d.tensorRead id).rank == 1)

/-- The bytes of a block's codes, nibble order of R82. -/
def nibbleBytes : List Nat → Nat
  | [] => 0
  | c :: rest => c % 16 + 16 * nibbleBytes rest

/-- The blocks of `TQNT` (R243): codes as 16 bytes, the record, the flags of its 32 lanes. -/
def quantBlocks (np : Nat) (lanes : List Nat) : List (Nat × Option Nat × List (BitVec 10)) :=
  (List.range 16).map fun j =>
    if j < np then
      let (codes, sc, sp, fl) := quantBlock (((lanes.drop (32 * j)).take 32).map f32v)
      (nibbleBytes codes, some (sc + sp * 256), fl)
    else (0, none, List.replicate 32 0#10)

/-- `TQNT` (R242, R243). -/
def execTqnt (x : TArgs) (s : State) : Out :=
  transformOp x s fun s =>
    let f := taField x s
    let d := s.here
    let id := f 3
    if f 0 ≠ 0 ∨ f 1 ≠ 5 ∨ f 2 ≠ 32 ∨ ¬ d.quantTensorOk id then raiseIllegal s
    else
      let np := min 16 (f 4)
      let blocks := quantBlocks np (elems 32 (d.readV x.s))
      let g := x.fmt.toNat % 8
      let codes := (blocks.zipIdx.foldl (fun v b => v + b.1.1 * 2 ^ (128 * b.2)) 0)
      let value := putBits (d.readV x.d) (2048 * g) 2048 codes
      let t := d.tensorRead id
      let record (b : (Nat × Option Nat × List (BitVec 10)) × Nat) : Option ScaleDue :=
        b.1.2.1.map fun r =>
          let idx := f 6 + b.2 * f 7
          ⟨d.now, d.now + 7, t.addr [idx], natBytes 2 r, idx < t.ext 0⟩
      let recs := if id = 0x100 then [] else blocks.zipIdx.filterMap record
      let d1 := d.emitV 7 false (d.vDest x.d) allLanes value (blocks.flatMap (·.2.2))
      let d2 := (d1.advanceField 2 x.r.toNat 4 (BitVec.ofNat 32 (f 4 - np))).advanceField 2 x.r.toNat 6
        (BitVec.ofNat 32 (f 6 + np * f 7))
      .next (s.put { d2 with pipe.scales := d2.pipe.scales ++ recs })

/-- `TCVT` (R240). -/
def execTcvt (x : TArgs) (s : State) : Out :=
  transformOp x s fun s =>
    let d := s.here
    .next (s.put (d.emitElems 3 false (d.vDest x.d) allLanes 32
      (convertLanes (x.fmt.toNat % 32) d.rule (d.readV x.s))))

/-- Element width of a transposer width code (R244). -/
def transWidth (wid : Nat) : Nat := match wid with | 0 => 32 | 1 => 16 | _ => 8

/-- A block that is complete enters the pipe (R245). -/
def Transposer.enter (t : Transposer) (now wid : Nat) (block : BitVec 32768) : Transposer :=
  { t with part := none, pipe := t.pipe ++ [(now + Config.transposeLatency, wid, block)] }

/-- `TTRNI` (R245): a 32-bit block takes two, every other width one. -/
def execTtrni (x : TArgs) (s : State) : Out :=
  transformOp x s fun s =>
    let d := s.here
    let t := d.arr.trans
    let wid := x.fmt.toNat % 4
    let v := d.readV x.s
    let put (t : Transposer) : Out := .next (s.put { d with arr.trans := t })
    if wid = 0 then
      match t.part with
      | none => put { t with part := some v }
      | some lo => put (t.enter d.now 0 (lo.setWidth 32768 ||| (v.setWidth 32768 <<< 16384)))
    else if t.part.isSome then raiseIllegal s
    else
      let half := if x.fmt.getLsbD 2 then v >>> 8192 else v
      put (t.enter d.now wid (if wid = 2 then (half.setWidth 8192).setWidth 32768 else v.setWidth 32768))

/-- The transpose of a block of 32 rows of 32 elements (R246). -/
def transposed (w : Nat) (b : BitVec 32768) : Nat :=
  packNat w ((List.range 1024).map fun e => b.toNat / 2 ^ (w * (32 * (e % 32) + e / 32)) % 2 ^ w)

/-- `TTRNO` (R246): the empty output block matches every width and reads as zeros (R244). [DEDUCED, log 28] -/
def execTtrno (x : TArgs) (s : State) : Out :=
  transformOp x s fun s =>
    let d := s.here
    let wid := x.fmt.toNat % 4
    let (have_, block) := d.arr.trans.out.getD (wid, 0#32768)
    if have_ ≠ wid then raiseIllegal s
    else
      let r := transposed (transWidth wid) block
      let old := d.readV x.d
      let v : Vec :=
        if wid = 0 then BitVec.ofNat 16384 (if d.arr.trans.half then r / 2 ^ 16384 else r)
        else if wid = 1 then BitVec.ofNat 16384 r
        else putBits old (if x.fmt.getLsbD 2 then 8192 else 0) 8192 r
      let d1 := d.emitV 1 false (d.vDest x.d) allLanes v []
      .next (s.put (if wid = 0 then { d1 with arr.trans.half := !d1.arr.trans.half } else d1))

/-! The transform events of step 1. -/

/-- A block becomes the output block (R245). -/
def Die.landTransposer (d : Die) : Die :=
  let t := d.arr.trans
  let due := t.pipe.filter fun b => b.1 == d.now
  let rest := t.pipe.filter fun b => b.1 != d.now
  match due.getLast? with
  | none => d
  | some b => { d with arr.trans := { t with pipe := rest, out := some b.2, half := false } }

/-- Scale records land (R243): one outside the entry or the partition is dropped and sets `STATUS.OOB`.
[DEDUCED, log 27] -/
def Die.landScale (d : Die) (x : ScaleDue) : Die :=
  let keep := x.keep && d.spInside x.addr 1
  let bad : Option Int := if keep then d.spOffending x.addr x.bytes.length else some x.addr
  let d1 := if keep then d.spWrite x.addr x.bytes else d
  match bad with
  | none => d1
  | some o => d1.oobNow o

/-- The scale records due in a cycle. -/
def Die.landScales (d : Die) : Die :=
  let due := d.pipe.scales.filter fun x => x.land == d.now
  due.foldl Die.landScale { d with pipe.scales := d.pipe.scales.filter fun x => x.land != d.now }

end Sys2Proof.Machine
end

