-- ==== Sys2Proof/Machine/Ports.lean ====
section
/-! DEFINITION. The read ports of the register files and the access ports of the scratchpad banks
(R56, R107): what each slot reads, and the cycles a bundle loses to the excess. -/
namespace Sys2Proof.Machine

/-- The register a scalar operand reads. -/
def Die.srcRead (d : Die) : SSrc → List Dest
  | .reg r => [d.sDest r]
  | _ => []

/-- The register a vector operand reads. -/
def Die.vsrcRead (d : Die) : VSrc → List Dest
  | .reg r => [d.vDest r]
  | _ => []

/-- The register an M source reads. -/
def Die.msrcRead (d : Die) : MSrc → List Dest
  | .reg r => [d.vDest r]
  | _ => []

/-- Two scalar operands. -/
def Die.twoReads (d : Die) (x : SArgs) : List Dest := d.srcRead x.a ++ d.srcRead x.b

/-- Two vector operands. -/
def Die.vecReads (d : Die) (x : VArgs) : List Dest := d.vsrcRead x.a ++ d.vsrcRead x.b

/-- The registers of an engine operation (R276) and of a lock operation (R326). -/
def Die.engReads (d : Die) (x : LEng) : List Dest := [d.sDest x.a, d.sDest x.b, d.sDest x.s]
def Die.lockReads (d : Die) (x : LLock) : List Dest := [d.sDest x.a, d.sDest x.s]

/-- The registers a strong access reads (R269); `RED` with `ARV` also the one after its operand (R271). -/
def Die.strongReads (d : Die) (x : LStrong) : List Dest := [d.sDest x.d, d.sDest x.addr]

/-- The registers each instruction reads, whatever its predicate (R56). -/
def Die.regReads (d : Die) (i : Instr) : List Dest :=
  match i with
  | .add x | .sub x | .and x | .or x | .xor x | .andn x | .shl x | .shr x | .sra x | .rotr x | .mul x
  | .mulh x | .mulhz x | .div x | .divz x | .rem x | .remz x | .min x | .max x | .minz x | .maxz x
  | .sel x | .ext x | .fadd x | .fsub x | .fmul x | .fmin x | .fmax x => d.twoReads x
  | .ins x => d.sDest x.d :: d.twoReads x
  | .cmp x | .fcmp x => d.srcRead x.a ++ d.srcRead x.b
  | .movh x => [d.sDest x.d]
  | .popc x | .clz x | .ctz x | .brev x | .gray x | .igray x | .partner x | .krd x => d.srcRead x.a
  | .fcvt x => d.srcRead x.a
  | .swr _ r _ => [d.sDest r]
  | .shw _ _ _ a _ => d.srcRead a
  | .tidr _ _ _ a _ => d.srcRead a
  | .tidw _ _ a b => d.srcRead a ++ d.srcRead b
  | .agw _ _ a _ => d.srcRead a
  | .flgs x | .flgc x | .ctxsv x | .ctxrs x | .lkmw x => d.srcRead x.a
  | .kwrDiestateFence x | .kwrDiestateReset x | .kwrDiestateAdmit x | .kwrTqctl x | .kwrArrctr x
  | .kwrBarctl x | .tlbinv x | .rtbw x => d.srcRead x.a ++ d.srcRead x.b
  | .jmp _ r | .loop _ r _ _ | .bloop _ r _ | .wait _ r _ | .mwait _ r => [d.sDest r]
  | .ret _ => [d.sDest 1#6]
  | .ld x | .ldro x => [d.sDest x.b]
  | .st x => [d.sDest x.b, d.sDest x.d]
  | .ldsp x => [d.sDest x.b]
  | .stsp x => [d.sDest x.b, d.sDest x.d]
  | .vld x => [d.sDest x.b]
  | .vst x => [d.sDest x.b, d.vDest x.d]
  | .vldx x | .vstx x => [d.sDest x.b, d.vDest x.x, d.vDest x.d]
  | .atom x | .heapins x => d.strongReads x
  | .cas x => d.sDest x.n :: d.strongReads x
  | .red x => (if x.arv then [d.sDest (x.d + 1#6)] else []) ++ d.strongReads x
  | .mon _ b | .copy _ b => [d.sDest b]
  | .take x | .enqt x | .enqtClose x | .arrive x | .arriveSet x | .barinit x | .bararv x | .enql x =>
    d.engReads x
  | .lktxn x | .lkacq x | .lkup x | .lkdn x | .lkrel x | .lkrelAll x | .lkabt x | .lkqry x => d.lockReads x
  | .vadd x | .vsub x | .vmul x | .vmin x | .vmax x | .vand x | .vor x | .vxor x | .vshl x | .vshr x
  | .vsra x | .vsel x | .viota x | .vperm x | .vrotl x | .vpack x | .vmulh x | .vadds x | .vsubs x =>
    d.vecReads x
  | .vfma x | .vfms x => d.vDest x.d :: d.vecReads x
  | .vcmp x => d.vsrcRead x.a ++ d.vsrcRead x.b
  | .vabs x | .vneg x | .vmov x | .vexp2 x | .vlog2 x | .vrcp x | .vrsq x | .vrsum x | .vrmax x
  | .vrmin x | .vargmax x | .vscan x => d.vsrcRead x.a
  | .vcvt x => d.vsrcRead x.a
  | .vunpk x => d.vsrcRead x.a
  | .vbcast x => d.srcRead x.a
  | .vout x => d.vsrcRead x.a
  | .vexts x => d.vsrcRead x.a ++ d.srcRead x.b
  | .vinss x => d.vDest x.d :: (d.srcRead x.a ++ d.srcRead x.b)
  | .mpush _ a | .mmul _ a | .macc _ a => d.msrcRead a
  | .texp x | .tcvt x | .ttrni x => [d.vDest x.s]
  | .tqnt x => [d.vDest x.s, d.vDest x.d]
  | .ttrno x => if x.fmt.toNat % 4 = 2 then [d.vDest x.d] else []
  | .xring x | .xfan x | .xbar x | .xbarSwap x | .chw x => [d.sDest x.arg]
  | _ => []

/-- The scalar file's bank of a register, and the vector file's (R56). -/
def Dest.sBank : Dest → Option Nat
  | .s r => some (r % 4)
  | .kbs r => some (r % 4)
  | _ => Option.none
def Dest.vBank : Dest → Option Nat
  | .v r => some (r % 4)
  | _ => Option.none

/-- Distinct entries of a list. -/
def distinct {α : Type} [BEq α] : List α → List α
  | [] => []
  | x :: rest => if rest.contains x then distinct rest else x :: distinct rest

/-- Uses of banks above their ports, summed. -/
def excess (ports : Nat) (uses : List Nat) : Nat :=
  ((distinct uses).map fun b => uses.count b - ports).sum

/-- Freeze cycles that register reads cost a bundle (R56). -/
def Die.registerCost (d : Die) (l : List Instr) : Nat :=
  let r := distinct (l.flatMap d.regReads)
  excess 3 (r.filterMap Dest.sBank) + excess 3 (r.filterMap Dest.vBank)

/-- One access of each bank that the scale records of a list touch (R254). -/
def Die.scaleBanks (d : Die) (m : MMode) (id : Nat) (l : List (Nat × Nat)) : List Nat :=
  if id = 0x100 then []
  else
    let t := d.tensorRead id
    let n := if m = .e2m1 then 2 else 1
    distinct (l.flatMap fun e =>
      if t.ext 0 ≤ e.1 ∨ t.ext 1 ≤ e.2 then [] else d.banksOf (t.addr [e.1, e.2]) n)

/-- The shape an M slot uses. -/
def Die.usedShape (d : Die) (x : MArgs) (k : Slot) : MShape :=
  let unit := if k = .m1 then 1 else 0
  (d.swapIf x.sw unit x.r.toNat).mshape unit x.r.toNat

/-- The scale reads of a push (R254). -/
def Die.pushBanks (d : Die) (x : MArgs) (k : Slot) : List Nat :=
  let f := d.usedShape x k
  match f.mode with
  | none => []
  | some m =>
    let per := if m = .e2m1 then 16 else 32
    if f.pushcur < f.planeRows m ∧ f.pushcur % per = 0 then
      d.scaleBanks m f.wsct ((List.range f.next).map fun n => (n, f.pushcur / per))
    else []

/-- The scale reads of a beat. -/
def Die.beatBanks (d : Die) (x : MArgs) (k : Slot) : List Nat :=
  let f := d.usedShape x k
  match f.mode with
  | none => []
  | some m =>
    if f.rowcur < f.rowlim then
      d.scaleBanks m f.asct ((List.range ((f.kext + 31) / 32)).map fun g => (g, f.rowcur))
    else []

/-- The 64-byte blocks a gather or scatter touches, each on its bank (R107). -/
def Die.laneBanks (d : Die) (x : LIdx) : List Nat :=
  let inside := (d.lanes x).filter fun e => decide (0 ≤ e.2 ∧ e.2 < (d.spsize : Int))
  (distinct (inside.map fun e => e.2.toNat / 64)).map fun b => b * 64 / Config.mib

/-- The scratchpad accesses of a slot that executes, by bank (R107). -/
def Die.spUses (d : Die) (k : Slot) (i : Instr) : List Nat :=
  let use (p : BitVec 5) (l : List Nat) : List Nat := if d.executes p then l else []
  match i with
  | .ldsp x | .stsp x => use x.p (d.banksOf (d.spAddr x) (sizeBytes x.size))
  | .vld x | .vst x => use x.p (d.banksOf (d.vecAddr x) 2048)
  | .vldx x | .vstx x => use x.p (d.laneBanks x)
  | .mpush x _ | .mpushw x => use x.p (d.pushBanks x k)
  | .mmul x _ | .macc x _ => use x.p (d.beatBanks x k)
  | _ => []

/-- The scale records that land in scratchpad in this cycle (R243). -/
def Die.recordUses (d : Die) : List Nat :=
  (d.pipe.scales.filter fun x => x.land == d.now && x.keep && d.spInside x.addr 1).flatMap fun x => d.banksOf x.addr x.bytes.length

/-- Freeze cycles that scratchpad accesses cost (R107). [DEDUCED, log 14] -/
def scratchCost (uses : List Nat) : Nat := excess 2 uses

end Sys2Proof.Machine
end

