-- ==== Sys2Proof/Machine/StreamSteps.lean ====
section
/-! DEFINITION. The steps a stream takes by itself: results landing, the stream ports, fetching, freezing,
trapping outside a slot, quiet points (R26-R46, R60, R153-R156). -/
namespace Sys2Proof.Machine

/-! Step 1 of a cycle: what lands. -/

/-- A register as it stands after a result has landed over it: the governed lanes change (R55). -/
def Due.merged (x : Due) (d : Die) : Vec :=
  match x.dest with
  | .v r => merge x.lanes x.value (Store.get 0#16384 d.regs.v r)
  | .k r => ((x.value.setWidth 512 &&& x.lanes) ||| (Store.get 0#512 d.regs.k r &&& ~~~x.lanes)).setWidth 16384
  | .none =>
    if x.lanes = allLanes then x.value
    else ((x.value.setWidth 512 &&& x.lanes) ||| ~~~x.lanes).setWidth 16384
  | _ => x.value

/-- A result lands in its register and in its slot's latch, with its `STATUS` bits (R28, R48, R89). -/
def Die.landDue (d : Die) (x : Due) : Die :=
  let v := x.merged d
  let d1 := if x.drop then d else d.writeDest x.dest v
  let d2 := match x.latch with
    | none => d1
    | some q => { d1 with regs.q := Store.set 0#16384 d1.regs.q q v, regs.qv := Store.set false d1.regs.qv q true }
  x.stats.foldl Die.pushStat ((d2.observeCopies x.shows).setStatus x.status)

/-- A landing entry as a result (R29). -/
def Landing.asDue (x : Landing) : Due :=
  let w : Word := match x.reply with
    | .data w => w
    | _ => 0#64
  ⟨x.land, x.issue, x.dest, x.drop, allLanes, w.setWidth 16384, some x.latch, 0#10, [], []⟩

/-- Put a result behind those issued before it or with it. -/
def insertDue (l : List Due) (x : Due) : List Due :=
  match l with
  | [] => [x]
  | y :: rest => if x.issue < y.issue then x :: y :: rest else y :: insertDue rest x

/-- Everything due lands, earlier issued first (R27, R28). -/
def Die.landAll (d : Die) : Die :=
  let due := d.pipe.due.filter (·.land ≤ d.now)
  let got := (d.pipe.landings.filter (·.land ≤ d.now)).map Landing.asDue
  let d0 := { d with
    pipe.due := d.pipe.due.filter fun x => !(x.land ≤ d.now)
    pipe.landings := d.pipe.landings.filter fun x => !(x.land ≤ d.now) }
  ((due ++ got).foldl insertDue []).foldl Die.landDue d0

/-- Vectors land in their output ports (R60, R236). -/
def Die.landOuts (d : Die) : Die :=
  let mark (x : OutVec) : OutVec := if x.land ≤ d.now then { x with landed := true } else x
  { d with tab.outq := d.tab.outq.map mark }

/-- A group switch invalidates the latches (R49). [DEDUCED, log 15] -/
def Die.groupSwitch (d : Die) : Die := { d with regs.qv := [] }

/-- The group switch of a `BRSW` falls at the issue of its target (R49). -/
def Die.switchNow (d : Die) : Die := if d.ctl.switch then { d.groupSwitch with ctl.switch := false } else d

/-- Step 1 of R27: results, then the pipelines that a handler holds (R43). Statistics records that landing results and
beat updates make in one cycle are queued in that order (R73, R74, R260 give none). [DEDUCED, log 41] -/
def Die.stepOne (d : Die) : Die :=
  let d1 := d.landAll
  if d1.handler then d1 else d1.landMatrix.landTransposer.landScales.landOuts

/-- A landing whose data is late, or whose fault is reported, freezes the die (R30, R34); those that a snapshot holds
are due later, and their faults freeze too. -/
def Die.late (d : Die) : Bool :=
  (d.pipe.landings.any fun x => x.faulted || (x.land ≤ d.now && x.reply == .waiting)) ||
    d.ctl.snapshot.any fun x => x.landings.any (·.faulted)

/-- The first landing due that brought no data (R146, R401). -/
def Die.failedLanding (d : Die) : Option Landing :=
  d.pipe.landings.find? fun x => x.land ≤ d.now && match x.reply with
    | .race _ _ | .bad _ => true
    | _ => false

/-! The stream ports (R59, R60). -/

/-- A vector that an output port writes in this die clock cycle. -/
def Die.writeOut (d : Die) (x : OutVec) : Die :=
  let d1 := d.spWrite x.addr (natBytes 2048 x.value.toNat)
  let d2 := match d.spOffending x.addr 2048 with
    | none => d1
    | some o => d1.oobNow o
  let drain (p : OutPort) : OutPort :=
    if x.last ∧ p.arming = x.arming then { p with armed := false, drained := true } else p
  { d2 with tab.outp := Store.set none d2.tab.outp x.port ((Store.get none d2.tab.outp x.port).map drain) }

/-- The landed vectors of the output ports that a predicate picks are written. [DEDUCED, log 35] -/
def Die.writeOuts (d : Die) (pick : Nat → Bool) : Die :=
  let now := d.tab.outq.filter fun x => x.landed && pick x.port
  now.foldl Die.writeOut { d with tab.outq := d.tab.outq.filter fun x => !(x.landed && pick x.port) }

/-- The banks those writes use (R107). -/
def Die.outUses (d : Die) : List Nat :=
  (d.tab.outq.filter (·.landed)).flatMap fun x => d.banksOf x.addr 2048

/-- Bytes of the weight store from an address that may lie outside it (R111). -/
def Die.wsBytes (d : Die) (a : Int) (n : Nat) : List Byte :=
  (List.range n).map fun (i : Nat) =>
    if 0 ≤ a + i ∧ a + i < Config.wsSize then Store.get 0#8 d.arr.ws (a + i).toNat else 0#8

/-- The lowest byte of a weight-store read outside the store. -/
def wsOutside (a : Int) (n : Nat) : Option Int :=
  if a < 0 then some a else wsOffending a.toNat n

/-- A fetch of an input port may go in this die clock cycle: room ahead, and a free port on each bank or
no refresh window (R60). -/
def Die.mayFetch (d : Die) (clk : Nat) (used : List Nat) (x : InPort) : Bool :=
  let a := seqAddr x.base x.cnt x.str x.fetched
  x.armed && !x.drained && x.fetched < seqLength x.cnt && x.fetched - x.read < 4 && x.from_ ≤ clk &&
    (if x.weight then !(wsRefreshing clk a.toNat 2048) else (d.banksOf a 2048).all fun b => used.count b < 2)

/-- Fetch a vector (R60): present from the seventh die clock cycle on. -/
def Die.fetchPort (d : Die) (clk j : Nat) (x : InPort) : Die :=
  let a := seqAddr x.base x.cnt x.str x.fetched
  let bytes := if x.weight then d.wsBytes a 2048 else d.spRead a 2048
  let off := if x.weight then wsOutside a 2048 else d.spOffending a 2048
  let y := { x with fetched := x.fetched + 1
                    queue := x.queue ++ [(clk + Config.fetchLatency, BitVec.ofNat 16384 (bytesNat bytes))] }
  let d1 := { d with tab.inp := Store.set none d.tab.inp j (some y) }
  match off with
  | none => d1
  | some o => d1.oobNow o

/-- One port's turn in a die clock cycle, with the banks used so far. -/
def Die.portTurn (clk : Nat) (acc : Die × List Nat) (j : Nat) : Die × List Nat :=
  let (d, used) := acc
  match Store.get none d.tab.inp j with
  | none => acc
  | some x =>
    if d.mayFetch clk used x then
      (d.fetchPort clk j x, if x.weight then used
        else used ++ d.banksOf (seqAddr x.base x.cnt x.str x.fetched) 2048)
    else acc

/-- The fetches of a die clock cycle, the lowest-numbered port first (R60). -/
def Die.portFetches (d : Die) (clk : Nat) (used : List Nat) : Die :=
  ([0, 1, 2, 3].foldl (Die.portTurn clk) (d, used)).1

/-! Fetching (R153-R156, R344). -/

/-- What a fetch brings: a bundle, the index address after it, whether it is a literal; or the information
words of `ILLFETCH`. -/
inductive Fetched where
  | bundle (w next : Nat) (literal : Bool)
  | fault (info0 info1 : Word)
deriving DecidableEq, Repr

/-- The words of a literal, the first in the lowest bits. [DEDUCED, log 17] -/
def fetchWords (a : Nat) (s : State) : Nat → Nat × State
  | 0 => (0, s)
  | n + 1 =>
    let (w, s1) := fetchWord a s
    let (rest, s2) := fetchWords (a + 1) s1 n
    (w.toNat + 65536 * rest, s2)

/-- Index words of the bank an address lies in, and the bank's first address. -/
def Die.fetchBank (d : Die) : Nat × Nat := if d.inK then (4096, 0) else (16384, if d.ctl.bank then 16384 else 0)

/-- The fetch at the program counter (R153, R155, R156). -/
def fetch (s : State) : Fetched × State :=
  let d := s.here
  let (size, base) := d.fetchBank
  let pc := d.ctl.pc % 32768
  if pc < base ∨ base + size ≤ pc then (.fault 0#64 0#64, s)
  else
    let (w, s1) := fetchWord pc s
    let n := if d.inK then d.arr.rdictN else d.arr.dictN
    let dict := if d.inK then d.arr.rdict else d.arr.dict
    if w = 0#16 then (.bundle 0 (pc + 1) false, s1)
    else if w = 0xFFFF#16 then
      if base + size < pc + 25 then (.fault 0xFFFF#64 2#64, s1)
      else
        let (b, s2) := fetchWords (pc + 1) s1 24
        (.bundle b (pc + 25) true, s2)
    else if w.toNat ≤ n then (.bundle (Store.get 0#384 dict (w.toNat - 1)).toNat (pc + 1) false, s1)
    else (.fault (w.setWidth 64) 1#64, s1)

/-! Frozen cycles (R26, R34-R36). -/

/-- `FREEZE` when the watchdog has reached its limit (R36). -/
def State.watchdogCheck (s : State) : State :=
  if s.here.sr.freezemax.toNat ≤ s.here.ctl.watchdog then s.regionFault s.cur 2 0#16 0 else s

/-- `YIELD` when the counter of issue cycles has passed the kernel's bound (R41). -/
def State.yieldCheck (s : State) : State :=
  if s.here.ctl.run ≠ .idle ∧ s.here.ctl.bound < s.here.ctl.yieldCount then s.regionFault s.cur 3 0#16 0 else s

/-- The timeout of a monitor wait runs down with every die clock cycle (R216). -/
def Sleep.tick : Sleep → Sleep
  | .monitor n => .monitor (n - 1)
  | x => x

/-- A frozen cycle; an involuntary or fixed one counts toward the watchdog. -/
def frozenCycle (counts : Bool) (s : State) : State :=
  let s1 := s.mod fun d => { d with
    sr.frozen := d.sr.frozen + 1#64
    ctl.watchdog := if counts then d.ctl.watchdog + 1 else d.ctl.watchdog
    ctl.sleep := d.ctl.sleep.tick
    iss := d.iss.idle }
  if counts then s1.watchdogCheck else s1

/-- A frozen cycle in which the bundle at the program counter waits for a condition (R35). -/
def waitCycle (counts : Bool) (s : State) : State :=
  frozenCycle counts (s.mod fun d => { d with ctl.waited := d.ctl.waited + 1 })

/-- A cycle of a fixed freeze passes; `CONFLICT` counts it when it is a conflict cycle, the last ones (R34, R56,
R107). -/
def Die.passStall (d : Die) : Die :=
  let counts := 0 < d.ctl.clash ∧ d.ctl.stall ≤ d.ctl.clash
  { d with
    ctl.stall := d.ctl.stall - 1
    ctl.clash := if counts then d.ctl.clash - 1 else d.ctl.clash
    sr.conflict := if counts then d.sr.conflict + 1#64 else d.sr.conflict }

/-- A cycle of a fixed freeze. -/
def stallCycle (s : State) : State := frozenCycle true (s.mod Die.passStall)

/-- An empty bundle issues while the bundle at the program counter waits for a landing entry, or a handler's
work for its landing (R31, R46). -/
def emptyCycle (s : State) : State :=
  (s.mod fun d =>
    let d1 := d.drainStats.counted
    { d1 with ctl.waited := 0, iss := d1.iss.idle }).yieldCheck

/-! Traps that no slot raises (R42). -/

/-- Take a trap at the bundle at the program counter; a wait bundle's finished slots have had their
effect (R39). -/
def trapHere (t : TrapInfo) (mask : BitVec 10) (s : State) : State :=
  let s1 := applyLater s
  takeTrap (s1.setIss Issue.idle) t mask s1.here.ctl.pc

/-- A wound falls due: delivered to the user handler when `UMASK.WOUND` is set, dropped otherwise, held
pending in handler state (R44, R45, R324). [DEDUCED, log 16] -/
def deliverWound (s : State) : State :=
  match s.here.ctl.wounds with
  | [] => s
  | (txn, name) :: rest =>
    if s.here.handler then s
    else
      let s1 := s.mod fun d => { d with ctl.wounds := rest }
      if s.here.sr.umask.getLsbD 1 then trapHere ⟨2, txn, name⟩ 0#10 s1 else s1

/-- Stores refused since the last report (R147, R346). -/
def Die.refusals (d : Die) : Nat := (d.ctl.refused.map fun x => x.2.2.2).getD 0

/-- A landing that brought no data: a race takes `MMEX` and frees the entry; an error is a region fault
(R146, R401). The load's `MMEX` shows the stores refused so far (R346); they are still to be reported (R147).
[DEDUCED, log 41] -/
def failLanding (x : Landing) (s : State) : State :=
  let s1 := s.mod fun d => { d with pipe.landings := d.pipe.landings.filter (·.id != x.id) }
  match x.reply with
  | .race line agent => trapHere ⟨0x14, BitVec.ofNat 64 (line * 128),
      BitVec.ofNat 64 (agent % 256 + s.here.refusals % 2 ^ 32 * 65536)⟩ 0#10 s1
  | .bad line => s1.regionFault s1.cur 4 0#16 (line * 128)
  | _ => s1

/-! Pre-emption (R40, R378). -/

/-- The stream is quiet (R40): rows 0-15 that wait in the transposer for the rest of their block are held there and
are no result in flight. [DEDUCED, log 41] -/
def Die.quiet (d : Die) : Bool :=
  d.pipe.due.isEmpty && d.pipe.landings.isEmpty && d.pipe.mdue.isEmpty && d.pipe.scales.isEmpty &&
    d.arr.trans.pipe.isEmpty && d.tab.outq.isEmpty && d.ctl.snapshot.isNone &&
    d.tab.inp.all fun e => match e.2 with
      | none => true
      | some x => x.queue.isEmpty

/-- A wait bundle that has taken its issue cycle will be entered again in another: what it has in flight keeps its
distance from that cycle (R39, R378, R382). [DEDUCED, log 15] -/
def Die.reenter (d : Die) : Die :=
  if ¬ d.ctl.issued then d
  else
    let d1 := if d.handler then d else d.shiftHeld 1 0
    { d1 with
      pipe.due := d.pipe.due.map fun x => { x with land := x.land + 1, issue := x.issue + 1 }
      pipe.landings := d.pipe.landings.map fun x => { x with land := x.land + 1, issue := x.issue + 1 }
      ctl.issued := false, ctl.samples := [], ctl.tables := [] }

/-- Leave the stream to be saved (R378); a taken yield point is a group switch (R49). [DEDUCED, log 15] -/
def leaveStream (yields : Bool) (s : State) : State :=
  (applyLater s).mod fun d =>
    let d1 := if yields then d.groupSwitch else d
    { d1.reenter with
      ctl.run := .saving, ctl.fetched := none, ctl.stall := 0, ctl.clash := 0, ctl.paid := 0, ctl.waited := 0
      ctl.sleep := .none, ctl.releasing := false, ctl.released := false, iss := d1.iss.idle }

/-- After a yield point's bundle (R40, R41): the counter restarts; a pending pre-emption is taken when the
stream is quiet, and skipped otherwise. [DEDUCED, log 15] -/
def afterYield (s : State) : State :=
  let s1 := s.mod fun d => { d with ctl.yieldCount := 0 }
  if ¬ s1.here.ctl.preempt then s1
  else if s1.here.quiet then leaveStream true s1
  else s1.mod fun d => { d with sr.yskip := d.sr.yskip + 1#64 }

end Sys2Proof.Machine
end

