-- ==== Sys2Proof/Machine/Issue.lean ====
section
/-! DEFINITION. One die clock edge of a stream: freezes, step 1, the decode faults of a bundle in the order
of R171, the bundle's slots together (R26-R46, R107, R171, R209). -/
namespace Sys2Proof.Machine

/-- How a slot is run. -/
abbrev Runner := Instr → State → Out

/-- A slot's answer on the state the bundle found. -/
structure Probe where
  slot : Slot
  bits : Nat
  instr : Instr
  after : State

/-- The slot raised this trap. -/
def Probe.trap (p : Probe) : Option TrapInfo := p.after.here.iss.trap

/-- The slot asks for this freeze. -/
def Probe.hold (p : Probe) : Option Hold := p.after.here.iss.hold

/-- The slot executed: no trap, no freeze, and done if in a wait bundle. -/
def Probe.ran (p : Probe) : Bool := p.trap.isNone && p.hold.isNone && !p.after.here.iss.undone

/-- The issue context of a bundle. -/
def Die.issueContext (d : Die) (b : Bundle) (next first : Nat) : Issue :=
  { d.iss.idle with
    wait := b.wait
    first := first
    delay := d.ctl.transfer.isSome
    nextPc := next
    shared := decide (1 < b.slots.length)
    lBusy := b.slots.any fun x => x.1 == .l
    popped := d.ctl.popped }

/-- Turn to a slot. -/
def State.atSlot (s : State) (k : Slot) (bits : Nat) : State :=
  s.setIss fun i => { i with slot := k, bits := bits, trap := none, hold := none, undone := false }

/-- The bits of a slot of a bundle. -/
def slotBits (w : Nat) (k : Slot) : Nat := fieldOf w k.lo k.width

/-- Run every slot on the state the bundle found; the first answer that is no next state stops.
[DEDUCED, log 13] -/
def probeAll (run : Runner) (w : Nat) (s : State) : List (Slot × Instr) → Except Out (List Probe)
  | [] => .ok []
  | (k, i) :: rest =>
    match run i (s.atSlot k (slotBits w k)) with
    | .next t =>
      match probeAll run w s rest with
      | .ok l => .ok (⟨k, slotBits w k, i, t⟩ :: l)
      | .error e => .error e
    | o => .error o

/-! Conflicts between the slots of a bundle (R28, R209, R236, R359). -/

/-- The results a slot would land, by register and cycle: those of its own, or with `issue` the earlier
ones of the same cycle. -/
def landKeys (due : List Due) (land : List Landing) : List (Dest × Nat) :=
  ((due.filter fun x => x.dest != .none && !x.drop).map fun x => (x.dest, x.land)) ++
    (land.filter fun x => x.dest != .none && !x.drop).map fun x => (x.dest, x.land)

/-- Two writes of one field (R209). The predicates that `LOOP` sets at its entry (R53) are no landing: a predicate
result of the same bundle that lands there later remains. [DEDUCED, log 41] -/
def Later.clash (a b : Later) : Bool :=
  let flg (n : Nat) : Bool := n == 0x100 || n == 0x101
  match a, b with
  | .sreg n _, .sreg m _ => n == m
  | .sreg n _, .flagSet _ => flg n
  | .sreg n _, .flagClear _ => flg n
  | .flagSet _, .sreg n _ => flg n
  | .flagClear _, .sreg n _ => flg n
  | .applied n, .sreg m _ => n == m
  | .sreg n _, .applied m => n == m
  | .applied n, .flagSet _ => flg n
  | .applied n, .flagClear _ => flg n
  | .flagSet _, .applied n => flg n
  | .flagClear _, .applied n => flg n
  | .shape e r f _, .shape e' r' f' _ => e == e' && r == r' && f == f'
  | .tensor t f _, .tensor t' f' _ => t == t' && f == f'
  | .ag n f _, .ag n' f' _ => n == n' && f == f'
  | _, _ => false

/-- What a slot added. -/
structure Added where
  slot : Slot
  lands : List (Dest × Nat)
  writes : List Later
  outs : List (Nat × Nat)

/-- What a slot's run added to the state the bundle found. -/
def Probe.added (p : Probe) (d : Die) : Added :=
  let e := p.after.here
  ⟨p.slot, landKeys (e.pipe.due.drop d.pipe.due.length) (e.pipe.landings.drop d.pipe.landings.length),
    (e.pipe.next.drop d.pipe.next.length).map (·.2),
    (e.tab.outq.drop d.tab.outq.length).map fun x => (x.port, x.land)⟩

/-- What the earlier evaluations of a wait bundle added. -/
def Die.addedBefore (d : Die) : Added :=
  ⟨.x, landKeys (d.pipe.due.filter (·.issue == d.now)) (d.pipe.landings.filter (·.issue == d.now)),
    d.pipe.next.map (·.2), []⟩

/-- What a slot that raises `PRIV` or a cause of order 5 would have added: a conflict comes before those (R171,
R209). -/
def Die.intended (d : Die) (k : Slot) (i : Instr) : Added :=
  let none_ : Added := ⟨k, [], [], []⟩
  let lands (ws : Bool) (x : Dest) (n : Nat) : Added :=
    if ws || x == .none then none_ else { none_ with lands := [(x, d.now + n)] }
  match i with
  | .ld x | .ldro x => lands x.ws (d.sDest x.d) (8 * x.land.toNat)
  | .atom x | .cas x | .heapins x => lands x.ws (d.sDest x.d) (8 * d.sr.atland.toNat)
  | .krd x => lands x.ws (d.sDest x.d) (8 * d.sr.atland.toNat)
  | .ldsp x => lands x.ws (d.sDest x.d) 6
  | .vld x => lands x.ws (d.vDest x.d) 6
  | .vldx x => lands x.ws (d.vDest x.d) 6
  | .srd _ ws x _ => lands ws (d.sDest x) 2
  | .swr _ _ n => { none_ with writes := [.sreg n.toNat 0#64] }
  | .agw _ n _ f => { none_ with writes := [.ag n.toNat f.toNat 0#32] }
  | .bloop _ _ _ => { none_ with lands := [24, 25, 26, 27].map fun r => (.s r, d.now + 1) }
  | _ => none_

/-- The predicate field of the slots that `Die.intended` names. -/
def intendedBy : Instr → Option (BitVec 5)
  | .ld x | .ldro x => some x.p
  | .atom x | .cas x | .heapins x => some x.p
  | .krd x => some x.p
  | .ldsp x => some x.p
  | .vld x => some x.p
  | .vldx x => some x.p
  | .srd p _ _ _ | .swr p _ _ | .agw p _ _ _ | .bloop p _ _ => some p
  | _ => none

/-- What a slot of the bundle adds, or would add but for a later cause (R171). -/
def Probe.adds (p : Probe) (d : Die) : Option Added :=
  if p.ran then some (p.added d)
  else if p.trap.any (·.cause != 0x10) ∧ (intendedBy p.instr).any d.executes then some (d.intended p.slot p.instr)
  else none

/-- Two slots are in conflict. -/
def Added.clash (a b : Added) : Bool :=
  a.lands.any (b.lands.contains ·) || a.outs.any (b.outs.contains ·) ||
    a.writes.any fun x => b.writes.any fun y => x.clash y

/-- The slots in conflict with another (R28, R209, R238, R258). -/
def conflicts (before : Added) (l : List Added) : List Slot :=
  (l.filter fun a => a.clash before || l.any fun b => b.slot != a.slot && a.clash b).map (·.slot)

/-- A privileged S opcode. -/
def privS : Instr → Bool
  | .krd _ | .kwrDiestateFence _ | .kwrDiestateReset _ | .kwrDiestateAdmit _ | .kwrTqctl _ | .kwrArrctr _
  | .kwrBarctl _ | .tlbinv _ | .ctxsv _ | .ctxrs _ | .lkmw _ | .rtbw _ => true
  | _ => false

/-- A write of a register of the package. -/
def swrPkg : Instr → Bool
  | .swr _ _ n => sregPkg n.toNat
  | _ => false

/-- The S slots that R359 does not allow together. -/
def privPair (l : List (Slot × Instr)) : List Slot :=
  let x := l.filter fun e => privS e.2 || swrPkg e.2
  if 2 ≤ x.length ∧ x.any (privS ·.2) then x.map (·.1) else []

/-! The choice of a trap (R171). -/

/-- The bits of some slots in `TMASK`. -/
def maskOf (l : List Slot) : BitVec 10 := l.foldl (fun m k => m ||| k.bit) 0#10

/-- A trap to be taken: its information, `TMASK`, whether it reports a refused store (R147), and whether `HALT` met
it, after its steps 1-3 (R220). -/
structure Taking where
  info : TrapInfo
  mask : BitVec 10
  report : Bool
  ending : Bool
deriving DecidableEq, Repr

/-- The instruction is `HALT`. -/
def isHalt : Instr → Bool
  | .halt _ _ => true
  | _ => false

/-- Slots whose probe raised a cause. [DEDUCED, log 13] -/
def raisers (cause : Nat) (l : List Probe) : List Slot :=
  (l.filter fun p => (p.trap.map (·.cause)) == some cause).map (·.slot)

/-- A cause of order 5 (R171). -/
def orderFive (c : Nat) : Bool := c == 0x13 || c == 0x15 || c == 0x16 || c == 0x17 || c == 0x18

/-- The first cause present, after `ILLFETCH` (R171). [DEDUCED, log 13] -/
def chooseTrap (w : Nat) (brk reserved : Bool) (bad : List Slot) (l : List Probe) : Option Taking :=
  if brk then some ⟨⟨0x19, 0#64, 0#64⟩, 0#10, false, false⟩
  else
    let ill := Slot.all.filter fun k => bad.contains k || (raisers 0x10 l).contains k
    let first (ks : List Slot) : Word := match ks.head? with
      | none => 0#64
      | some k => BitVec.ofNat 64 (slotBits w k)
    let priv := raisers 0x11 l
    if reserved || !ill.isEmpty then some ⟨⟨0x10, first ill, 0#64⟩, maskOf ill, false, false⟩
    else if !priv.isEmpty then some ⟨⟨0x11, first priv, 0#64⟩, maskOf priv, false, false⟩
    else match l.findSome? fun p => p.trap.filter fun t => orderFive t.cause with
      | some t => some ⟨t, maskOf (raisers t.cause l), false, false⟩
      | none => (l.find? fun p => p.trap.isSome).bind fun p => p.trap.map fun t => ⟨t, 0#10, true, isHalt p.instr⟩

/-- Take the chosen trap from the state the bundle found. -/
def takeChosen (t : Taking) (s : State) : State :=
  let s1 := if t.report then s.mod fun d => { d with ctl.refused := none } else s
  trapHere t.info t.mask (if t.ending then s1.quitWork s1.cur else s1)

/-! The slots together. -/

/-- The order in which the slots of a bundle act: those that send to output ports as R60 gives, the C slot
last, since a transfer out of the bundle ends it. [DEDUCED, log 13] -/
def actOrder : List Slot := [.m0, .m1, .v0, .v1, .s0, .s1, .l, .t, .x, .c]

/-- What running the slots together comes to. -/
inductive Folded where
  | done (s : State) (finished : BitVec 10)
  | trap (k : Slot) (t : TrapInfo)
  | hold (h : Hold)
  | stop (o : Out)

/-- Run the slots one after another on one state (R27): every slot reads what stood before the bundle,
since results and writes take effect later. [DEDUCED, log 13] -/
def foldSlots (run : Runner) (w : Nat) (s : State) (done : BitVec 10) : List (Slot × Instr) → Folded
  | [] => .done s done
  | (k, i) :: rest =>
    match run i (s.atSlot k (slotBits w k)) with
    | .next t =>
      match t.here.iss.trap, t.here.iss.hold with
      | some x, _ => .trap k x
      | none, some h => .hold h
      | none, none => foldSlots run w t (if t.here.iss.undone then done else done ||| k.bit) rest
    | o => .stop o

/-- The instructions of some slots in the order they act. -/
def inActOrder (l : List (Slot × Instr)) : List (Slot × Instr) :=
  actOrder.flatMap fun k => l.filter fun e => e.1 == k

/-- Instructions that take a landing entry (R29, R354). [DEDUCED, log 14] -/
def takesLanding : Instr → Bool
  | .ld _ | .ldro _ | .atom _ | .cas _ | .heapins _ | .krd _ => true
  | _ => false

/-- The slots, of those that send to output ports, that find no address left once the others have sent, in the order of
R60 (R236): `ILLEGAL`, met with the other causes of its order (R171). -/
def sendFaults (run : Runner) (w : Nat) (s : State) : List (Slot × Instr) → List Slot
  | [] => []
  | (k, i) :: rest =>
    match run i (s.atSlot k (slotBits w k)) with
    | .next t => if t.here.iss.trap.isSome then k :: sendFaults run w s rest else sendFaults run w t rest
    | _ => sendFaults run w s rest

/-- The slots whose probes send to output ports. -/
def senders (d : Die) (l : List Probe) : List (Slot × Instr) :=
  (l.filter fun p => p.ran && !(p.added d).outs.isEmpty).map fun p => (p.slot, p.instr)

/-- The landing entries a bundle asks for: in a wait bundle one for every slot that may take one; otherwise those that
its slots have taken (R31, R37). [DEDUCED, log 14] -/
def landingsAsked (wait : Bool) (d : Die) (todo : List (Slot × Instr)) (probes : List Probe) : Nat :=
  if wait then (todo.filter fun x => takesLanding x.2).length
  else (probes.map fun p => p.after.here.pipe.landings.length - d.pipe.landings.length).sum

/-! One bundle. -/

/-- What a die clock edge comes to: the state, and whether the edge is used up. Taking a trap uses none: the
handler's first bundle issues at the trap's own cycle (R44, R346). -/
structure Edge where
  out : Out
  used : Bool

/-- An edge that ends in a state. -/
def Edge.to (s : State) : Edge := ⟨.next s, true⟩

/-- Step 1 of the cycle, with the accesses that the scale records landing in it make (R27, R107, R243). -/
def Die.beginCycle (d : Die) : Die :=
  let records := if d.handler then [] else d.recordUses
  let d1 := d.stepOne
  { d1 with iss.banks := d1.iss.banks ++ records }

/-- What the `SRD` slots of a wait bundle sample in its issue cycle (R38, R203). -/
def sampleAll (s : State) : List (Slot × Instr) → State
  | [] => s
  | (k, .srd _ _ _ n) :: rest =>
    let (v, s1) := s.readSreg n.toNat
    sampleAll (s1.mod fun d => { d with ctl.samples := d.ctl.samples ++ [(k.num, v, d.shownBy n.toNat v)] }) rest
  | _ :: rest => sampleAll s rest

/-- The state in which the slots of a bundle run: its context, a group switch that falls at its issue, and in the issue
cycle of a wait bundle what its `SRD` slots sample and its back edges read (R38, R49, R214). -/
def openBundle (b : Bundle) (next : Nat) (todo : List (Slot × Instr)) (s : State) : State :=
  let s1 := s.mod fun d => { d.switchNow with iss := d.issueContext b next s.pkg.nextId }
  if b.wait ∧ ¬ s.here.ctl.issued then sampleAll (s1.mod Die.sampleTables) todo else s1

/-- Freeze before a bundle issues (R34): nothing of its cycle takes place, but for what a service that needs several
cycles has begun and what the earlier steps of `HALT` have done. -/
def holdEdge (s : State) (l : List Probe) (h : Hold) : Edge :=
  let counts := h.involuntary || s.here.late || l.any fun p => (p.hold.map Hold.involuntary).getD false
  let begun := ((l.find? fun p => p.hold == some h).map (·.after)).getD s
  match h with
  | .service => .to (waitCycle true (begun.mod fun d => { d with
      ctl.switch := s.here.ctl.switch, regs.qv := s.here.regs.qv }))
  | .ending => .to (waitCycle counts (begun.mod fun d => { d with
      ctl.switch := s.here.ctl.switch, regs.qv := s.here.regs.qv, ctl.releasing := true }))
  | .release => .to (waitCycle counts (s.mod fun d => { d with ctl.releasing := true }))
  | _ => .to (waitCycle counts s)

/-- The freeze to take first when several slots ask for one: the landing buffer's empty bundles, then
involuntary causes. -/
def firstHold (l : List Probe) : Option Hold :=
  let hs := l.filterMap (·.hold)
  ([Hold.landingBuffer, .service, .ending, .release].find? hs.contains).or hs.head?

/-- The end of an ordinary bundle (R26, R40, R41). -/
def finishBundle (b : Bundle) (s : State) : State :=
  let s1 := endCycle s
  (if b.yields then afterYield s1 else s1).yieldCheck

/-- Excess accesses of an evaluation of a wait bundle lengthen its freeze (R107). -/
def Die.lengthen (d : Die) (cost : Nat) : Die :=
  { d with ctl.stall := d.ctl.stall + cost, ctl.clash := d.ctl.clash + cost }

/-- A frozen cycle of a wait bundle: voluntary, and late data is an involuntary cause beside it (R36). -/
def Die.frozenWait (d : Die) : Die :=
  { d with sr.frozen := d.sr.frozen + 1#64, ctl.watchdog := if d.late then d.ctl.watchdog + 1 else d.ctl.watchdog }

/-- An evaluation that leaves a wait bundle incomplete (R37, R41): its first takes the bundle's issue cycle, each later
one is a frozen cycle. [DEDUCED, log 14] -/
def waitOn (done : BitVec 10) (s : State) : State :=
  let iss := s.here.iss
  let s1 := s.mod fun d =>
    if d.ctl.issued then d.frozenWait
    else { (if iss.lBusy then d else d.drainStats).counted with ctl.yieldCount := 0, ctl.issued := true }
  let s2 := (applyPrompt s1).mod fun d => { d with
    ctl.waiting := some done, ctl.popped := iss.popped, ctl.sleep := d.ctl.sleep.tick, iss := d.iss.idle }
  if s2.here.late then s2.watchdogCheck else s2

/-- The evaluation that completes a wait bundle (R37, R41): one cycle more when it was frozen before. -/
def waitDone (s : State) : State :=
  let s1 := s.mod fun d => if d.ctl.issued then d.frozenWait else d
  let s2 := (endCycle s1).mod fun d => { d with ctl.yieldCount := 0 }
  if s.here.ctl.issued ∧ s1.here.late then s2.watchdogCheck else s2

/-- The end of an evaluation of a wait bundle (R37, R40, R107, R378). [DEDUCED, log 14] -/
def finishWait (b : Bundle) (done : BitVec 10) (cost : Nat) (s : State) : State :=
  let s1 := s.mod (·.lengthen cost)
  let s2 := if done = maskOf (b.slots.map (·.1)) then waitDone s1 else waitOn done s1
  if s2.here.ctl.preempt ∧ s2.here.ctl.run = .running then leaveStream b.yields s2 else s2

/-- A bundle that transfers to another level or ends the stream is a yield point too: the counter restarts, and a
pending pre-emption is skipped (R40, R41, R45). [DEDUCED, log 15] -/
def Die.leaveYield (d : Die) (b : Bundle) : Die :=
  if b.yields then { d with
    ctl.yieldCount := 0, sr.yskip := if d.ctl.preempt then d.sr.yskip + 1#64 else d.sr.yskip }
  else d

/-- The kind of edge a bundle that left the level or the die has used: `KCALL` uses none. -/
def leftEdge (b : Bundle) (before after : State) : Edge :=
  let s := after.setIss Issue.idle
  if before.here.now == after.here.now && after.here.handler then ⟨.next s, false⟩
  else if s.here.ctl.run = .idle then .to s
  else .to (s.mod (·.leaveYield b)).yieldCheck

/-- The flags whose completions a slot of a wait bundle observes when it is done (R134, R215): the one its predicate
field names, and those of the mask of `WAIT`. -/
def waitFlags (w : Nat) (d : Die) (x : Slot × Instr) : BitVec 32 :=
  let own : BitVec 32 := 1#32 <<< fieldOf (slotBits w x.1) (x.1.width - 11) 5
  match x.2 with
  | .wait _ r _ => own ||| (d.readS r).setWidth 32
  | _ => own

/-- What the slots done in an evaluation observe: those of their flags that are set. -/
def Die.observeDone (d : Die) (w : Nat) (done : BitVec 10) (todo : List (Slot × Instr)) : Die :=
  let l := todo.filter fun x => done &&& x.1.bit != 0#10
  d.observe (d.sr.flg &&& l.foldl (fun m x => m ||| waitFlags w d x) 0#32)

/-- Run the slots together and end the cycle. -/
def runSlots (run : Runner) (w : Nat) (b : Bundle) (todo : List (Slot × Instr)) (done : BitVec 10) (cost : Nat)
    (uses : List Nat) (s0 s start : State) : Edge :=
  match foldSlots run w start done (inActOrder todo) with
  | .stop o => ⟨o, true⟩
  | .trap k t => ⟨.next (takeChosen ⟨t, k.bit, false, false⟩ s), false⟩
  | .hold .landingBuffer => .to (emptyCycle s)
  | .hold h => holdEdge s0 [] h
  | .done s1 finished =>
    let s2 := s1.setIss fun i => { i with banks := uses }
    if s2.here.iss.leaves then leftEdge b s s2
    else if b.wait then .to (finishWait b finished cost (s2.mod (·.observeDone w finished todo)))
    else .to (finishBundle b s2)

/-- A wound that has fallen due is met before the bundle of its cycle, when nothing freezes that (R42, R324). -/
def Die.wounded (d : Die) : Bool := !d.ctl.wounds.isEmpty && !d.handler && d.ctl.run == .running

/-- The excess accesses of a bundle cost their cycles: those that it has been frozen for already count as conflict cycles
too, and the rest follow (R34, R35, R107). -/
def Die.payPorts (d : Die) (cost : Nat) : Die :=
  { d with
    ctl.paid := 2, ctl.stall := cost - d.ctl.waited, ctl.clash := cost - d.ctl.waited
    sr.conflict := d.sr.conflict + BitVec.ofNat 64 (min cost d.ctl.waited) }

/-- The scratchpad accesses of the slots that execute (R107). -/
def Die.slotUses (d : Die) (todo : List (Slot × Instr)) : List Nat := todo.flatMap fun x => d.spUses x.1 x.2

/-- Issue the bundle, or freeze, or trap. [DEDUCED, log 13; DEDUCED, log 14] -/
def issueBundle (run : Runner) (w next : Nat) (s0 : State) : Edge :=
  let b := decodeBundle w
  let s := s0.mod Die.beginCycle
  let d := s.here
  let done := d.ctl.waiting.getD 0#10
  let good := b.slots.filterMap fun x => match x.2 with
    | .ok i => some (x.1, i)
    | .error _ => none
  let errs := b.slots.filterMap fun x => match x.2 with
    | .ok _ => none
    | .error _ => some x.1
  let todo := good.filter fun x => done &&& x.1.bit == 0#10
  let start := openBundle b next todo s
  match probeAll run w start todo with
  | .error o => ⟨o, true⟩
  | .ok probes =>
    let bad := errs ++ privPair good ++ conflicts d.addedBefore (probes.filterMap (·.adds start.here)) ++
      sendFaults run w start (inActOrder (senders start.here probes))
    let brk := b.dbit && d.sr.kstat.getLsbD 2 && !d.ctl.dskip && d.ctl.waiting.isNone
    let taking := chooseTrap w brk b.reserved bad probes
    let asked := landingsAsked b.wait d todo probes
    let full := !d.ctl.issued && decide (0 < asked ∧ Config.landEntries < d.pipe.landings.length + asked)
    let freeze := if full then some .landingBuffer else firstHold probes
    if d.wounded ∧ (taking.isSome ∨ freeze = none ∨ freeze = some .landingBuffer) then
      ⟨.next (deliverWound s0), false⟩
    else match taking with
    | some t => ⟨.next (takeChosen t s), false⟩
    | none =>
      if freeze = some .landingBuffer then .to (emptyCycle s)
      else
        let uses := d.iss.banks ++ start.here.slotUses todo
        let cost := scratchCost uses
        let pays := ¬ b.wait ∧ d.ctl.paid < 2 ∧ 0 < cost
        let pay (d : Die) : Die := if pays then d.payPorts cost else d
        if pays ∧ d.ctl.waited < cost then .to (stallCycle (s0.mod pay))
        else match freeze with
          | some h => holdEdge (s0.mod pay) probes h
          | none => runSlots run w b todo done cost uses (s0.mod pay) (s.mod pay) (start.mod pay)

/-! One edge. -/

/-- The fixed costs of the fetched bundle that its bits decide: a literal's fetch, register ports (R35).
[DEDUCED, log 14] -/
def fixedCost (w : Nat) (literal : Bool) (d : Die) : Nat × Nat :=
  let l := (decodeBundle w).slots.filterMap fun x => match x.2 with
    | .ok i => some i
    | .error _ => none
  (if literal then 1 else 0, d.registerCost l)

/-- A stream that returns from an exception runs empty bundles until its handler's work has landed (R46, R348). -/
def returnCycle (s : State) : State :=
  let s1 := emptyCycle (s.mod Die.beginCycle)
  let d := s1.here
  if d.ctl.run = .returning ∧ d.pipe.due.isEmpty ∧ d.pipe.landings.isEmpty then
    s1.mod fun d => d.restore s1.pkg.clk d.ctl.dskip
  else s1

/-- Late data, a landing that failed, then the bundle (R27, R30). [DEDUCED, log 14] -/
def runCycle (run : Runner) (f : Option Fetched) (s : State) : Edge :=
  if s.here.late ∧ ¬ s.here.ctl.issued then .to (waitCycle true s)
  else match s.here.failedLanding with
    | some x => let t := failLanding x s; ⟨.next t, !t.here.handler⟩
    | none =>
      match f with
      | none => .to (returnCycle s)
      | some (.fault i0 i1) => ⟨.next (trapHere ⟨0x12, i0, i1⟩ 0#10 (s.mod Die.beginCycle)), false⟩
      | some (.bundle w next _) => issueBundle run w next s

/-- Fetch the bundle at the program counter unless it has been fetched, and take its fixed costs before
anything else freezes it (R35). -/
def fetchThen (run : Runner) (s : State) : Edge :=
  match s.here.ctl.fetched with
  | some (w, next, lit) => runCycle run (some (.bundle w next lit)) s
  | none =>
    match fetch s with
    | (.fault i0 i1, s1) => runCycle run (some (.fault i0 i1)) s1
    | (.bundle w next lit, s1) =>
      let (a, b) := if s.here.ctl.waiting.isSome then (0, 0) else fixedCost w lit s1.here
      let s2 := s1.mod fun d => { d with
        ctl.fetched := some (w, next, lit), ctl.paid := 1, ctl.stall := a + b, ctl.clash := b }
      if 0 < a + b then .to (stallCycle s2) else runCycle run (some (.bundle w next lit)) s2

/-- A die clock edge of a stream that is on the die, its ports' writes made. [DEDUCED, log 15] -/
def streamEdge (run : Runner) (s : State) : Edge :=
  let d := s.here
  if 0 < d.ctl.stall then .to (stallCycle s)
  else if d.ctl.run = .returning then runCycle run none s
  else if d.ctl.sleep ≠ .none ∧ d.ctl.fetched.isNone then
    if d.sleepOver then fetchThen run (s.mod fun d => { d with ctl.sleep := .none })
    else .to (frozenCycle d.late s)
  else fetchThen run s

/-- The fetches of the input ports end an edge (R60), after a cycle that was not one of handler state. -/
def endEdge (handler : Bool) (e : Edge) : Edge :=
  match e.out with
  | .next s =>
    if e.used ∧ s.here.ctl.run = .running ∧ ¬ handler then
      { e with out := .next ((s.mod fun d => d.portFetches s.pkg.clk d.iss.banks).setIss fun _ => Issue.none) }
    else { e with out := .next (s.setIss fun _ => Issue.none) }
  | _ => e

/-- A stream at a wait bundle leaves it in any state when a pre-emption is pending (R40, R378). -/
def leaveWait (e : Edge) : Edge :=
  match e.out with
  | .next s =>
    match s.here.ctl.fetched with
    | some (w, _, _) =>
      let b := decodeBundle w
      if e.used ∧ b.wait ∧ s.here.ctl.preempt ∧ s.here.ctl.run = .running then
        { e with out := .next (leaveStream b.yields s) }
      else e
    | none => e
  | _ => e

/-- A wound that is due is met now: between bundles, or in an incomplete wait bundle (R324); one that arrives before a
fetched bundle has issued waits for the end of its freeze. An incomplete wait bundle that an involuntary or fixed cause
freezes too meets it once that cause has ended: two rows of R324 apply. [DEDUCED, log 16] -/
def Die.woundNow (d : Die) : Bool :=
  d.wounded && d.ctl.stall == 0 && !d.late && (d.ctl.fetched.isNone || d.ctl.issued)

/-- The ports' writes of a die clock cycle, with the accesses they make (R60, R107). -/
def Die.openEdge (d : Die) : Die :=
  if d.handler then { d with iss := Issue.none }
  else ({ d with iss := { Issue.none with banks := d.outUses } }).writeOuts fun _ => true

/-- One die clock edge of the acting die, from the one on at which its kernel starts (R25). A wound that is due, and an
error in the die's own arrays, are met first (R42, R324, R401). -/
def tick (run : Runner) (s : State) : Edge :=
  let d := s.here
  if (d.ctl.run ≠ .running ∧ d.ctl.run ≠ .returning) ∨ s.pkg.clk < d.ctl.start then .to s
  else if d.ctl.arrayErr then .to (s.regionFault s.cur 4 0#16 0)
  else if d.woundNow then ⟨.next (deliverWound s), false⟩
  else endEdge d.handler (leaveWait (streamEdge run (s.mod Die.openEdge)))

end Sys2Proof.Machine
end

