-- ==== Sys2Proof/Machine/Slots.lean ====
section
/-! DEFINITION. The slot instructions by their meanings: what the steps of a stream that issue a bundle
run. `exec` gives every slot instruction the same meaning. -/
namespace Sys2Proof.Machine

/-- What a slot does. -/
def runSlot (i : Instr) (s : State) : Out :=
  match i with
  | .snop p => execSnop p s
  | .add x => execAdd x s
  | .sub x => execSub x s
  | .and x => execAnd x s
  | .or x => execOr x s
  | .xor x => execXor x s
  | .andn x => execAndn x s
  | .shl x => execShl x s
  | .shr x => execShr x s
  | .sra x => execSra x s
  | .rotr x => execRotr x s
  | .mul x => execMul x s
  | .mulh x => execMulh x s
  | .mulhz x => execMulhz x s
  | .div x => execDiv x s
  | .divz x => execDivz x s
  | .rem x => execRem x s
  | .remz x => execRemz x s
  | .min x => execMin x s
  | .max x => execMax x s
  | .minz x => execMinz x s
  | .maxz x => execMaxz x s
  | .cmp x => execCmp x s
  | .sel x => execSel x s
  | .movi x => execMovi x s
  | .movh x => execMovh x s
  | .popc x => execPopc x s
  | .clz x => execClz x s
  | .ctz x => execCtz x s
  | .brev x => execBrev x s
  | .gray x => execGray x s
  | .igray x => execIgray x s
  | .ext x => execExt x s
  | .ins x => execIns x s
  | .fadd x => execFadd x s
  | .fsub x => execFsub x s
  | .fmul x => execFmul x s
  | .fmin x => execFmin x s
  | .fmax x => execFmax x s
  | .fcmp x => execFcmp x s
  | .fcvt x => execFcvt x s
  | .pand x => execPand x s
  | .por x => execPor x s
  | .pxor x => execPxor x s
  | .srd p ws d n => execSrd p ws d n s
  | .swr p a1 n => execSwr p a1 n s
  | .shw p e r a f => execShw p e r a f s
  | .tidr p ws d a f => execTidr p ws d a f s
  | .tidw p f a b => execTidw p f a b s
  | .agw p n a f => execAgw p n a f s
  | .flgs x => execFlgs x s
  | .flgc x => execFlgc x s
  | .partner x => execPartner x s
  | .krd x => execKrd x s
  | .kwrDiestateFence x => execKwrDiestateFence x s
  | .kwrDiestateReset x => execKwrDiestateReset x s
  | .kwrDiestateAdmit x => execKwrDiestateAdmit x s
  | .kwrTqctl x => execKwrTqctl x s
  | .kwrArrctr x => execKwrArrctr x s
  | .kwrBarctl x => execKwrBarctl x s
  | .tlbinv x => execTlbinv x s
  | .ctxsv x => execCtxsv x s
  | .ctxrs x => execCtxrs x s
  | .lkmw x => execLkmw x s
  | .rtbw x => execRtbw x s
  | .cnop p => execCnop p s
  | .br p o => execBr p o s
  | .jmp p r => execJmp p r s
  | .call p o => execCall p o s
  | .ret p => execRet p s
  | .loop p r stages e => execLoop p r stages e s
  | .bloop p r e => execBloop p r e s
  | .wait p r all => execWait p r all s
  | .brf p f sense o => execBrf p f sense o s
  | .brsw p a => execBrsw p a s
  | .ifence p => execIfence p s
  | .trap p c => execTrap p c s
  | .tret p => execTret p s
  | .halt p st => execHalt p st s
  | .mwait p r => execMwait p r s
  | .sleept p => execSleept p s
  | .kcall p => execKcall p s
  | .brkpt p => execBrkpt p s
  | .eret p => execEret p s
  | .kstopKill p st => execKstopKill p st s
  | .kstopFault p st => execKstopFault p st s
  | .kstopDesched p st => execKstopDesched p st s
  | .lnop p => execLnop p s
  | .ld x => execLd x s
  | .st x => execSt x s
  | .ldro x => execLdro x s
  | .ldsp x => execLdsp x s
  | .stsp x => execStsp x s
  | .vld x => execVld x s
  | .vst x => execVst x s
  | .vldx x => execVldx x s
  | .vstx x => execVstx x s
  | .atom x => execAtom x s
  | .cas x => execCas x s
  | .red x => execRed x s
  | .heapins x => execHeapins x s
  | .fenceAcq x => execFenceAcq x s
  | .fenceRel x => execFenceRel x s
  | .fenceAcqrel x => execFenceAcqrel x s
  | .fenceSc x => execFenceSc x s
  | .fenceRo p => execFenceRo p s
  | .mon p b => execMon p b s
  | .monOff p b => execMonOff p b s
  | .copy p b => execCopy p b s
  | .take x => execTake x s
  | .enqt x => execEnqt x s
  | .enqtClose x => execEnqtClose x s
  | .arrive x => execArrive x s
  | .arriveSet x => execArriveSet x s
  | .barinit x => execBarinit x s
  | .bararv x => execBararv x s
  | .lktxn x => execLktxn x s
  | .lkacq x => execLkacq x s
  | .lkup x => execLkup x s
  | .lkdn x => execLkdn x s
  | .lkrel x => execLkrel x s
  | .lkrelAll x => execLkrelAll x s
  | .lkabt x => execLkabt x s
  | .lkqry x => execLkqry x s
  | .enql x => execEnql x s
  | .vnop p => execVnop p s
  | .vadd x => execVadd x s
  | .vsub x => execVsub x s
  | .vmul x => execVmul x s
  | .vfma x => execVfma x s
  | .vfms x => execVfms x s
  | .vmin x => execVmin x s
  | .vmax x => execVmax x s
  | .vabs x => execVabs x s
  | .vneg x => execVneg x s
  | .vand x => execVand x s
  | .vor x => execVor x s
  | .vxor x => execVxor x s
  | .vshl x => execVshl x s
  | .vshr x => execVshr x s
  | .vsra x => execVsra x s
  | .vcmp x => execVcmp x s
  | .vsel x => execVsel x s
  | .vmov x => execVmov x s
  | .vbcast x => execVbcast x s
  | .viota x => execViota x s
  | .vexp2 x => execVexp2 x s
  | .vlog2 x => execVlog2 x s
  | .vrcp x => execVrcp x s
  | .vrsq x => execVrsq x s
  | .vrsum x => execVrsum x s
  | .vrmax x => execVrmax x s
  | .vrmin x => execVrmin x s
  | .vargmax x => execVargmax x s
  | .vscan x => execVscan x s
  | .vperm x => execVperm x s
  | .vrotl x => execVrotl x s
  | .vcvt x => execVcvt x s
  | .vpack x => execVpack x s
  | .vunpk x => execVunpk x s
  | .vout x => execVout x s
  | .kand x => execKand x s
  | .kor x => execKor x s
  | .knot x => execKnot x s
  | .kpopc x => execKpopc x s
  | .vexts x => execVexts x s
  | .vinss x => execVinss x s
  | .vmulh x => execVmulh x s
  | .vadds x => execVadds x s
  | .vsubs x => execVsubs x s
  | .mnop p => execMnop p s
  | .mpush x src => execMpush x src s
  | .mpushw x => execMpushw x s
  | .mswapw x => execMswapw x s
  | .mmul x src => execMmul x src s
  | .macc x src => execMacc x src s
  | .mdrain x dst => execMdrain x dst s
  | .mclr x => execMclr x s
  | .tnop p => execTnop p s
  | .texp x => execTexp x s
  | .tqnt x => execTqnt x s
  | .tcvt x => execTcvt x s
  | .ttrni x => execTtrni x s
  | .ttrno x => execTtrno x s
  | .xnop p => execXnop p s
  | .xch x => execXch x s
  | .xcb x => execXcb x s
  | .xsib x => execXsib x s
  | .xring x => execXring x s
  | .xsend x => execXsend x s
  | .xrecv x => execXrecv x s
  | .xfan x => execXfan x s
  | .xbar x => execXbar x s
  | .xbarSwap x => execXbarSwap x s
  | .chw x => execChw x s
  | _ => .next s

end Sys2Proof.Machine
end

