-- ==== Sys2Proof/Machine/StreamEvents.lean ====
section
/-! DEFINITION. The stream's own steps as rows of the opcode table: each does on the acting die what the
clock edge does there, and nothing when its condition does not hold. -/
namespace Sys2Proof.Machine

/-- A kernel's stream is on the acting die. -/
def State.streaming (s : State) : Bool := s.here.ctl.run == .running || s.here.ctl.run == .returning

/-- A step that happens only under its condition. [DEDUCED, log 6] -/
def whenever (b : Bool) (s : State) (k : State → State) : Out := .next (if b then k s else s)

/-- `RESULT_LANDING` (R27, R28): step 1 of the acting die's cycle, unless late data freezes it. -/
def execResultLanding (s : State) : Out :=
  whenever (s.streaming && !s.here.late && s.here.failedLanding.isNone) s (·.mod Die.stepOne)

/-- `FREEZE_WATCHDOG_EXPIRY` (R36). -/
def execFreezeWatchdogExpiry (s : State) : Out := whenever s.streaming s State.watchdogCheck

/-- `YIELD_BOUND_EXPIRY` (R41). -/
def execYieldBoundExpiry (s : State) : Out := whenever s.streaming s State.yieldCheck

/-- The bundle at the program counter, as the next edge fetches it. -/
def State.bundleHere (s : State) : Fetched :=
  match s.here.ctl.fetched with
  | some (w, next, lit) => .bundle w next lit
  | none => (fetch s).1

/-- A clock edge of the acting die, when the bundle that it meets is of a kind. -/
def edgeWhen (f : Fetched → Bool) (s : State) : Out :=
  if s.streaming && f s.bundleHere then (tick runSlot s).out else .next s

/-- A fetched bundle has a property of its decoding. -/
def Fetched.is (f : Bundle → Bool) : Fetched → Bool
  | .bundle w _ _ => f (decodeBundle w)
  | .fault _ _ => false

/-- `WAIT_BUNDLE` (R37-R39): its issue, or a re-evaluation. -/
def execWaitBundle (s : State) : Out := edgeWhen (Fetched.is (·.wait)) s

/-- `YIELD_POINT` (R40). -/
def execYieldPoint (s : State) : Out := edgeWhen (Fetched.is (·.yields)) s

/-- `BUNDLE_BREAKPOINT` (R159). -/
def execBundleBreakpoint (s : State) : Out := edgeWhen (Fetched.is (·.dbit)) s

/-- `ILLFETCH` (R156). -/
def execIllfetch (s : State) : Out :=
  edgeWhen (fun f => match f with
    | .fault _ _ => true
    | .bundle _ _ _ => false) s

/-- `LITERAL_FETCH` (R153). -/
def execLiteralFetch (s : State) : Out :=
  edgeWhen (fun f => match f with
    | .bundle _ _ lit => lit
    | .fault _ _ => false) s

/-- `EMPTY_BUNDLE` (R153): no valid slot. -/
def execEmptyBundle (s : State) : Out := edgeWhen (Fetched.is fun b => b.slots.isEmpty && !b.reserved) s

/-- `UNASSIGNED_OPCODE` (R4, R190): a slot that does not decode, or reserved header bits. -/
def execUnassignedOpcode (s : State) : Out :=
  edgeWhen (Fetched.is fun b => b.reserved || b.slots.any fun x => match x.2 with
    | .ok _ => false
    | .error _ => true) s

/-- `TEPC_WRITE` (R347): in K. [DEDUCED, log 9] -/
def execTepcWrite (v : BitVec 64) (s : State) : Out :=
  whenever s.here.inK s (·.mod fun d => d.writeReg 0x021 v)

/-- A port's fetch of a die clock cycle (R60). -/
def execPortFetch (j : BitVec 2) (s : State) : Out :=
  whenever (s.streaming && !s.here.handler) s
    (·.mod fun d => (Die.portTurn s.pkg.clk (d, []) j.toNat).1)

/-- `PORT_VECTOR_ARRIVAL` (R60): a vector whose time has come is present from now on. -/
def execPortVectorArrival (j : BitVec 2) (s : State) : Out :=
  let here (x : InPort) : InPort :=
    { x with queue := x.queue.map fun v => if v.1 ≤ s.pkg.clk then (0, v.2) else v }
  whenever (s.streaming && !s.here.handler) s (·.mod fun d => { d with
    tab.inp := Store.set none d.tab.inp j.toNat ((Store.get none d.tab.inp j.toNat).map here) })

/-- `OUTPUT_PORT_WRITE` (R60). -/
def execOutputPortWrite (y : BitVec 1) (s : State) : Out :=
  whenever (!s.here.handler) s (·.mod fun d => d.writeOuts (· == y.toNat))

/-- `REFRESH_WINDOW` (R71): which window is open is a function of the package's die clock, so nothing is
left to change when one opens or closes. [DEDUCED, log 35] -/
def execRefreshWindow (s : State) : Out := .next s

/-- `STAT_RECORD_WRITE` (R74). -/
def execStatRecordWrite (s : State) : Out := whenever s.streaming s (·.mod Die.drainStats)

/-- The matrix work due whose kind a predicate picks, done by a function (R252). -/
def Die.landKind (d : Die) (pick : MWork → Bool) (f : Die → MWork → Die) : Die :=
  let due := (d.pipe.mdue.filter fun x => x.land == d.now && pick x.work).map (·.work)
  due.foldl f { d with pipe.mdue := d.pipe.mdue.filter fun x => !(x.land == d.now && pick x.work) }

/-- The four kinds, in the order of R252. -/
def MWork.kind : MWork → Nat
  | .push _ _ _ _ => 0
  | .swap _ => 1
  | .clear _ _ => 2
  | .beat _ _ _ _ _ _ _ _ _ => 3

/-- The matrix work due of the kinds up to one, in order. -/
def Die.landKinds (d : Die) (k : Nat) : Die :=
  let d1 := d.landKind (fun w => w.kind == 0) Die.landPush
  let d2 := if 1 ≤ k then d1.landKind (fun w => w.kind == 1) Die.swapPlanes else d1
  let d3 := if 2 ≤ k then d2.landKind (fun w => w.kind == 2) Die.clearRow else d2
  if 3 ≤ k then d3.landKind (fun w => w.kind == 3) Die.updateRow else d3

/-- A step of the matrix pipelines, which a handler holds (R43). -/
def matrixStep (k : Nat) (s : State) : Out :=
  whenever (s.streaming && !s.here.handler && !s.here.late) s (·.mod fun d => d.landKinds k)

/-- `PUSH_ROW_LAND` (R253). -/
def execPushRowLand (s : State) : Out := matrixStep 0 s

/-- `PLANE_SWAP` (R255). -/
def execPlaneSwap (s : State) : Out := matrixStep 1 s

/-- `ACC_ROW_CLEAR` (R259). -/
def execAccRowClear (s : State) : Out := matrixStep 2 s

/-- `BEAT_UPDATE` (R257). -/
def execBeatUpdate (s : State) : Out := matrixStep 3 s

/-- `TRANSPOSER_BLOCK_OUTPUT` (R245). -/
def execTransposerBlockOutput (s : State) : Out :=
  whenever (s.streaming && !s.here.handler && !s.here.late) s (·.mod Die.landTransposer)

/-- `WOUND_DELIVERY` (R324). [DEDUCED, log 16] -/
def execWoundDelivery (s : State) : Out := whenever s.here.woundNow s deliverWound

/-- `MWAIT_TIMEOUT` (R216). -/
def execMwaitTimeout (s : State) : Out :=
  whenever (s.here.ctl.sleep == .monitor 0 && s.here.ctl.fetched.isNone) s (·.mod fun d => { d with ctl.sleep := .none })

end Sys2Proof.Machine
end

