-- ==== Sys2Proof/Machine/Clock.lean ====
section
/-! DEFINITION. The die clock edge of the package, and the placing of an instruction where the acting die fetches. -/
namespace Sys2Proof.Machine

/-- The package stopped in step 1 or 2 of bring-up (R426). [DESIGN CHOICE, log 37] -/
def Pkg.stopped (p : Pkg) : Bool := p.regs.bootCode != 0#8 && p.regs.bootStep.toNat ≤ 2

/-- What a stopped package still answers: reads of `BOOTST` and of the identification registers, and a package reset
(R426). The host's writes to its own memory go on as well. [DESIGN CHOICE, log 37] -/
def Input.answered : Input → Bool
  | .step _ (.powerOn ..) => true
  | .regRead r => match r.resolve with
    | .ident _ => true
    | .priv n _ | .m n _ => n == 0x86C
    | _ => false
  | .hostWrite .. => true
  | _ => false

/-- The clock edge of the package: its clocks run on; bring-up, package time and what waits for a link go on; the launches
whose time has come start (R25, R374, R410, R417, R419, R426). [DESIGN CHOICE, log 7] -/
def State.packageEdge (s : State) : State :=
  (({ s with pkg := s.pkg.clockEdge }.bootEdge).modPkg fun p => p.timeEdge.sendWaiting).startTimed

/-- The next die has its edge; after the sixteenth, the package. [DESIGN CHOICE, log 7] -/
def State.nextDie (s : State) : State :=
  if 15 ≤ s.cur then { s with cur := 0 }.packageEdge else { s with cur := s.cur + 1 }

/-- A die that issues, at level U from index address 0, the one bundle that a number gives: the dictionary
holds it as entry 1, and index word 0 names it. -/
def Die.placed (d : Die) (bundle : Nat) : Die :=
  { d with
    ctl := { d.ctl with run := .running, start := 0, level := .user, pc := 0, bank := false, fetched := none }
    arr.ib := Store.set 0#16 d.arr.ib 0 1#16
    arr.ibOld := []
    arr.dict := Store.set 0#384 d.arr.dict 0 (BitVec.ofNat 384 bundle)
    arr.dictN := 1 }

/-- Place a bundle on socket 0 and give that die the next edge. [DESIGN CHOICE, log 4] -/
def State.place (s : State) (bundle : Nat) : State :=
  { (s.modDie 0 fun d => d.placed bundle) with cur := 0, inputs := [], pkg := s.pkg.setSock 0 .active }

end Sys2Proof.Machine
end

