-- ==== Sys2Proof/Machine/Inputs.lean ====
section
/-! DEFINITION. What arrives over the package's links: messages of other packages, served here or sent on
(R300, R303, R304, R308, R374, R376, R396, R412, R414). [DESIGN CHOICE, log 38] -/
namespace Sys2Proof.Machine

/-- The package a message is for. -/
def LinkMsg.dest : LinkMsg → Nat
  | .block k .. | .barrier k .. | .row k .. | .rowDone k .. | .copyWrite k .. | .copyDone k .. | .launch k ..
  | .ready k .. | .start k .. | .ended k .. | .refused k .. | .cancel k .. | .started k .. | .away k .. | .finished k ..
  | .gone k .. | .vote k .. | .decision k .. | .domain k .. | .command k .. | .commandDone k .. | .partCommit k ..
  | .reset k .. | .hostReg k .. | .hostReply k .. | .window k .. | .sync k .. | .delayReq k .. | .delayResp k .. => k

/-- Change the launch that a packet and the `PTIME` of its enqueue name, if it is here (R374). -/
def State.withLaunch (s : State) (packet : BitVec 1024) (time : Word) (f : Launch → State) : State :=
  match s.pkg.launches.find? fun l => l.packet == packet && l.when == time with
  | none => s
  | some l => f l

/-- The write of a remote copy has been answered (R121, R124, R393). -/
def State.copyAnswered (s : State) (op code bytes : Nat) (kill : Option (BitVec 16)) : State :=
  match s.pkg.engine op with
  | none => s
  | some e =>
    let s1 := s.modPkg (·.putEngine { e with prog := { e.prog with
      acked := e.prog.acked + 1, bytes := e.prog.bytes + bytes, code := max e.prog.code code } })
    match kill with
    | none => s1
    | some st => if e.orphan then s1 else (s1.killOf e.sock e.kern st).rearrange

/-- A write of another package's remote copy comes in, once (R124, R308). -/
def State.copyIn (s : State) (x : Inbound) : State :=
  let key := (x.sender, x.op, x.index)
  if s.pkg.copySeen.contains key then s
  else
    let (id, s1) := s.newId
    (s1.modPkg fun p => { p with copySeen := key :: p.copySeen }).serveInbound { x with id := id }

/-- An end of another package's exchange comes in. Where it is of a ring step whose number this die has completed on another
mask, both dies of the pair complete with `MISMATCH` (R302): the other learns of it from an end without a mask.
[DEDUCED, log 31] -/
def State.blockIn (s : State) (l : Launch) (toRank ch dim number : Nat) (e : RemoteEnd) : State :=
  let key := numberKey l.id (gidOf l.packet toRank % 16) e.opcode ch dim 0
  let stray := e.opcode == 4 && !e.taken && s.pkg.ringDone.any fun x => x.1 == key && x.2.1 == number && x.2.2 != e.mask
  if stray then
    let back : RemoteEnd := { e with rank := toRank, mask := 0, n := 0, bytes := [], flags := [], taken := true }
    s.modPkg fun p => { p with outbox := p.outbox ++
      [p.toPackage (gidOf l.packet e.rank / 16) (.block (gidOf l.packet e.rank / 16) l.packet l.when e.rank ch dim number back)] }
  else s.modPkg (·.addFar key number e)

/-- A copy of a launch comes in (R367, R374): the origin hears when it is refused. -/
def State.launchIn (s : State) (sender kind : Nat) (b : BitVec 1024) (time : Word) : State :=
  let own := s.pkg.regs.pkgid.toNat
  let known := s.pkg.launches.any fun l => l.packet == b && l.when == time
  if s.pkg.regs.bootStep ≠ 8#4 ∨ known then s
  else
    let (code, _, s1) := s.enqueue b (33 + sender) kind time
    if code = 0 then s1
    else s1.modPkg fun p => { p with outbox := p.outbox ++ [p.toPackage sender (.refused sender own b time code)] }

/-- Another package has reported ready (R374). -/
def Launch.readyToo (l : Launch) (sender : Nat) : Launch :=
  { l with readyFrom := if l.readyFrom.contains sender then l.readyFrom else sender :: l.readyFrom }

/-- The kernel is away from another package, or no longer (R382). -/
def Launch.awayToo (l : Launch) (sender : Nat) (is : Bool) : Launch :=
  { l with
    awayFrom := if is then sender :: l.awayFrom.filter (· != sender) else l.awayFrom.filter (· != sender)
    readyFrom := l.readyFrom.filter (· != sender) }

/-- The origin has chosen *T* (R374). -/
def State.startAt (s : State) (l : Launch) (t : Word) : State :=
  if l.stage = .ready then s.modPkg (·.putLaunch { l with stage := .timed t }) else s

/-- What another package reports of a launch's end goes to the package that completes it (R376). -/
def State.endIn (s : State) (l : Launch) (r : EndReport) : State :=
  let home := s.pkg.completer l
  if home = s.pkg.regs.pkgid.toNat then s.modPkg (·.putLaunch { l with farEnded := l.farEnded ++ [r] })
  else s.modPkg fun p => { p with outbox := p.outbox ++ [p.toPackage home (.ended home l.packet l.when r)] }

/-- Another package has refused a copy, or given it up (R367, R383): before *T* is chosen the launch completes with the code;
after it, that package has no die of it. [DEDUCED, log 24] -/
def State.refusedIn (s : State) (l : Launch) (sender code : Nat) : State :=
  if l.unstarted ∧ ¬ l.isTimed then (s.cancelLaunch l code).rearrange
  else s.endIn l ⟨sender, code, 0#16, []⟩

/-- The launch has started in another package, or never will (R367). -/
def State.startedIn (s : State) (l : Launch) (sender : Nat) : State :=
  (s.modPkg (·.putLaunch { l with startedFrom := sender :: l.startedFrom })).settleQent l.id

/-- The launch is finished: its record goes to the ring that it came from (R376). -/
def State.finishedIn (s : State) (l : Launch) (bytes : List Byte) : State :=
  let s1 := s.removeLaunch l
  match originFn l.kind with
  | none => s1
  | some fn => s1.hostRecord fn bytes

/-- The decision on a swap reaches a package (R414). -/
def State.swapDecided (s : State) (packet : BitVec 1024) (time : Word) (mask number : Nat) (commit : Bool) : State :=
  match s.pkg.votes.find? fun v => v.packet == packet && v.time == time && v.mask == mask && v.number == number with
  | none => s
  | some v => s.decideVote v commit

/-- A message for this package is served. -/
def State.serveLink (s : State) (m : LinkMsg) : State :=
  match m with
  | .block _ b t toRank ch dim number e => s.withLaunch b t fun l => s.blockIn l toRank ch dim number e
  | .barrier _ b t number e => s.withLaunch b t fun l => s.modPkg (·.addFar (numberKey l.id 0 8 0 0 e.mask) number e)
  | .row _ b t r => s.withLaunch b t fun l => s.fanIn { r with launch := l.id }
  | .rowDone _ op code copies => s.fanAnswered op code copies
  | .copyWrite _ x => s.copyIn x
  | .copyDone _ op _ code bytes kill => s.copyAnswered op code bytes kill
  | .launch _ sender kind b t => s.launchIn sender kind b t
  | .ready _ sender b t => s.withLaunch b t fun l => s.modPkg (·.putLaunch (l.readyToo sender))
  | .start _ b t at_ => s.withLaunch b t fun l => s.startAt l at_
  | .ended _ b t r => s.withLaunch b t fun l => s.endIn l r
  | .refused _ sender b t code => s.withLaunch b t fun l => s.refusedIn l sender code
  | .cancel _ b t _ => s.withLaunch b t fun l => (s.removeLaunch l).rearrange
  | .started _ sender b t => s.withLaunch b t fun l => s.startedIn l sender
  | .away _ sender b t is => s.withLaunch b t fun l => s.modPkg (·.putLaunch (l.awayToo sender is))
  | .finished _ b t bytes => s.withLaunch b t fun l => s.finishedIn l bytes
  | .gone _ b t gid code => s.withLaunch b t fun l => s.modPkg (·.putLaunch { l with gone := l.gone ++ [(gid, code)] })
  | .vote _ sender b t mask number yes =>
      s.modPkg fun p => { p with farVotes := p.farVotes ++ [⟨b, t, mask, number, sender, yes⟩] }
  | .decision _ b t mask number commit => s.swapDecided b t mask number commit
  | .domain _ part f => ((s.faultPeers part f none).cancelDoomed).rearrange
  | .command _ sender bits => s.serveCommand sender bits
  | .commandDone _ sender op bits =>
      if op = 3 ∨ op = 4 then s.partAnswered sender op (fieldAt bits 0 16) (fieldAt bits 16 16)
      else s.mgmtDone (fieldAt bits 0 16) (fieldAt bits 16 16) (fieldAt bits 32 32)
  | .partCommit _ sender c commit =>
      let s1 := s.modPkg (·.partEnact c commit)
      if commit then s1.cmdDone sender (cmdOp c) (cmdTag c) 0 0 else s1
  | .reset _ part => (s.killPart part).rearrange
  | .hostReg _ sender fn write n sel v => s.regWindow sender fn write n sel v
  | .hostReply _ fn answer => s.answerHost s.pkg.regs.pkgid.toNat fn answer
  | .window _ x => s.windowEnter x
  | .sync _ sender t1 bound => s.modPkg (·.syncIn sender t1 bound)
  | .delayReq _ sender => s.modPkg (·.delayIn sender)
  | .delayResp _ sender t4 => s.delayDone sender t4

/-- Blocks come in over a dimension: a port that a bank gives it is `UP`, or drains what is under way (R407, R408). -/
def Pkg.linkCarries (p : Pkg) (d : Nat) : Bool :=
  [false, true].any fun bank =>
    let e := p.route bank d
    e != 0#64 && ((p.port (routePort e)).state == .up || (p.port (routePort e)).state == .draining)

/-- A message arrives over a dimension that carries blocks: for this package, or on its way to another, forwarded unchanged
(R300, R407). -/
def State.linkIn (s : State) (dim : Nat) (m : LinkMsg) : State :=
  if ¬ s.pkg.linkCarries dim then s
  else if m.dest = s.pkg.regs.pkgid.toNat then s.serveLink m
  else s.modPkg fun p => { p with outbox := p.outbox ++ [p.across (p.towards m.dest dim m) m] }

end Sys2Proof.Machine
end

