-- ==== Sys2Proof/Machine/Dispatch.lean ====
section
/-! DEFINITION. The dispatch: one arm for every instruction. -/
namespace Sys2Proof.Machine

open Sys2Proof

/-- What an instruction does. -/
def exec (i : Instr) (s : State) : Host.Outcome State Fault Refusal :=
  match i with
  | .snop p => Sys2Proof.Machine.execSnop p s
  | .add x => Sys2Proof.Machine.execAdd x s
  | .sub x => Sys2Proof.Machine.execSub x s
  | .and x => Sys2Proof.Machine.execAnd x s
  | .or x => Sys2Proof.Machine.execOr x s
  | .xor x => Sys2Proof.Machine.execXor x s
  | .andn x => Sys2Proof.Machine.execAndn x s
  | .shl x => Sys2Proof.Machine.execShl x s
  | .shr x => Sys2Proof.Machine.execShr x s
  | .sra x => Sys2Proof.Machine.execSra x s
  | .rotr x => Sys2Proof.Machine.execRotr x s
  | .mul x => Sys2Proof.Machine.execMul x s
  | .mulh x => Sys2Proof.Machine.execMulh x s
  | .mulhz x => Sys2Proof.Machine.execMulhz x s
  | .div x => Sys2Proof.Machine.execDiv x s
  | .divz x => Sys2Proof.Machine.execDivz x s
  | .rem x => Sys2Proof.Machine.execRem x s
  | .remz x => Sys2Proof.Machine.execRemz x s
  | .min x => Sys2Proof.Machine.execMin x s
  | .max x => Sys2Proof.Machine.execMax x s
  | .minz x => Sys2Proof.Machine.execMinz x s
  | .maxz x => Sys2Proof.Machine.execMaxz x s
  | .cmp x => Sys2Proof.Machine.execCmp x s
  | .sel x => Sys2Proof.Machine.execSel x s
  | .movi x => Sys2Proof.Machine.execMovi x s
  | .movh x => Sys2Proof.Machine.execMovh x s
  | .popc x => Sys2Proof.Machine.execPopc x s
  | .clz x => Sys2Proof.Machine.execClz x s
  | .ctz x => Sys2Proof.Machine.execCtz x s
  | .brev x => Sys2Proof.Machine.execBrev x s
  | .gray x => Sys2Proof.Machine.execGray x s
  | .igray x => Sys2Proof.Machine.execIgray x s
  | .ext x => Sys2Proof.Machine.execExt x s
  | .ins x => Sys2Proof.Machine.execIns x s
  | .fadd x => Sys2Proof.Machine.execFadd x s
  | .fsub x => Sys2Proof.Machine.execFsub x s
  | .fmul x => Sys2Proof.Machine.execFmul x s
  | .fmin x => Sys2Proof.Machine.execFmin x s
  | .fmax x => Sys2Proof.Machine.execFmax x s
  | .fcmp x => Sys2Proof.Machine.execFcmp x s
  | .fcvt x => Sys2Proof.Machine.execFcvt x s
  | .pand x => Sys2Proof.Machine.execPand x s
  | .por x => Sys2Proof.Machine.execPor x s
  | .pxor x => Sys2Proof.Machine.execPxor x s
  | .srd p ws d n => Sys2Proof.Machine.execSrd p ws d n s
  | .swr p a1 n => Sys2Proof.Machine.execSwr p a1 n s
  | .shw p e r a f => Sys2Proof.Machine.execShw p e r a f s
  | .tidr p ws d a f => Sys2Proof.Machine.execTidr p ws d a f s
  | .tidw p f a b => Sys2Proof.Machine.execTidw p f a b s
  | .agw p n a f => Sys2Proof.Machine.execAgw p n a f s
  | .flgs x => Sys2Proof.Machine.execFlgs x s
  | .flgc x => Sys2Proof.Machine.execFlgc x s
  | .partner x => Sys2Proof.Machine.execPartner x s
  | .krd x => Sys2Proof.Machine.execKrd x s
  | .kwrDiestateFence x => Sys2Proof.Machine.execKwrDiestateFence x s
  | .kwrDiestateReset x => Sys2Proof.Machine.execKwrDiestateReset x s
  | .kwrDiestateAdmit x => Sys2Proof.Machine.execKwrDiestateAdmit x s
  | .kwrTqctl x => Sys2Proof.Machine.execKwrTqctl x s
  | .kwrArrctr x => Sys2Proof.Machine.execKwrArrctr x s
  | .kwrBarctl x => Sys2Proof.Machine.execKwrBarctl x s
  | .tlbinv x => Sys2Proof.Machine.execTlbinv x s
  | .ctxsv x => Sys2Proof.Machine.execCtxsv x s
  | .ctxrs x => Sys2Proof.Machine.execCtxrs x s
  | .lkmw x => Sys2Proof.Machine.execLkmw x s
  | .rtbw x => Sys2Proof.Machine.execRtbw x s
  | .cnop p => Sys2Proof.Machine.execCnop p s
  | .br p o => Sys2Proof.Machine.execBr p o s
  | .jmp p r => Sys2Proof.Machine.execJmp p r s
  | .call p o => Sys2Proof.Machine.execCall p o s
  | .ret p => Sys2Proof.Machine.execRet p s
  | .loop p r stages e => Sys2Proof.Machine.execLoop p r stages e s
  | .bloop p r e => Sys2Proof.Machine.execBloop p r e s
  | .wait p r all => Sys2Proof.Machine.execWait p r all s
  | .brf p f sense o => Sys2Proof.Machine.execBrf p f sense o s
  | .brsw p a => Sys2Proof.Machine.execBrsw p a s
  | .ifence p => Sys2Proof.Machine.execIfence p s
  | .trap p c => Sys2Proof.Machine.execTrap p c s
  | .tret p => Sys2Proof.Machine.execTret p s
  | .halt p st => Sys2Proof.Machine.execHalt p st s
  | .mwait p r => Sys2Proof.Machine.execMwait p r s
  | .sleept p => Sys2Proof.Machine.execSleept p s
  | .kcall p => Sys2Proof.Machine.execKcall p s
  | .brkpt p => Sys2Proof.Machine.execBrkpt p s
  | .eret p => Sys2Proof.Machine.execEret p s
  | .kstopKill p st => Sys2Proof.Machine.execKstopKill p st s
  | .kstopFault p st => Sys2Proof.Machine.execKstopFault p st s
  | .kstopDesched p st => Sys2Proof.Machine.execKstopDesched p st s
  | .lnop p => Sys2Proof.Machine.execLnop p s
  | .ld x => Sys2Proof.Machine.execLd x s
  | .st x => Sys2Proof.Machine.execSt x s
  | .ldro x => Sys2Proof.Machine.execLdro x s
  | .ldsp x => Sys2Proof.Machine.execLdsp x s
  | .stsp x => Sys2Proof.Machine.execStsp x s
  | .vld x => Sys2Proof.Machine.execVld x s
  | .vst x => Sys2Proof.Machine.execVst x s
  | .vldx x => Sys2Proof.Machine.execVldx x s
  | .vstx x => Sys2Proof.Machine.execVstx x s
  | .atom x => Sys2Proof.Machine.execAtom x s
  | .cas x => Sys2Proof.Machine.execCas x s
  | .red x => Sys2Proof.Machine.execRed x s
  | .heapins x => Sys2Proof.Machine.execHeapins x s
  | .fenceAcq x => Sys2Proof.Machine.execFenceAcq x s
  | .fenceRel x => Sys2Proof.Machine.execFenceRel x s
  | .fenceAcqrel x => Sys2Proof.Machine.execFenceAcqrel x s
  | .fenceSc x => Sys2Proof.Machine.execFenceSc x s
  | .fenceRo p => Sys2Proof.Machine.execFenceRo p s
  | .mon p b => Sys2Proof.Machine.execMon p b s
  | .monOff p b => Sys2Proof.Machine.execMonOff p b s
  | .copy p b => Sys2Proof.Machine.execCopy p b s
  | .take x => Sys2Proof.Machine.execTake x s
  | .enqt x => Sys2Proof.Machine.execEnqt x s
  | .enqtClose x => Sys2Proof.Machine.execEnqtClose x s
  | .arrive x => Sys2Proof.Machine.execArrive x s
  | .arriveSet x => Sys2Proof.Machine.execArriveSet x s
  | .barinit x => Sys2Proof.Machine.execBarinit x s
  | .bararv x => Sys2Proof.Machine.execBararv x s
  | .lktxn x => Sys2Proof.Machine.execLktxn x s
  | .lkacq x => Sys2Proof.Machine.execLkacq x s
  | .lkup x => Sys2Proof.Machine.execLkup x s
  | .lkdn x => Sys2Proof.Machine.execLkdn x s
  | .lkrel x => Sys2Proof.Machine.execLkrel x s
  | .lkrelAll x => Sys2Proof.Machine.execLkrelAll x s
  | .lkabt x => Sys2Proof.Machine.execLkabt x s
  | .lkqry x => Sys2Proof.Machine.execLkqry x s
  | .enql x => Sys2Proof.Machine.execEnql x s
  | .vnop p => Sys2Proof.Machine.execVnop p s
  | .vadd x => Sys2Proof.Machine.execVadd x s
  | .vsub x => Sys2Proof.Machine.execVsub x s
  | .vmul x => Sys2Proof.Machine.execVmul x s
  | .vfma x => Sys2Proof.Machine.execVfma x s
  | .vfms x => Sys2Proof.Machine.execVfms x s
  | .vmin x => Sys2Proof.Machine.execVmin x s
  | .vmax x => Sys2Proof.Machine.execVmax x s
  | .vabs x => Sys2Proof.Machine.execVabs x s
  | .vneg x => Sys2Proof.Machine.execVneg x s
  | .vand x => Sys2Proof.Machine.execVand x s
  | .vor x => Sys2Proof.Machine.execVor x s
  | .vxor x => Sys2Proof.Machine.execVxor x s
  | .vshl x => Sys2Proof.Machine.execVshl x s
  | .vshr x => Sys2Proof.Machine.execVshr x s
  | .vsra x => Sys2Proof.Machine.execVsra x s
  | .vcmp x => Sys2Proof.Machine.execVcmp x s
  | .vsel x => Sys2Proof.Machine.execVsel x s
  | .vmov x => Sys2Proof.Machine.execVmov x s
  | .vbcast x => Sys2Proof.Machine.execVbcast x s
  | .viota x => Sys2Proof.Machine.execViota x s
  | .vexp2 x => Sys2Proof.Machine.execVexp2 x s
  | .vlog2 x => Sys2Proof.Machine.execVlog2 x s
  | .vrcp x => Sys2Proof.Machine.execVrcp x s
  | .vrsq x => Sys2Proof.Machine.execVrsq x s
  | .vrsum x => Sys2Proof.Machine.execVrsum x s
  | .vrmax x => Sys2Proof.Machine.execVrmax x s
  | .vrmin x => Sys2Proof.Machine.execVrmin x s
  | .vargmax x => Sys2Proof.Machine.execVargmax x s
  | .vscan x => Sys2Proof.Machine.execVscan x s
  | .vperm x => Sys2Proof.Machine.execVperm x s
  | .vrotl x => Sys2Proof.Machine.execVrotl x s
  | .vcvt x => Sys2Proof.Machine.execVcvt x s
  | .vpack x => Sys2Proof.Machine.execVpack x s
  | .vunpk x => Sys2Proof.Machine.execVunpk x s
  | .vout x => Sys2Proof.Machine.execVout x s
  | .kand x => Sys2Proof.Machine.execKand x s
  | .kor x => Sys2Proof.Machine.execKor x s
  | .knot x => Sys2Proof.Machine.execKnot x s
  | .kpopc x => Sys2Proof.Machine.execKpopc x s
  | .vexts x => Sys2Proof.Machine.execVexts x s
  | .vinss x => Sys2Proof.Machine.execVinss x s
  | .vmulh x => Sys2Proof.Machine.execVmulh x s
  | .vadds x => Sys2Proof.Machine.execVadds x s
  | .vsubs x => Sys2Proof.Machine.execVsubs x s
  | .mnop p => Sys2Proof.Machine.execMnop p s
  | .mpush x src => Sys2Proof.Machine.execMpush x src s
  | .mpushw x => Sys2Proof.Machine.execMpushw x s
  | .mswapw x => Sys2Proof.Machine.execMswapw x s
  | .mmul x src => Sys2Proof.Machine.execMmul x src s
  | .macc x src => Sys2Proof.Machine.execMacc x src s
  | .mdrain x dst => Sys2Proof.Machine.execMdrain x dst s
  | .mclr x => Sys2Proof.Machine.execMclr x s
  | .tnop p => Sys2Proof.Machine.execTnop p s
  | .texp x => Sys2Proof.Machine.execTexp x s
  | .tqnt x => Sys2Proof.Machine.execTqnt x s
  | .tcvt x => Sys2Proof.Machine.execTcvt x s
  | .ttrni x => Sys2Proof.Machine.execTtrni x s
  | .ttrno x => Sys2Proof.Machine.execTtrno x s
  | .xnop p => Sys2Proof.Machine.execXnop p s
  | .xch x => Sys2Proof.Machine.execXch x s
  | .xcb x => Sys2Proof.Machine.execXcb x s
  | .xsib x => Sys2Proof.Machine.execXsib x s
  | .xring x => Sys2Proof.Machine.execXring x s
  | .xsend x => Sys2Proof.Machine.execXsend x s
  | .xrecv x => Sys2Proof.Machine.execXrecv x s
  | .xfan x => Sys2Proof.Machine.execXfan x s
  | .xbar x => Sys2Proof.Machine.execXbar x s
  | .xbarSwap x => Sys2Proof.Machine.execXbarSwap x s
  | .chw x => Sys2Proof.Machine.execChw x s
  | .landingDataArrival id => Sys2Proof.Machine.execLandingDataArrival id s
  | .tepcWrite v => Sys2Proof.Machine.execTepcWrite v s
  | .portFetch j => Sys2Proof.Machine.execPortFetch j s
  | .portVectorArrival j => Sys2Proof.Machine.execPortVectorArrival j s
  | .outputPortWrite y => Sys2Proof.Machine.execOutputPortWrite y s
  | .copyStart id n => Sys2Proof.Machine.execCopyStart id n s
  | .copyComplete id => Sys2Proof.Machine.execCopyComplete id s
  | .engineCompletion id => Sys2Proof.Machine.execEngineCompletion id s
  | .takeDeliver pair => Sys2Proof.Machine.execTakeDeliver pair s
  | .wgraceExpiry txn => Sys2Proof.Machine.execWgraceExpiry txn s
  | .exchangePairing id far => Sys2Proof.Machine.execExchangePairing id far s
  | .exchangeComplete id => Sys2Proof.Machine.execExchangeComplete id s
  | .xfanArrival id answer row => Sys2Proof.Machine.execXfanArrival id answer row s
  | .swapDecision id farYes => Sys2Proof.Machine.execSwapDecision id farYes s
  | .backlogStore id => Sys2Proof.Machine.execBacklogStore id s
  | .linkDetour id via via2 => Sys2Proof.Machine.execLinkDetour id via via2 s
  | .storeAcknowledge id => Sys2Proof.Machine.execStoreAcknowledge id s
  | .directoryRequest id => Sys2Proof.Machine.execDirectoryRequest id s
  | .strongAccessPerform id => Sys2Proof.Machine.execStrongAccessPerform id s
  | .pageWalk id => Sys2Proof.Machine.execPageWalk id s
  | .frctlWrite v => Sys2Proof.Machine.execFrctlWrite v s
  | .fransRetry index => Sys2Proof.Machine.execFransRetry index s
  | .fransKill index => Sys2Proof.Machine.execFransKill index s
  | .fransAbort index => Sys2Proof.Machine.execFransAbort index s
  | .migrationDone bad => Sys2Proof.Machine.execMigrationDone bad s
  | .uncorrectableError site => Sys2Proof.Machine.execUncorrectableError site s
  | .launchEnqueue packet origin time => Sys2Proof.Machine.execLaunchEnqueue packet origin time s
  | .agePromotion id => Sys2Proof.Machine.execAgePromotion id s
  | .launchReadyReport id far => Sys2Proof.Machine.execLaunchReadyReport id far s
  | .startTimeBroadcast id t => Sys2Proof.Machine.execStartTimeBroadcast id t s
  | .gangStart id absent => Sys2Proof.Machine.execGangStart id absent s
  | .completionAction id => Sys2Proof.Machine.execCompletionAction id s
  | .portDrained port => Sys2Proof.Machine.execPortDrained port s
  | .drainTimeout d => Sys2Proof.Machine.execDrainTimeout d s
  | .portGoDark port => Sys2Proof.Machine.execPortGoDark port s
  | .darkusExpiry port => Sys2Proof.Machine.execDarkusExpiry port s
  | .lanesTrained port => Sys2Proof.Machine.execLanesTrained port s
  | .trainingTimeout port => Sys2Proof.Machine.execTrainingTimeout port s
  | .identityFlit port pkg dim expect => Sys2Proof.Machine.execIdentityFlit port pkg dim expect s
  | .verifyTimeout port => Sys2Proof.Machine.execVerifyTimeout port s
  | .linkErrorBudgetExceeded port => Sys2Proof.Machine.execLinkErrorBudgetExceeded port s
  | .timeSyncExchange sender t1 t4 bound est => Sys2Proof.Machine.execTimeSyncExchange sender t1 t4 bound est s
  | .bar2Access write vf addr data len => Sys2Proof.Machine.execBar2Access write vf addr data len s
  | .functionLevelReset fn => Sys2Proof.Machine.execFunctionLevelReset fn s
  | .powerOn selfTest badStacks badSockets idents sync => Sys2Proof.Machine.execPowerOn selfTest badStacks badSockets idents sync s
  | .mext v => Sys2Proof.Machine.execMext v s
  | .clockStepDown cause => Sys2Proof.Machine.execClockStepDown cause s
  | .stackReadmission stack => Sys2Proof.Machine.execStackReadmission stack s
  | .admissionComplete sock passed => Sys2Proof.Machine.execAdmissionComplete sock passed s
  | .resultLanding => Sys2Proof.Machine.execResultLanding s
  | .freezeWatchdogExpiry => Sys2Proof.Machine.execFreezeWatchdogExpiry s
  | .yieldBoundExpiry => Sys2Proof.Machine.execYieldBoundExpiry s
  | .waitBundle => Sys2Proof.Machine.execWaitBundle s
  | .yieldPoint => Sys2Proof.Machine.execYieldPoint s
  | .bundleBreakpoint => Sys2Proof.Machine.execBundleBreakpoint s
  | .illfetch => Sys2Proof.Machine.execIllfetch s
  | .literalFetch => Sys2Proof.Machine.execLiteralFetch s
  | .refreshWindow => Sys2Proof.Machine.execRefreshWindow s
  | .statRecordWrite => Sys2Proof.Machine.execStatRecordWrite s
  | .pushRowLand => Sys2Proof.Machine.execPushRowLand s
  | .planeSwap => Sys2Proof.Machine.execPlaneSwap s
  | .accRowClear => Sys2Proof.Machine.execAccRowClear s
  | .beatUpdate => Sys2Proof.Machine.execBeatUpdate s
  | .transposerBlockOutput => Sys2Proof.Machine.execTransposerBlockOutput s
  | .woundDelivery => Sys2Proof.Machine.execWoundDelivery s
  | .releaseComplete => Sys2Proof.Machine.execReleaseComplete s
  | .mwaitTimeout => Sys2Proof.Machine.execMwaitTimeout s
  | .faultRecordWrite => Sys2Proof.Machine.execFaultRecordWrite s
  | .migrationStart => Sys2Proof.Machine.execMigrationStart s
  | .dieResetDone => Sys2Proof.Machine.execDieResetDone s
  | .launchSelect => Sys2Proof.Machine.execLaunchSelect s
  | .saveComplete => Sys2Proof.Machine.execSaveComplete s
  | .kcEnqueue => Sys2Proof.Machine.execKcEnqueue s
  | .kcYield => Sys2Proof.Machine.execKcYield s
  | .kcTqopen => Sys2Proof.Machine.execKcTqopen s
  | .kcBarreset => Sys2Proof.Machine.execKcBarreset s
  | .kcRegion => Sys2Proof.Machine.execKcRegion s
  | .retopo => Sys2Proof.Machine.execRetopo s
  | .relight => Sys2Proof.Machine.execRelight s
  | .partnew => Sys2Proof.Machine.execPartnew s
  | .partend => Sys2Proof.Machine.execPartend s
  | .timeHold => Sys2Proof.Machine.execTimeHold s
  | .flitReplay => Sys2Proof.Machine.execFlitReplay s
  | .attcmdGo => Sys2Proof.Machine.execAttcmdGo s
  | .attestationReportDone => Sys2Proof.Machine.execAttestationReportDone s
  | .clockStepUp => Sys2Proof.Machine.execClockStepUp s
  | .thermalFence => Sys2Proof.Machine.execThermalFence s
  | .correctedError => Sys2Proof.Machine.execCorrectedError s
  | .unassignedOpcode => Sys2Proof.Machine.execUnassignedOpcode s
  | .emptyBundle => Sys2Proof.Machine.execEmptyBundle s
  | .unassignedManagementOpcode => Sys2Proof.Machine.execUnassignedManagementOpcode s

end Sys2Proof.Machine
end

