-- ==== Sys2Proof/Machine/Work.lean ====
section
/-! DEFINITION. What Brocade does by itself while no script says otherwise: of the steps that pending work allows,
one for each package clock edge, taken in turn. The spec fixes no such order; a script may give any other. -/
namespace Sys2Proof.Machine

/-- A step and the socket it concerns. -/
abbrev Work := Nat × Instr

/-- The step that takes a request on (R128, R263). -/
def Req.work (r : Req) : List Work :=
  match r.stage with
  | .issued => [(r.sock, .pageWalk r.id)]
  | .held => []
  | .walked => [(r.sock, .directoryRequest r.id), (r.sock, .strongAccessPerform r.id)]
  | .performed => [(r.sock, .landingDataArrival r.id), (r.sock, .storeAcknowledge r.id)]

/-- The step that takes an engine operation on (R277). -/
def Engine.work (e : Engine) : List Work :=
  match e.job with
  | .copy _ => match e.stage with
    | .sent => [(e.sock, .copyStart e.id 0)]
    | _ => [(e.sock, .copyComplete e.id)]
  | .exchange x => match e.stage with
    | .decided _ _ => [(e.sock, .exchangeComplete e.id)]
    | _ => if x.opcode = 7 then [(e.sock, .xfanArrival e.id none none)]
      else [(e.sock, .exchangePairing e.id []), (e.sock, .backlogStore e.id)]
  | _ => [(e.sock, .engineCompletion e.id)]

/-- The steps of a launch (R370-R377). -/
def Launch.work (l : Launch) : List Work :=
  [(0, .agePromotion l.id), (0, .launchReadyReport l.id false), (0, .startTimeBroadcast l.id 0#64),
    (0, .gangStart l.id []), (0, .completionAction l.id)]

/-- The steps of one die. -/
def dieWork (k : Nat) : List Work :=
  [(k, .releaseComplete), (k, .saveComplete), (k, .dieResetDone)]

/-- The swaps that this package can decide: those whose every vote is in (R414). [DEDUCED, log 32] -/
def Pkg.ownVotes (p : Pkg) : List Work :=
  let own := p.regs.pkgid.toNat
  let full (v : Vote) : Bool := v.decider == own && (otherPackages own v.packet).all fun k =>
    p.farVotes.any fun w => v.meets w && w.sender == k
  (p.votes.filter full).map fun v => (0, .swapDecision v.id true)

/-- Everything that may be done. -/
def State.work (s : State) : List Work :=
  let p := s.pkg
  p.reqs.flatMap Req.work ++ p.engines.flatMap Engine.work ++
    (p.tiles.filter fun e => !e.2.takers.isEmpty).map (fun e => (0, .takeDeliver (BitVec.ofNat 6 e.1))) ++
    (List.range 16).flatMap dieWork ++ p.launches.flatMap Launch.work ++
    (p.garnet.txns.filter (·.wounded)).map (fun t => (0, .wgraceExpiry t.id)) ++ p.ownVotes ++
    (p.farRows.map fun r => (0, .xfanArrival 0 none (some r))) ++
    ((List.range 17).filterMap fun fn => (s.ringPacket fn).map fun b =>
      (0, .launchEnqueue b (if fn = 0 then 0 else 16 + fn) 0#64)) ++
    [(0, .retopo), (0, .relight), (0, .partnew), (0, .partend), (0, .timeHold), (0, .unassignedManagementOpcode),
      (0, .launchSelect), (0, .faultRecordWrite), (0, .migrationDone []), (0, .attestationReportDone)]

/-- The state after a step that changes something. -/
def State.tryWork (s : State) (w : Work) : Option State :=
  match exec w.2 { s with cur := w.1 } with
  | .next t => let u := { t with cur := s.cur }; if u = s then none else some u
  | _ => none

/-- Do the first of the pending steps that changes anything, beginning at another one at each edge.
[DEDUCED, log 6] -/
def State.autoWork (s : State) : State :=
  let l := s.work
  let n := s.pkg.clk % (l.length + 1)
  ((l.drop n ++ l.take n).findSome? s.tryWork).getD s

end Sys2Proof.Machine
end

