-- ==== Sys2Proof/Machine/Step.lean ====
section
/-! DEFINITION. The step: the next entry of the script, or the clock edge of the next die. -/
namespace Sys2Proof.Machine

/-- What an entry of the script does: a step of the machine at its socket. [DEDUCED, log 6] -/
def stepInput (sock : Nat) (i : Instr) (s : State) : Host.Outcome State Fault Refusal :=
  match exec i { s with cur := sock % 16 } with
  | .next t => .next { t with cur := s.cur }
  | o => o

/-- The clock edge of die `cur`; after the sixteenth die's, with no script, Brocade's own work.
[DEDUCED, log 6; DESIGN CHOICE, log 7] -/
def stepEdge (auto : Bool) (s : State) : Host.Outcome State Fault Refusal :=
  let e := tick exec s
  match e.out with
  | .next t =>
    let u := if e.used then t.nextDie else t
    .next (if auto && e.used && decide (15 ≤ t.cur) then u.autoWork else u)
  | o => o

/-- One step. A package that stopped in step 1 or 2 of bring-up stays as it is until M resets it: what the script holds for
it besides passes without effect (R426). [DEDUCED, log 6; DESIGN CHOICE, log 37] -/
def step (s : State) : Host.Outcome State Fault Refusal :=
  if s.pkg.stopped && !(s.inputs.head?.any Input.answered) then .next { s with inputs := s.inputs.tail }
  else match s.inputs with
    | .step k i :: rest => stepInput k i { s with inputs := rest }
    | .edge :: rest => stepEdge false { s with inputs := rest }
    | .regWrite r v :: rest => .next ({ s with inputs := rest }.hostRegWrite r v)
    | .regRead r :: rest => .next ({ s with inputs := rest }.hostRegRead r)
    | .link d m :: rest => .next ({ s with inputs := rest }.linkIn d m)
    | .hostWrite a bytes :: rest => .next ({ s with inputs := rest }.modPkg (·.setBytes true a bytes))
    | [] => stepEdge true s

/-- The state with an instruction placed where the next step fetches. A bare slot word is placed in the
slot that decodes it. [DESIGN CHOICE, log 4] -/
def State.withFetchWord (s : State) (nbits w : Nat) : State :=
  match slotOfTableWord nbits w with
  | some (k, _) => s.place (oneSlotBundle k w)
  | none => s.place 0

end Sys2Proof.Machine
end

