-- ==== Sys2Proof/Safety.lean ====
section
/-! DEFINITION. What claims call safe: the canonical form of the two memories, which every step keeps,
and a run that never stops. -/
namespace Sys2Proof.Machine

/-- Package memory and host memory are in canonical form. -/
def Pkg.memoriesWf (p : Pkg) : Bool := Memory.wf p.mem && Memory.wf p.host

/-- The invariant of every step. -/
abbrev State.Inv (s : State) : Prop := s.pkg.memoriesWf = true

/-- A run of any length from a state ends in a state, in no fault and in no refusal. -/
def State.Safe (s : State) : Prop := ∀ n, ∃ t, Sys2Proof.core.run n s = .next t

end Sys2Proof.Machine
end

