-- ==== Sys2Proof/Certificates/Slice0/Obligations.lean ====
section
/-! DEFINITION. The statements for the provers, from the rules of spec/, with the small functions they are
written in: formulas for results over the integers and the bits, the reading of operands, what a state leaves
unchanged. -/

namespace Sys2Proof.Claims
open Sys2Proof.Machine

/-! Formulas of results. -/

/-- The 64 bits that a predicate on bit numbers gives. -/
def ofBits (f : Nat → Bool) : Word := BitVec.ofNat 64 (((List.range 64).filter f).map (2 ^ ·)).sum

/-- Set bits among some bit numbers. -/
def countBits (a : Word) (l : List Nat) : Nat := (l.filter fun i => a.getLsbD i).length

/-- Bit numbers before the first set one. -/
def clearRun (a : Word) (l : List Nat) : Nat := (l.takeWhile fun i => !a.getLsbD i).length

/-- Latency and result of each S instruction with two sources and no flag, in integers (R192-R194). -/
def integerRule : Instr → Option (SArgs × Nat × (Word → Word → Word))
  | .add x => some (x, 1, fun a b => BitVec.ofNat 64 (a.toNat + b.toNat))
  | .sub x => some (x, 1, fun a b => BitVec.ofInt 64 (a.toInt - b.toInt))
  | .and x => some (x, 1, fun a b => ofBits fun i => a.getLsbD i && b.getLsbD i)
  | .or x => some (x, 1, fun a b => ofBits fun i => a.getLsbD i || b.getLsbD i)
  | .xor x => some (x, 1, fun a b => ofBits fun i => a.getLsbD i != b.getLsbD i)
  | .andn x => some (x, 1, fun a b => ofBits fun i => a.getLsbD i && !b.getLsbD i)
  | .shl x => some (x, 1, fun a b => BitVec.ofNat 64 (a.toNat * 2 ^ (b.toNat % 64)))
  | .shr x => some (x, 1, fun a b => BitVec.ofNat 64 (a.toNat / 2 ^ (b.toNat % 64)))
  | .sra x => some (x, 1, fun a b => BitVec.ofInt 64 (a.toInt / 2 ^ (b.toNat % 64)))
  | .rotr x => some (x, 1, fun a b => ofBits fun i => a.getLsbD ((i + b.toNat) % 64))
  | .min x => some (x, 1, fun a b => BitVec.ofInt 64 (min a.toInt b.toInt))
  | .max x => some (x, 1, fun a b => BitVec.ofInt 64 (max a.toInt b.toInt))
  | .minz x => some (x, 1, fun a b => BitVec.ofNat 64 (min a.toNat b.toNat))
  | .maxz x => some (x, 1, fun a b => BitVec.ofNat 64 (max a.toNat b.toNat))
  | .mul x => some (x, 3, fun a b => BitVec.ofInt 64 (a.toInt * b.toInt))
  | .mulh x => some (x, 3, fun a b => BitVec.ofInt 64 (a.toInt * b.toInt / 2 ^ 64))
  | .mulhz x => some (x, 3, fun a b => BitVec.ofNat 64 (a.toNat * b.toNat / 2 ^ 64))
  | _ => none

/-- The four divisions: the result for a zero divisor, and for any other (R194). -/
def divisionRule : Instr → Option (SArgs × (Word → Word) × (Word → Word → Word))
  | .div x => some (x, fun _ => BitVec.ofInt 64 (-1), fun a b => BitVec.ofInt 64 (a.toInt.tdiv b.toInt))
  | .divz x => some (x, fun _ => BitVec.ofInt 64 (-1), fun a b => BitVec.ofNat 64 (a.toNat / b.toNat))
  | .rem x => some (x, fun a => a, fun a b => BitVec.ofInt 64 (a.toInt.tmod b.toInt))
  | .remz x => some (x, fun a => a, fun a b => BitVec.ofNat 64 (a.toNat % b.toNat))
  | _ => none

/-- The one-source bit instructions (R195). -/
def bitRule : Instr → Option (SOne × (Word → Word))
  | .popc x => some (x, fun a => BitVec.ofNat 64 (countBits a (List.range 64)))
  | .clz x => some (x, fun a => BitVec.ofNat 64 (clearRun a ((List.range 64).map (63 - ·))))
  | .ctz x => some (x, fun a => BitVec.ofNat 64 (clearRun a (List.range 64)))
  | .brev x => some (x, fun a => ofBits fun i => a.getLsbD (63 - i))
  | .gray x => some (x, fun a => ofBits fun i => a.getLsbD i != a.getLsbD (i + 1))
  | .igray x => some (x, fun a => ofBits fun i =>
      countBits a ((List.range (64 - i)).map (i + ·)) % 2 == 1)
  | _ => none

/-- The field of `EXT` and `INS`: `len` bits from bit `lo`, cut at bit 63 (R196). -/
def lowBit (b : Word) : Nat := b.toNat % 64
def bitLength (b : Word) : Nat := min (b.toNat / 64 % 64 + 1) (64 - lowBit b)

/-- The result of `EXT` (R196): the field, its top bit repeated when bit 12 of the second operand asks. -/
def extracted (a b : Word) : Word :=
  ofBits fun i =>
    if i < bitLength b then a.getLsbD (lowBit b + i)
    else b.getLsbD 12 && a.getLsbD (lowBit b + bitLength b - 1)

/-- The result of `INS` (R196): the field of the old value replaced by the low bits of the first operand. -/
def inserted (d a b : Word) : Word :=
  ofBits fun i => if lowBit b ≤ i ∧ i < lowBit b + bitLength b then a.getLsbD (i - lowBit b) else d.getLsbD i

/-- The conditions of `CMP` (R182). -/
def condition (c : BitVec 3) (a b : Word) : Bool :=
  match c.toNat with
  | 0 => decide (a.toNat = b.toNat)
  | 1 => decide (a.toNat ≠ b.toNat)
  | 2 => decide (a.toInt < b.toInt)
  | 3 => decide (b.toInt ≤ a.toInt)
  | 4 => decide (a.toNat < b.toNat)
  | 5 => decide (b.toNat ≤ a.toNat)
  | 6 => (List.range 64).any fun i => a.getLsbD i && b.getLsbD i
  | _ => !(List.range 64).any fun i => a.getLsbD i && b.getLsbD i

/-- The scalar floating instructions with two sources (R201): the rule in force and two F32 patterns give a
pattern and flags. -/
def floatRule : Instr → Option (SArgs × (Rule → Nat → Nat → Nat × BitVec 10))
  | .fadd x => some (x, addF32)
  | .fsub x => some (x, subF32)
  | .fmul x => some (x, mulF32)
  | .fmin x => some (x, fun _ a b => (FFmt.f32.minPat a b, 0#10))
  | .fmax x => some (x, fun _ a b => (FFmt.f32.maxPatOf a b, 0#10))
  | _ => none

/-- The predicate instructions (R200). -/
def predicateRule : Instr → Option (SPred × (Bool → Bool → Bool))
  | .pand x => some (x, fun a b => a && b)
  | .por x => some (x, fun a b => a || b)
  | .pxor x => some (x, fun a b => a != b)
  | _ => none

/-! Operands and results. -/

/-- The die after the reads of some scalar operands: a read of an invalid latch is noted (R49). -/
def noted (d : Die) (l : List SSrc) : Die := l.foldl Die.noteS d

/-- The state after the running slot has read some scalar operands and scheduled a scalar result (R27, R192). -/
def scalarDone (s : State) (l : List SSrc) (lat : Nat) (ws : Bool) (x : BitVec 6) (v : Word) (st : BitVec 10) :
    State :=
  s.put ((noted s.here l).emitS lat ws x v st)

/-- The same with a predicate result. -/
def predicateDone (s : State) (l : List SSrc) (lat : Nat) (x : BitVec 4) (b : Bool) : State :=
  s.put ((noted s.here l).emitP lat x b)

/-- The state after the running slot has read some scalar operands and scheduled a write for the end of its
cycle. -/
def laterDone (s : State) (l : List SSrc) (w : Later) : State := s.put ((noted s.here l).later w)

end Sys2Proof.Claims

open Sys2Proof Sys2Proof.Machine Sys2Proof.Claims

/-- R193, R194: for all operands, a two-source integer instruction that executes schedules exactly the
result that integer arithmetic gives, for its destination at its latency, and does nothing else. R194: the
divisions, with the results and the flag of a zero divisor. -/
def Obligations.IntegerResults : Prop :=
  (∀ (i : Instr) (x : SArgs) (lat : Nat) (f : Word → Word → Word) (s : State),
     integerRule i = some (x, lat, f) → s.here.executes x.p = true →
     exec i s = .next (scalarDone s [x.a, x.b] lat x.ws x.d (f (s.here.src x.a) (s.here.src x.b)) 0#10)) ∧
  (∀ (i : Instr) (x : SArgs) (zero : Word → Word) (f : Word → Word → Word) (s : State),
     divisionRule i = some (x, zero, f) → s.here.executes x.p = true →
     (s.here.src x.b = 0#64 →
       exec i s = .next (scalarDone s [x.a, x.b] 18 x.ws x.d (zero (s.here.src x.a)) 128#10)) ∧
     (s.here.src x.b ≠ 0#64 →
       exec i s = .next (scalarDone s [x.a, x.b] 18 x.ws x.d (f (s.here.src x.a) (s.here.src x.b)) 0#10)))

/-- R195: counting, reversing and Gray coding of bits. R196, R197, R199: bit fields, immediates and
selection. -/
def Obligations.BitAndFieldResults : Prop :=
  (∀ (i : Instr) (x : SOne) (f : Word → Word) (s : State),
     bitRule i = some (x, f) → s.here.executes x.p = true →
     exec i s = .next (scalarDone s [x.a] 1 x.ws x.d (f (s.here.src x.a)) 0#10)) ∧
  ((∀ (x : SArgs) (s : State), s.here.executes x.p = true →
     exec (.ext x) s = .next (scalarDone s [x.a, x.b] 1 x.ws x.d (extracted (s.here.src x.a) (s.here.src x.b)) 0#10)) ∧
   (∀ (x : SArgs) (s : State), s.here.executes x.p = true →
     exec (.ins x) s = .next (scalarDone s [x.a, x.b] 1 x.ws x.d
       (inserted (s.here.readS x.d) (s.here.src x.a) (s.here.src x.b)) 0#10)) ∧
   (∀ (x : SImm) (s : State), s.here.executes x.p = true →
     exec (.movi x) s = .next (scalarDone s [] 1 x.ws x.d (BitVec.ofInt 64 x.i.toInt) 0#10)) ∧
   (∀ (x : SImm) (s : State), s.here.executes x.p = true →
     exec (.movh x) s = .next (scalarDone s [] 1 x.ws x.d
       (BitVec.ofNat 64 ((s.here.readS x.d).toNat * 2 ^ 14 + x.i.toNat)) 0#10)) ∧
   (∀ (x : SArgs) (s : State), s.here.iss.wait = false →
     exec (.sel x) s = .next (scalarDone s [x.a, x.b] 1 x.ws x.d
       (if s.here.predicate x.p then s.here.src x.a else s.here.src x.b) 0#10)))

/-- R182, R198, R200, R201: comparisons and predicate logic. -/
def Obligations.PredicateResults : Prop :=
  (∀ (x : SCmp) (s : State), s.here.executes x.p = true →
    exec (.cmp x) s = .next (predicateDone s [x.a, x.b] 1 x.x (condition x.c (s.here.src x.a) (s.here.src x.b)))) ∧
  (∀ (x : SCmp) (s : State), s.here.executes x.p = true →
    exec (.fcmp x) s = .next (predicateDone s [x.a, x.b] 3 x.x
      (FVal.test x.c.toNat (f32v (s.here.fsrc x.a)) (f32v (s.here.fsrc x.b))))) ∧
  (∀ (i : Instr) (x : SPred) (f : Bool → Bool → Bool) (s : State),
    predicateRule i = some (x, f) → s.here.executes x.p = true →
    exec i s = .next (predicateDone s [] 1 x.x (f (s.here.readP x.y != x.ny) (s.here.readP x.z != x.nz))))

/-- R201, R202: scalar floating point, of the F32 patterns in the low halves of the operands; bits [63:32]
of a result are zero. That an immediate of `FCVT` is the sign-extended pattern of R192, of which a narrow source takes
its low bits, is the model's choice (log 28). -/
def Obligations.FloatResults : Prop :=
  (∀ (i : Instr) (x : SArgs) (f : Rule → Nat → Nat → Nat × BitVec 10) (s : State),
    floatRule i = some (x, f) → s.here.executes x.p = true →
    let r := f s.here.rule (s.here.fsrc x.a) (s.here.fsrc x.b)
    r.1 < 2 ^ 32 ∧ exec i s = .next (scalarDone s [x.a, x.b] 3 x.ws x.d (BitVec.ofNat 64 r.1) r.2)) ∧
  (∀ (x : SCvt) (s : State), s.here.executes x.p = true →
    exec (.fcvt x) s = .next (scalarDone s [x.a] 3 x.ws x.d
      (BitVec.ofNat 64 ((fcvtPair x.c.toNat).run s.here.rule (s.here.src x.a).toNat).1)
      ((fcvtPair x.c.toNat).run s.here.rule (s.here.src x.a).toNat).2))

namespace Sys2Proof.Claims
open Sys2Proof.Machine

/-! The stream and its exceptions. -/

/-- The state after an `SRD` has read a special register: the value lands two cycles later, and with it the copies are
observed whose completion it shows (R134, R203). -/
def sregDone (s : State) (ws : Bool) (x : BitVec 6) (v : Word) (shows : List Nat) : State :=
  s.put { s.here with pipe.due := s.here.pipe.due ++ [⟨s.here.now + 2, s.here.now, s.here.sDest x, ws, BitVec.allOnes 512,
    v.setWidth 16384, s.here.iss.slot.latch, 0#10, [], shows⟩] }

/-- What a trap that a bundle takes outside handler state leaves of the acting die (R43, R44, R346): the trap
registers, the level and the handler's address, everything in flight in the snapshot, the general registers and the
memories of the die as they were. -/
structure TrapTaken (s t : State) (cause : Nat) (info0 info1 : Word) (mask : BitVec 10) (epc : Nat) : Prop where
  tcause : t.here.sr.tcause = BitVec.ofNat 8 cause
  tinfo : t.here.sr.tinfo0 = info0 ∧ t.here.sr.tinfo1 = info1
  tmask : t.here.sr.tmask = mask
  tepc : t.here.sr.tepc = BitVec.ofNat 15 epc
  level : t.here.ctl.level = if s.here.userTrap cause then .user else .kernel
  pc : t.here.ctl.pc = if s.here.userTrap cause then s.here.sr.uhandler.toNat else s.here.sr.kvec.toNat
  snapshot : t.here.ctl.snapshot = some (s.here.takeSnapshot s.pkg.clk)
  inFlight : t.here.pipe.due = [] ∧ t.here.pipe.landings = [] ∧ t.here.ctl.transfer = none
  matrix : t.here.pipe.mdue = s.here.pipe.mdue ∧ t.here.tab = s.here.tab
  regs : t.here.regs = s.here.regs
  arr : t.here.arr = s.here.arr
  pkg : t.pkg = s.pkg

/-- A release at a scope may complete now, and the state it leaves (R137, R147, R401, R402): below `.pkg`, or when it has
completed already, nothing is left to do. -/
def mayRelease (scope : Nat) (mmex : Bool) (s : State) : Option State :=
  if s.here.scope scope < 2 ∨ s.here.ctl.released = true then some s
  else if s.releaseWaits (s.here.scope scope) = true ∨ s.here.ctl.dataErr.isSome = true ∨
      (mmex = true ∧ s.here.ctl.refused.isSome = true) ∨ (s.release s.cur).here.ctl.dataErr.isSome = true then none
  else some (s.release s.cur)

/-- A release at a scope has something to wait for (R137). -/
def MustWait (scope : Nat) (s : State) : Prop :=
  2 ≤ s.here.scope scope ∧ s.here.ctl.released = false ∧ s.releaseWaits (s.here.scope scope) = true

/-- The bundle freezes, with nothing else changed (R34). -/
def frozen (s : State) (h : Hold) : State := s.setIss fun c => { c with hold := some h }

/-- The state that a transfer of control leaves: a target and two delay bundles to come (R50). -/
def transferring (s : State) (target : Nat) (swap : Bool) : State :=
  s.put { s.here with ctl.transfer := some ⟨target, 3, swap⟩ }

/-- The completion whose flag a `BRF` reads set is observed (R134, R211). -/
def flagObserved (s : State) (f : BitVec 5) : State :=
  s.put (s.here.observe (s.here.sr.flg &&& BitVec.ofNat 32 (2 ^ f.toNat)))

/-- A relative target stays in the address space of the level (R211, R344). -/
def reaches (s : State) (o : Int) : Prop :=
  0 ≤ (s.here.ctl.pc : Int) + o ∧ (s.here.ctl.pc : Int) + o < (if s.here.inK then 4096 else 32768)

/-- The operand address of a relative transfer. -/
def target (s : State) (o : Int) : Nat := ((s.here.ctl.pc : Int) + o).toNat

/-- A C-slot instruction that is neither in a wait bundle nor in a delay bundle executes (R160, R212). -/
def Proceeds (s : State) (p : BitVec 5) : Prop :=
  s.here.iss.wait = false ∧ s.here.iss.delay = false ∧ s.here.executes p = true

/-- The bundle has ended the stream's stay in its level or on its die. -/
def gone (s : State) : State := s.setIss fun i => { i with leaves := true }

/-- A stream has ended with a status (R220): whatever its bundle waited for, it waits for nothing that ends it again. -/
def halted (s : State) (st : BitVec 16) : State :=
  (gone (s.halt st)).setIss fun i => { i with hold := i.hold.map Hold.ofHalt }

/-- The open transaction of the running kernel ends as `LKABT` would end it (R220, R328), its release made. -/
def locksQuit (s : State) : State :=
  (s.abortLocks s.cur s.here.sr.kernid.toNat).mod fun d => { d with ctl.releasing := false, ctl.released := false }

/-- The instructions that do nothing, by their predicates (R190). -/
def nopRule : Instr → Option (BitVec 5)
  | .snop p | .cnop p | .lnop p | .vnop p | .mnop p | .tnop p | .xnop p => some p
  | _ => none

/-- The writes of the control space (R354). -/
def controlWrite : Instr → Option SPriv
  | .kwrDiestateFence x | .kwrDiestateReset x | .kwrDiestateAdmit x | .kwrTqctl x | .kwrArrctr x
  | .kwrBarctl x => some x
  | _ => none

/-- A write of the control space that is accepted (R354): its index names an object; a command to a socket is 1, 2 or 3
and not to the die's own. -/
def commandOk (own : Nat) (i v : Word) : Bool :=
  match objOf i.toNat with
  | none => false
  | some (.die k) => k != own && 1 ≤ v.toNat && v.toNat ≤ 3
  | some _ => true

/-- The privileged instructions, each with its predicate and whether an operand of it is illegal in a state (R171, R190,
R348, R349, R353-R358). -/
def privilegedRule (s : State) : Instr → Option (BitVec 5 × Bool)
  | .krd x => some (x.p, (objOf (s.here.src x.a).toNat).isNone)
  | .kwrDiestateFence x | .kwrDiestateReset x | .kwrDiestateAdmit x | .kwrTqctl x | .kwrArrctr x | .kwrBarctl x =>
    some (x.p, !commandOk s.cur (s.here.src x.a) (s.here.src x.b))
  | .tlbinv x => some (x.p, false)
  | .ctxsv x | .ctxrs x => some (x.p, false)
  | .lkmw x => some (x.p, !matrixOk (s.here.src x.a))
  | .rtbw x => some (x.p, !routeOk s.pkg.regs.rtact (s.here.src x.a).toNat (s.here.src x.b).toNat)
  | .eret p => some (p, s.here.iss.delay)
  | .kstopKill p _ | .kstopFault p _ => some (p, false)
  | .kstopDesched p _ => some (p, !s.here.sr.kstat.getLsbD 6)
  | _ => none

/-- The state after a privileged or scalar slot has read its operands. -/
def readDone (s : State) (l : List SSrc) : State := s.put (noted s.here l)

/-- The writes of `FLG` by the stream in one cycle: the bits cleared, and the bits set (R207). -/
def clearedBits : List (Nat × Later) → BitVec 32
  | [] => 0#32
  | (_, .flagClear m) :: rest => m ||| clearedBits rest
  | _ :: rest => clearedBits rest

def raisedBits : List (Nat × Later) → BitVec 32
  | [] => 0#32
  | (_, .flagSet m) :: rest => m ||| raisedBits rest
  | _ :: rest => raisedBits rest

/-- A write of the end of a cycle is one of flags. -/
def flagWrite : Nat × Later → Bool
  | (_, .flagSet _) => true
  | (_, .flagClear _) => true
  | _ => false

end Sys2Proof.Claims

open Sys2Proof Sys2Proof.Machine Sys2Proof.Claims

/-- R190: an instruction that does nothing leaves the state as it is, in handler state too but for the M, T and X slots,
which a handler bundle may not use (R44). -/
def Obligations.NopsLeaveTheState : Prop :=
  ∀ (i : Instr) (p : BitVec 5) (s : State), nopRule i = some p → s.here.executes p = true →
    (s.here.handler = false ∨ i = .snop p ∨ i = .cnop p ∨ i = .lnop p ∨ i = .vnop p → exec i s = .next s) ∧
    (s.here.handler = true → i = .mnop p ∨ i = .tnop p ∨ i = .xnop p → exec i s = raiseIllegal s)

/-- R68, R203: special registers; R204-R206, R207, R208: tables, flags and partner numbers. -/
def Obligations.SpecialRegisterAndTableResults : Prop :=
  (∀ (p : BitVec 5) (ws : Bool) (d : BitVec 6) (n : BitVec 12) (s : State),
    srdFate s.here.inK n.toNat = none → s.here.executes p = true →
    (s.here.ctl.samples.lookup s.here.iss.slot.num = none →
      let u := s.readSreg n.toNat
      exec (.srd p ws d n) s = .next (sregDone u.2 ws d u.1
        (if n = 0x100#12 then u.2.here.copiesShown (BitVec.ofNat 32 u.1.toNat) else []))) ∧
    (∀ v shows, s.here.ctl.samples.lookup s.here.iss.slot.num = some (v, shows) →
      exec (.srd p ws d n) s = .next (sregDone s ws d v shows))) ∧
  (∀ (p : BitVec 5) (r : BitVec 6) (n : BitVec 12) (s : State),
    swrFate s.here.inK n.toNat = none → s.here.executes p = true →
    exec (.swr p r n) s = .next (laterDone s [] (.sreg n.toNat (s.here.readS r)))) ∧
  (∀ (p : BitVec 5) (e r : BitVec 2) (a : SSrc) (f : BitVec 4) (s : State), s.here.executes p = true →
    exec (.shw p e r a f) s = .next (laterDone s [a] (.shape e.toNat r.toNat f.toNat
      (BitVec.ofNat 32 (s.here.src a).toNat)))) ∧
  (∀ (p : BitVec 5) (ws : Bool) (d : BitVec 6) (a : SSrc) (f : BitVec 5) (s : State), s.here.executes p = true →
    exec (.tidr p ws d a f) s = .next (scalarDone s [a] 3 ws d
      (BitVec.ofNat 64 (fieldAt (s.here.tensor ((s.here.src a).toNat % 256)) (tensorField f.toNat).1
        (tensorField f.toNat).2)) 0#10)) ∧
  (∀ (p f : BitVec 5) (a b : SSrc) (s : State), s.here.executes p = true →
    exec (.tidw p f a b) s = .next (laterDone s [a, b]
      (.tensor ((s.here.src a).toNat % 256) f.toNat (s.here.src b)))) ∧
  (∀ (x : SSink) (s : State), s.here.executes x.p = true →
    exec (.flgs x) s = .next (laterDone s [x.a] (.flagSet (BitVec.ofNat 32 (s.here.src x.a).toNat))) ∧
    exec (.flgc x) s = .next (laterDone s [x.a] (.flagClear (BitVec.ofNat 32 (s.here.src x.a).toNat)))) ∧
  (∀ (x : SOne) (s : State), s.here.executes x.p = true →
    exec (.partner x) s = .next (scalarDone s [x.a] 1 x.ws x.d
      (if (s.here.src x.a).toNat < s.here.sr.ndim.toNat then
        ofBits fun i => s.here.sr.rank.getLsbD i != decide (i = (s.here.src x.a).toNat)
       else BitVec.ofInt 64 (-1)) 0#10))

/-- R58-R60, R206: writes of the address generators' fields; a write of 1 to field 11 arms the set when its
port is free and of its kind, and is `ILLEGAL` when its port is not. R207, R209: what the stream writes to
`FLG` in a cycle takes effect at its end, clears before sets. -/
def Obligations.GeneratorAndFlagWrites : Prop :=
  (∀ (p : BitVec 5) (n : BitVec 3) (a : SSrc) (f : BitVec 4) (s : State), s.here.executes p = true →
     let w : BitVec 32 := BitVec.ofNat 32 ((s.here.src a).toNat % 2 ^ agWidth f.toNat)
     let d := s.here
     ((f ≠ 11#4 ∨ w ≠ 1#32) →
       exec (.agw p n a f) s = .next (laterDone s [a] (.ag n.toNat f.toNat w))) ∧
     (f = 11#4 → w = 1#32 → (d.agField n.toNat 2).getLsbD 3 = true → d.agPort n.toNat < 6 →
       (4 ≤ d.agPort n.toNat → (d.agField n.toNat 1).getLsbD 0 = false) → d.portTaken n.toNat (d.agPort n.toNat) = false →
       d.agMisaligned n.toNat = none →
       exec (.agw p n a f) s = .next (laterDone s [a] (.ag n.toNat f.toNat w))) ∧
     (f = 11#4 → w = 1#32 → ((d.agField n.toNat 2).getLsbD 3 = false ∨ 6 ≤ d.agPort n.toNat ∨
         (4 ≤ d.agPort n.toNat ∧ (d.agField n.toNat 1).getLsbD 0 = true) ∨ d.portTaken n.toNat (d.agPort n.toNat) = true) →
       exec (.agw p n a f) s = raiseIllegal (readDone s [a])) ∧
     (∀ x, f = 11#4 → w = 1#32 → (d.agField n.toNat 2).getLsbD 3 = true → d.agPort n.toNat < 6 →
       (4 ≤ d.agPort n.toNat → (d.agField n.toNat 1).getLsbD 0 = false) → d.portTaken n.toNat (d.agPort n.toNat) = false →
       d.agMisaligned n.toNat = some x →
       exec (.agw p n a f) s = raiseAlign (readDone s [a]) x)) ∧
  (∀ (s : State) (l : List (Nat × Later)), l.all flagWrite = true → s.here.pipe.next = l →
     (applyLater s).here.sr.flg = (s.here.sr.flg &&& ~~~clearedBits l) ||| raisedBits l ∧
     (applyLater s).here.sr.flgerr = s.here.sr.flgerr &&& ~~~clearedBits l ∧
     (applyLater s).here.pipe.next = [] ∧ (applyLater s).here.regs = s.here.regs)

/-- R353, R354: the control space. A read is a landing request; a write is posted; a bad index or command is
`ILLEGAL`. -/
def Obligations.ControlSpaceRequests : Prop :=
  (∀ (x : SOne) (s : State), s.here.inK = true → s.here.executes x.p = true →
    (objOf (s.here.src x.a).toNat).isSome = true → s.here.landingFull = false →
    let u := (readDone s [x.a]).sendReq .krd (s.here.src x.a).toNat 8 0#64 0#64 0 0 0 none
    exec (.krd x) s = .next (u.2.mod fun d => d.allocLanding u.1 d.sr.atland.toNat x.ws (d.sDest x.d))) ∧
  (∀ (i : Instr) (x : SPriv) (s : State), controlWrite i = some x → s.here.inK = true → s.here.executes x.p = true →
    (commandOk s.cur (s.here.src x.a) (s.here.src x.b) = true →
      exec i s = .next ((readDone s [x.a, x.b]).sendReq .kwr (s.here.src x.a).toNat 8 (s.here.src x.b) 0#64 0 0 0
        none).2) ∧
    (commandOk s.cur (s.here.src x.a) (s.here.src x.b) = false → exec i s = raiseIllegal s)) ∧
  (∀ (x : SOne) (s : State), s.here.executes x.p = true → (objOf (s.here.src x.a).toNat).isSome = false →
    exec (.krd x) s = raiseIllegal s)

/-- R355: `CTXSV` saves the context and sets `KSTAT.CTXOK`; `CTXRS` takes an image of the running kernel
back, and on a mismatch sets `KSTAT.CTXERR` and nothing else. -/
def Obligations.ContextSavedAndRestored : Prop :=
  ∀ (x : SSink) (s u : State) (l : Place) (v : State), s.here.inK = true → s.here.executes x.p = true →
    (s.here.src x.a).toNat % 4096 = 0 → mayRelease 2 false (readDone s [x.a]) = some u → contextReq u = none →
    (translatePages true ctxPages (bitsAt (s.here.src x.a).toNat 0 57) u = (.ok l, v) → v.here.landingsIn = true →
      exec (.ctxsv x) s = .next ((v.saveContext v.cur l true).mod fun d =>
        { d with sr.kstat := d.sr.kstat ||| 64#8 })) ∧
    (translatePages false ctxPages (bitsAt (s.here.src x.a).toNat 0 57) u = (.ok l, v) →
      let w := v.bringHome l
      let cells := w.imageCells l
      exec (.ctxrs x) s = .next (
        match (if headerOk cells w.here.sr.kernid.toNat w.here.sr.regionid.toNat then w.imageHere cells else none) with
        | some i => w.mod fun d => d.adopt (imageDie cells i) w.pkg.clk
        | none => w.mod fun d => { d with sr.kstat := d.sr.kstat ||| 128#8 }))

/-- R315, R357, R358: `LKMW` puts a matrix whose diagonal pattern is right for the partition and makes a
grant pass; `RTBW` writes an entry of the idle bank, or holds the write while a swap is being decided. R356:
after `TLBINV` no TLB of the package holds an entry that its operands name, and every other entry stays. -/
def Obligations.TablesOfTheKernelLevel : Prop :=
  ((∀ (x : SSink) (s : State), s.here.inK = true → s.here.executes x.p = true →
     let part := s.here.sr.partid.toNat
     let m := s.here.src x.a
     let g : Garnet := { s.pkg.garnet with matrix := Store.set Config.lockMatrix s.pkg.garnet.matrix part m }
     let waits := (g.locks.filter fun l => l.part == part && !l.queue.isEmpty).map fun l => (l.part, l.name)
     (matrixOk m = true → exec (.lkmw x) s =
       .next ((readDone s [x.a]).applyLock (settleAll s.pkg.ptime.toNat ⟨g, [], [], [], []⟩ waits))) ∧
     (matrixOk m = false → exec (.lkmw x) s = raiseIllegal s)) ∧
   (∀ (x : SPriv) (s : State), s.here.inK = true → s.here.executes x.p = true →
     let a := s.here.src x.a
     let b := s.here.src x.b
     (routeOk s.pkg.regs.rtact a.toNat b.toNat = true → s.pkg.regs.swaplk = false →
       exec (.rtbw x) s = .next ((readDone s [x.a, x.b]).modPkg fun p => p.writeRoute (a.getLsbD 0) (bitsAt a.toNat 8 5) b)) ∧
     (routeOk s.pkg.regs.rtact a.toNat b.toNat = true → s.pkg.regs.swaplk = true →
       exec (.rtbw x) s = .next ((readDone s [x.a, x.b]).modPkg fun p =>
         { p with heldRoutes := p.heldRoutes ++ [⟨a.getLsbD 0, bitsAt a.toNat 8 5, b⟩] })) ∧
     (routeOk s.pkg.regs.rtact a.toNat b.toNat = false → exec (.rtbw x) s = raiseIllegal s))) ∧
  (∀ (x : SPriv) (s u : State), s.here.inK = true → s.here.executes x.p = true →
     mayRelease 2 false (readDone s [x.a, x.b]) = some u → s.pkg.inbound = [] → s.pkg.windowQ = [] →
     ∃ t, exec (.tlbinv x) s = .next t ∧ ∀ k < 17, t.pkg.tlbOf k = (s.pkg.tlbOf k).filter fun e =>
       !tlbNamed s.cur s.here.sr.partid.toNat (s.here.src x.a).toNat (s.here.src x.b).toNat k e)

/-- R171, R190: in U a privileged opcode takes `PRIV`, whatever its predicate; of the C slot, outside a wait
bundle. One that executes with an operand that its instruction calls illegal takes `ILLEGAL`, which comes first, in U as
in K. -/
def Obligations.PrivilegedOpcodesTrapInUser : Prop :=
  ∀ (s : State) (i : Instr) (p : BitVec 5) (bad : Bool), privilegedRule s i = some (p, bad) →
    (i.slotClass = some .c → s.here.iss.wait = false) → s.here.handler = false →
    (s.here.executes p = true → bad = true → ∃ t, exec i s = .next t ∧
      TrapTaken s t 0x10 (BitVec.ofNat 64 s.here.iss.bits) 0#64 s.here.iss.slot.bit s.here.ctl.pc) ∧
    (s.here.inK = false → (s.here.executes p = false ∨ bad = false) → ∃ t, exec i s = .next t ∧
      TrapTaken s t 0x11 (BitVec.ofNat 64 s.here.iss.bits) 0#64 s.here.iss.slot.bit s.here.ctl.pc)

/-- R43, R44, R346: taking an exception outside handler state. -/
def Obligations.TrapEntry : Prop :=
  ∀ (s : State) (x : TrapInfo) (mask : BitVec 10) (epc : Nat), s.here.handler = false →
    TrapTaken s (takeTrap s x mask epc) x.cause x.info0 x.info1 mask epc

/-- R46, R348: with nothing of the handler's left to land, the return takes the saved program counter,
latches and transfer back, and every saved result lands as long after the resumed bundle as it would have
after the trapped one. -/
def Obligations.TrapReturn : Prop :=
  ∀ (d : Die) (x : Snapshot) (clk : Nat) (eret : Bool), d.ctl.snapshot = some x → d.pipe.due = [] →
    d.pipe.landings = [] →
    let e := d.comeBack clk eret
    e.ctl.pc = d.sr.tepc.toNat ∧ e.ctl.level = .user ∧ e.ctl.run = .running ∧ e.ctl.snapshot = none ∧
    e.ctl.transfer = x.transfer ∧ e.regs.q = x.q ∧ e.regs.qv = x.qv ∧ e.regs.s = d.regs.s ∧ e.regs.v = d.regs.v ∧
    e.regs.p = d.regs.p ∧ e.regs.k = d.regs.k ∧
    e.ctl.popped = x.popped ∧ e.ctl.switch = x.switch ∧
    e.pipe.due = x.results.map (fun r => { r with land := r.land + d.now, issue := r.issue + (d.now - x.cycle) }) ∧
    e.pipe.landings = x.landings.map (fun r =>
      { r with land := r.land + d.now, issue := r.issue + (d.now - x.cycle) }) ∧
    e.ctl.dskip = if eret then d.sr.kstat.getLsbD 4 else x.dskip

/-- R42, R219: `TRAP` commits its bundle and is taken at the next one; `KCALL` stands alone, is taken at
issue, and its stream resumes at the next bundle in sequence; `BRKPT` is taken at its own bundle. R46, R348:
`TRET` in handler state and `ERET` in K end their cycle and return. -/
def Obligations.SoftwareTrapsAndReturns : Prop :=
  ((∀ (p : BitVec 5) (c : BitVec 16) (s : State), s.here.iss.wait = false → s.here.executes p = true →
     exec (.trap p c) s = .next (gone (takeTrapAt (s.pkg.clk + 1) (endCycle s) ⟨1, BitVec.ofNat 64 c.toNat, 0#64⟩ 4#10
       (endCycle s).here.ctl.pc))) ∧
   (∀ (p : BitVec 5) (s : State), s.here.iss.wait = false → s.here.executes p = true → s.here.iss.shared = false →
     let u := s.put (s.here.advance s.here.iss.nextPc)
     exec (.kcall p) s = .next (gone (takeTrap u ⟨0x17, 0#64, 0#64⟩ 4#10 u.here.ctl.pc))) ∧
   (∀ (p : BitVec 5) (s : State), s.here.iss.wait = false → s.here.executes p = true → s.here.handler = false →
     ∃ t, exec (.brkpt p) s = .next t ∧ TrapTaken s t 0x18 0#64 0#64 s.here.iss.slot.bit s.here.ctl.pc)) ∧
  ((∀ (p : BitVec 5) (s : State), Proceeds s p → s.here.handler = true →
     exec (.tret p) s = .next (gone ((endCycle s).mod fun d => d.comeBack s.pkg.clk false))) ∧
   (∀ (p : BitVec 5) (s : State), Proceeds s p → s.here.inK = true →
     exec (.eret p) s = .next (gone ((endCycle s).mod fun d => d.comeBack s.pkg.clk true))))

/-- R220, R349, R394: the ends of a stream. -/
def Obligations.StreamEnds : Prop :=
  (∀ (p : BitVec 5) (st : BitVec 16) (s : State), s.here.iss.wait = false → s.here.executes p = true →
    s.outstanding = false →
    let v := s.quitFlight s.cur
    let open_ := v.pkg.garnet.txnAt v.cur v.here.sr.kernid.toNat
    (open_ = none → ∀ u, mayRelease 5 true (v.quitBarriers v.cur) = some u → exec (.halt p st) s = .next (halted u st)) ∧
    (open_.isSome = true → ∀ w u, mayRelease 2 false v = some w →
      mayRelease 5 true ((locksQuit w).quitBarriers (locksQuit w).cur) = some u →
      exec (.halt p st) s = .next (halted u st))) ∧
  (∀ (p : BitVec 5) (st : BitVec 16) (s : State), s.here.iss.wait = false → s.here.executes p = true →
    s.outstanding = false → s.pkg.garnet.txns = [] → s.pkg.faults = [] → s.pkg.badStacks = [] →
    s.releaseWaits 5 = false → s.here.ctl.dataErr = none → s.here.ctl.refused = none →
    ∃ t, exec (.halt p st) s = .next t ∧ t.here.ctl.run = .idle ∧ t.here.ctl.endStatus = st) ∧
  (∀ (p : BitVec 5) (st : BitVec 16) (s : State), s.here.iss.wait = false → s.here.inK = true →
    s.here.executes p = true →
    (∃ t, exec (.kstopKill p st) s = .next t ∧ t.here.ctl.run = .idle ∧ t.here.ctl.endStatus = st) ∧
    (s.here.ctl.run ≠ .idle → ∃ t, exec (.kstopFault p st) s = .next t ∧ t.here.ctl.run = .idle ∧
      t.pkg.sock s.cur = .fenced) ∧
    (s.here.sr.kstat.getLsbD 6 = true → ∃ t, exec (.kstopDesched p st) s = .next t ∧ t.here.ctl.run = .idle ∧
      t.here.ctl.endStatus = st)) ∧
  (∀ (p : BitVec 5) (st : BitVec 16) (s : State), s.here.iss.wait = false → s.here.inK = true →
    s.here.executes p = true →
    exec (.kstopKill p st) s = .next (gone ((endCycle s).killStream s.cur st)) ∧
    exec (.kstopFault p st) s = .next (gone (s.regionFault s.cur 6 st 0)) ∧
    (s.here.sr.kstat.getLsbD 6 = true → exec (.kstopDesched p st) s =
      .next (gone ((s.deschedule s.cur).modDie s.cur fun d => { d with ctl.endStatus := st }))))

/-- R50, R211, R218: transfers of control, with the return address of `CALL` after its two delay bundles.
R211: a relative target outside the address space is `ILLEGAL`; R211: so is a switch to the active bank. -/
def Obligations.TransferResults : Prop :=
  (∀ (p : BitVec 5) (s : State), Proceeds s p →
     (∀ o : BitVec 21, reaches s o.toInt →
       exec (.br p o) s = .next (transferring s (target s o.toInt) false) ∧
       exec (.call p o) s = .next (transferring (scalarDone s.returnAddress.2 [] 1 false 1#6
         (BitVec.ofNat 64 s.returnAddress.1) 0#10) (target s o.toInt) false)) ∧
     (∀ r : BitVec 6, exec (.jmp p r) s = .next (transferring s ((s.here.readS r).toNat % 32768) false)) ∧
     exec (.ret p) s = .next (transferring s ((s.here.readS 1#6).toNat % 32768) false) ∧
     (∀ (f : BitVec 5) (sense : Bool) (o : BitVec 15), reaches s o.toInt →
       exec (.brf p f sense o) s = .next (if s.here.sr.flg.getLsbD f.toNat = sense then
         transferring (flagObserved s f) (target s o.toInt) false else flagObserved s f)) ∧
     (∀ a : BitVec 15, s.here.handler = false → decide (16384 ≤ a.toNat) ≠ s.here.ctl.bank →
       exec (.brsw p a) s = .next (transferring s a.toNat true))) ∧
  (∀ (p : BitVec 5) (s : State), Proceeds s p →
     (∀ o : BitVec 21, ¬ reaches s o.toInt →
       exec (.br p o) s = raiseIllegal s ∧ exec (.call p o) s = raiseIllegal s) ∧
     (∀ (f : BitVec 5) (sense : Bool) (o : BitVec 15), ¬ reaches s o.toInt →
       exec (.brf p f sense o) s = raiseIllegal s) ∧
     (∀ a : BitVec 15, decide (16384 ≤ a.toNat) = s.here.ctl.bank → exec (.brsw p a) s = raiseIllegal s))

/-- R50: a transfer runs two more bundles in code order and then goes to its target; a `BRSW` switches the
bank there. R51-R53: at the end bundle of the innermost `LOOP` the stream goes back while iterations remain,
turning the rotation base and setting the stage predicate of the iteration to come, and goes on when none
remain. -/
def Obligations.TransfersTakeEffect : Prop :=
  (∀ (d : Die) (x : Transfer) (a b c : Nat), d.ctl.transfer = some x → x.left = 3 → d.ctl.loops = [] →
     (d.advance a).ctl.pc = a ∧ ((d.advance a).advance b).ctl.pc = b ∧
     (((d.advance a).advance b).advance c).ctl.pc = x.target ∧
     (((d.advance a).advance b).advance c).ctl.transfer = none ∧
     (((d.advance a).advance b).advance c).ctl.bank =
       (if x.swap then decide (16384 ≤ x.target) else d.ctl.bank)) ∧
  (∀ (d : Die) (l : Loop) (rest : List Loop) (next : Nat), d.ctl.loops = l :: rest → d.handler = false →
     d.ctl.transfer = none → l.table = false → l.last = d.ctl.pc →
     (1 < l.remain →
       (d.advance next).ctl.pc = l.first ∧
       (d.advance next).ctl.loops = { l with remain := l.remain - 1, iter := l.iter + 1 } :: rest ∧
       (d.advance next).sr.rotbase = d.sr.rotbase + 1#5 ∧
       (d.advance next).readP 8#4 = decide (l.iter + 1 < l.base)) ∧
     (l.remain ≤ 1 → rest = [] →
       (d.advance next).ctl.pc = next ∧ (d.advance next).ctl.loops = [] ∧ (d.advance next).regs = d.regs))

/-- R51, R53, R213: `LOOP` enters its body with `n + stages - 1` iterations to run, or skips it for a count
of 0; R214: `BLOOP` walks a topology table, or skips the body of an empty one. -/
def Obligations.LoopEntry : Prop :=
  (∀ (p : BitVec 5) (r : BitVec 6) (stages : BitVec 3) (e : BitVec 12) (s : State), Proceeds s p →
    s.here.handler = false →
    let last := s.here.ctl.pc + e.toNat
    let n := (s.here.readS r).toNat
    last / 16384 = s.here.ctl.pc / 16384 →
    (n = 0 → exec (.loop p r stages e) s = .next ((s.put (s.here.stagePreds false)).skipBody last)) ∧
    (n ≠ 0 → n < 2 ^ 60 → s.here.ctl.loops.length < 4 →
      exec (.loop p r stages e) s = .next (s.put { s.here.stagePreds true with
        ctl.loops := ⟨false, s.here.iss.nextPc, last, n + stages.toNat, stages.toNat, n, 0⟩ :: s.here.ctl.loops }))) ∧
  (∀ (p : BitVec 5) (r : BitVec 6) (e : BitVec 12) (s : State), Proceeds s p → s.here.handler = false →
    let last := s.here.ctl.pc + e.toNat
    let t := (s.here.readS r).toNat
    let d := s.here.noteOob t 8
    last / 16384 = s.here.ctl.pc / 16384 → s.here.ctl.loops.length < 4 → t % 8 = 0 →
    (d.tableCount t = 0 → exec (.bloop p r e) s = .next ((s.put d).skipBody last)) ∧
    (d.tableCount t ≠ 0 → exec (.bloop p r e) s = .next (s.put { d.loadEntry t 0 with
      ctl.loops := ⟨true, s.here.iss.nextPc, last, 1, 0, t, 0⟩ :: s.here.ctl.loops })))

/-- R37, R215, R216, R217: waiting. `WAIT` is done when its flags are; `MWAIT` and `SLEEPT` are done when
their wait would end, and otherwise the stream sleeps; `IFENCE` makes the finished copies' words certain. -/
def Obligations.WaitResults : Prop :=
  (∀ (p : BitVec 5) (r : BitVec 6) (all : Bool) (s : State), s.here.iss.wait = true →
    let m : BitVec 32 := BitVec.ofNat 32 (s.here.readS r).toNat ||| BitVec.ofNat 32 (2 ^ p.toNat)
    let ready := if all then ∀ i < 32, m.getLsbD i = true → s.here.sr.flg.getLsbD i = true
      else ∃ i < 32, m.getLsbD i = true ∧ s.here.sr.flg.getLsbD i = true
    (ready → exec (.wait p r all) s = .next s) ∧
    (¬ ready → exec (.wait p r all) s = .next (s.setIss fun i => { i with undone := true }))) ∧
  (∀ (p : BitVec 5) (r : BitVec 6) (s : State), s.here.iss.wait = false → s.here.predicate p = true →
    s.here.ctl.sleep = .none →
    let left := if s.here.sr.monstat.getLsbD 0 then (s.here.readS r).toNat else 0
    (∀ w : Sleep, w = .monitor left → ({ s.here with ctl.sleep := w } : Die).sleepOver = true →
      exec (.mwait p r) s = .next (s.put { s.here with ctl.sleep := .none })) ∧
    (∀ w : Sleep, w = .monitor left → ({ s.here with ctl.sleep := w } : Die).sleepOver = false →
      exec (.mwait p r) s = .next (s.put { s.here with ctl.sleep := w }))) ∧
  (∀ (p : BitVec 5) (s : State), s.here.iss.wait = false → s.here.predicate p = true → s.here.ctl.sleep = .none →
    exec (.sleept p) s = .next (s.put { s.here with
      ctl.sleep := if s.here.userDue || s.here.ctl.preempt then .none else .flags s.here.sr.flg })) ∧
  (∀ (p : BitVec 5) (s : State), s.here.iss.wait = false → s.here.executes p = true →
    exec (.ifence p) s = .next (s.put { s.here with arr.ibOld := uncertain [] s.here.arr.ibOld }) ∧
    ((∀ x ∈ s.here.arr.ibOld, x.seen = true) →
      exec (.ifence p) s = .next (s.put { s.here with arr.ibOld := [] })))

namespace Sys2Proof.Claims
open Sys2Proof.Machine

/-! Memory instructions. -/

/-- The address of a scaled access: bits [56:0] of the base and the offset in units of the size (R261, R262). -/
def memAddress (s : State) (x : LMem) : Int :=
  ((s.here.readS x.b).toNat % 2 ^ 57 : Nat) + x.off.toInt * 2 ^ x.size.toNat

/-- The scratchpad offset of a scalar access and of a whole-vector access (R265, R266). -/
def spAddress (s : State) (x : LSp) : Int := ((s.here.readS x.b).toNat : Int) + x.off.toInt * 2 ^ x.size.toNat
def vecAddress (s : State) (x : LVec) : Int := ((s.here.readS x.b).toNat : Int) + x.off.toInt * 64

/-- The loads with a landing field (R262). -/
def loadRule : Instr → Option (LMem × ReqKind)
  | .ld x => some (x, .load)
  | .ldro x => some (x, .loadRo)
  | _ => none

/-- The strong accesses that return a value, their kind, alignment and size (R269, R270, R272). -/
def strongRule : Instr → Option (LStrong × ReqKind × Nat × Nat)
  | .atom x => some (x, .atom, 2 ^ x.size.toNat, 2 ^ x.size.toNat)
  | .cas x => some (x, .cas, 2 ^ x.size.toNat, 2 ^ x.size.toNat)
  | .heapins x => some (x, .heap, 64, 8)
  | _ => none

/-- The alignment that each strong access asks of its address (R261, R269, R272). -/
def strongAlignment : Instr → Option (LStrong × Nat)
  | .atom x | .cas x | .red x => some (x, 2 ^ x.size.toNat)
  | .heapins x => some (x, 64)
  | _ => none

/-- The release that a strong access with release ordering performs first (R270). -/
def orderedState (x : LStrong) (s : State) : Option State :=
  if x.order.toNat = 2 ∨ x.order.toNat = 3 then mayRelease x.scope.toNat true s else some s

/-- A strong access's address: the low 57 bits of its register. -/
def strongAddress (s : State) (x : LStrong) : Int := ((s.here.readS x.addr).toNat % 2 ^ 57 : Nat)

/-- The engine operations sent from registers, each with its job and the alignment of its first operand (R276-R283). -/
def engineRule (s : State) : Instr → Option (LEng × Nat × EngineJob)
  | .take x => some (x, 64, .take ((s.here.readS x.b).toNat % 64) (s.here.readS x.a).toNat)
  | .enqt x => some (x, 64, .enqt ((s.here.readS x.b).toNat % 64) (s.here.readS x.a).toNat)
  | .enqtClose x => some (x, 1, .enqtClose ((s.here.readS x.b).toNat % 64))
  | .arrive x => some (x, 1, .arrive ((s.here.readS x.a).toNat % 65536) (BitVec.ofNat 32 (s.here.readS x.b).toNat))
  | .arriveSet x => some (x, 1, .arriveSet ((s.here.readS x.a).toNat % 65536)
      (BitVec.ofNat 32 (s.here.readS x.b).toNat))
  | .barinit x => some (x, 1, .barinit ((s.here.readS x.a).toNat % 4096) ((s.here.readS x.b).toNat % 65536)
      x.mode.toNat)
  | .bararv x => some (x, 1, .bararv ((s.here.readS x.a).toNat % 4096))
  | .enql x => some (x, 128, .enql (s.here.readS x.a).toNat)
  | _ => none

/-- The lock operations by number (R326, R328). -/
def lockRule : Instr → Option (LLock × Nat)
  | .lktxn x => some (x, 0)
  | .lkacq x => some (x, 1)
  | .lkup x => some (x, 2)
  | .lkdn x => some (x, 3)
  | .lkrel x => some (x, 4)
  | .lkrelAll x => some (x, 5)
  | .lkabt x => some (x, 6)
  | .lkqry x => some (x, 7)
  | _ => none

/-- The status word that an engine operation names: register 0 names none; an offset must be aligned (R276). -/
def statusPlace (s : State) (r : BitVec 6) : Option Nat := if r.toNat = 0 then none else some (s.here.readS r).toNat
def statusAligned (s : State) (r : BitVec 6) (n : Nat) : Prop := r.toNat = 0 ∨ (s.here.readS r).toNat % n = 0

/-- An engine operation joins the operations outstanding, last, with the next number (R276, R277). -/
def engineSent (s : State) (flag : BitVec 5) (status : Option Nat) (job : EngineJob) : State :=
  let d := s.here
  let e : Engine := ⟨s.pkg.nextId, s.cur, d.sr.kernid.toNat, d.sr.regionid.toNat, d.sr.partid.toNat,
    d.sr.rcbaddr.toNat, flag.toNat, d.now, status, job, .sent, Progress.none, none, [], false⟩
  s.modPkg fun p => { p with nextId := p.nextId + 1, engines := p.engines ++ [e] }

/-- The read-only path after a fence that names it (R114, R273). -/
def roMoved (ro : Bool) (s : State) : State := if ro then s.put { s.here with cache.ro := [] } else s

/-- The writes to package registers are published by a release at `.pkg` or wider (R352). -/
def registersShared (scope : BitVec 3) (s : State) : State :=
  if 2 ≤ s.here.scope scope.toNat then s.modPkg (fun p => p.publishRegs s.cur) else s

end Sys2Proof.Claims

open Sys2Proof Sys2Proof.Machine Sys2Proof.Claims

/-- R261-R263: loads and stores of package memory. A load that is aligned and finds a landing entry sends a
request and allocates the entry; a store sends its request and the stream goes on. R31: a load that finds
all 32 landing entries taken waits, with no other effect. -/
def Obligations.MemoryRequests : Prop :=
  ((∀ (i : Instr) (x : LMem) (kind : ReqKind) (s : State), loadRule i = some (x, kind) → s.here.executes x.p = true →
     memAddress s x % (2 ^ x.size.toNat : Nat) = 0 → s.here.pipe.landings.length < 32 →
     let u := s.sendReq kind (memAddress s x) (2 ^ x.size.toNat) 0#64 0#64 0 0 0 none
     exec i s = .next (u.2.put (u.2.here.allocLanding u.1 x.land.toNat x.ws (u.2.here.sDest x.d)))) ∧
   (∀ (x : LMem) (s : State), s.here.executes x.p = true → memAddress s x % (2 ^ x.size.toNat : Nat) = 0 →
     exec (.st x) s = .next (s.sendReq .store (memAddress s x) (2 ^ x.size.toNat) (s.here.readS x.d) 0#64 0 0 0 none).2)) ∧
  (∀ (i : Instr) (x : LMem) (kind : ReqKind) (s : State), loadRule i = some (x, kind) → s.here.executes x.p = true →
     memAddress s x % (2 ^ x.size.toNat : Nat) = 0 → 32 ≤ s.here.pipe.landings.length →
     exec i s = .next (s.setIss fun c => { c with hold := some .landingBuffer }))

/-- R261, R265, R276, R346: an access that is not aligned as its rule says takes `ALIGN`, with the address or offset, and
has no effect: of package memory, of scratchpad in the scalar, whole-vector and indexed forms (the first misaligned lane's
offset), the strong accesses, the operands and status words of engine and lock operations, the descriptors of copies and
channels. R112, R268: a store that names the weight store takes `WEIGHTST`. -/
def Obligations.MemoryAccessTraps : Prop :=
  ((∀ (x : LMem) (s : State), s.here.executes x.p = true → s.here.handler = false →
     memAddress s x % (2 ^ x.size.toNat : Nat) ≠ 0 → ∀ i, i = Instr.ld x ∨ i = .ldro x ∨ i = .st x →
     ∃ t, exec i s = .next t ∧
       TrapTaken s t 0x16 (BitVec.ofInt 64 (memAddress s x)) 0#64 s.here.iss.slot.bit s.here.ctl.pc) ∧
   (∀ (x : LSp) (s : State), s.here.executes x.p = true → s.here.handler = false → x.sp = false →
     spAddress s x % (2 ^ x.size.toNat : Nat) ≠ 0 → ∀ i, i = Instr.ldsp x ∨ i = .stsp x →
     ∃ t, exec i s = .next t ∧
       TrapTaken s t 0x16 (BitVec.ofInt 64 (spAddress s x)) 0#64 s.here.iss.slot.bit s.here.ctl.pc) ∧
   (∀ (x : LVec) (s : State), s.here.executes x.p = true → s.here.handler = false → x.sp = false →
     vecAddress s x % 64 ≠ 0 → ∀ i, i = Instr.vld x ∨ i = .vst x →
     ∃ t, exec i s = .next t ∧
       TrapTaken s t 0x16 (BitVec.ofInt 64 (vecAddress s x)) 0#64 s.here.iss.slot.bit s.here.ctl.pc) ∧
   (∀ (x : LIdx) (s : State) (e : Nat × Int), s.here.executes x.p = true → s.here.handler = false → x.sp = false →
     (s.here.lanes x).find? (fun l : Nat × Int => decide (l.2 % (2 ^ x.size.toNat : Nat) ≠ 0)) = some e →
     ∀ i, i = Instr.vldx x ∨ i = .vstx x →
     ∃ t, exec i s = .next t ∧
       TrapTaken s t 0x16 (BitVec.ofInt 64 e.2) 0#64 s.here.iss.slot.bit s.here.ctl.pc)) ∧
  ((∀ (i : Instr) (x : LStrong) (al : Nat) (s : State), strongAlignment i = some (x, al) → s.here.executes x.p = true →
     s.here.handler = false → strongAddress s x % (al : Int) ≠ 0 →
     ∃ t, exec i s = .next t ∧
       TrapTaken s t 0x16 (BitVec.ofInt 64 (strongAddress s x)) 0#64 s.here.iss.slot.bit s.here.ctl.pc) ∧
   (∀ (i : Instr) (x : LEng) (n : Nat) (job : EngineJob) (s : State), engineRule s i = some (x, n, job) →
     s.here.executes x.p = true → s.here.handler = false →
     (n ≠ 1 → (s.here.readS x.a).toNat % n ≠ 0 → ∃ t, exec i s = .next t ∧
       TrapTaken s t 0x16 (BitVec.ofNat 64 (s.here.readS x.a).toNat) 0#64 s.here.iss.slot.bit s.here.ctl.pc) ∧
     ((n = 1 ∨ (s.here.readS x.a).toNat % n = 0) → ¬ statusAligned s x.s 8 → ∃ t, exec i s = .next t ∧
       TrapTaken s t 0x16 (s.here.readS x.s) 0#64 s.here.iss.slot.bit s.here.ctl.pc)) ∧
   (∀ (i : Instr) (x : LLock) (op : Nat) (s : State), lockRule i = some (x, op) → s.here.executes x.p = true →
     s.here.handler = false → ¬ statusAligned s x.s 32 → ∃ t, exec i s = .next t ∧
       TrapTaken s t 0x16 (s.here.readS x.s) 0#64 s.here.iss.slot.bit s.here.ctl.pc) ∧
   (∀ (p : BitVec 5) (b : BitVec 6) (s : State), s.here.executes p = true → s.here.handler = false →
     (s.here.readS b).toNat % 128 ≠ 0 → ∃ t, exec (.copy p b) s = .next t ∧
       TrapTaken s t 0x16 (s.here.readS b) 0#64 s.here.iss.slot.bit s.here.ctl.pc) ∧
   (∀ (x : XArgs) (s : State), s.here.executes x.p = true → s.here.handler = false →
     (s.here.readS x.arg).toNat % 64 ≠ 0 → ∃ t, exec (.chw x) s = .next t ∧
       TrapTaken s t 0x16 (s.here.readS x.arg) 0#64 s.here.iss.slot.bit s.here.ctl.pc)) ∧
  ((∀ (x : LSp) (s : State), s.here.executes x.p = true → s.here.handler = false → x.sp = true →
     ∃ t, exec (.stsp x) s = .next t ∧
       TrapTaken s t 0x15 (BitVec.ofInt 64 (spAddress s x)) 0#64 s.here.iss.slot.bit s.here.ctl.pc) ∧
   (∀ (x : LVec) (s : State), s.here.executes x.p = true → s.here.handler = false → x.sp = true →
     ∃ t, exec (.vst x) s = .next t ∧
       TrapTaken s t 0x15 (BitVec.ofInt 64 (vecAddress s x)) 0#64 s.here.iss.slot.bit s.here.ctl.pc) ∧
   (∀ (x : LIdx) (s : State), s.here.executes x.p = true → s.here.handler = false → x.sp = true →
     ∃ t a, exec (.vstx x) s = .next t ∧ TrapTaken s t 0x15 a 0#64 s.here.iss.slot.bit s.here.ctl.pc))

/-- R108, R266: accesses of tile memory (`SP` clear: R268 lets no load name the weight store, and a store that does traps).
A load's result has the bytes at its offset, zero where they lie outside the partition; a store writes its bytes at the end
of the cycle; an access that leaves the partition is noted. -/
def Obligations.ScratchpadResults : Prop :=
  (∀ (x : LSp) (s : State), s.here.executes x.p = true → x.sp = false → spAddress s x % (2 ^ x.size.toNat : Nat) = 0 →
    let n : Nat := 2 ^ x.size.toNat
    let d := s.here.noteOob (spAddress s x) n
    exec (.ldsp x) s = .next (s.put (d.emitS 6 x.ws x.d
      (BitVec.ofNat 64 (bytesNat (s.here.spRead (spAddress s x) n))) 0#10)) ∧
    exec (.stsp x) s = .next (s.put (d.later
      (.spWrite (spAddress s x) (natBytes n (s.here.readS x.d).toNat))))) ∧
  (∀ (x : LVec) (s : State), s.here.executes x.p = true → x.sp = false → vecAddress s x % 64 = 0 →
    let d := s.here.noteOob (vecAddress s x) 2048
    exec (.vld x) s = .next (s.put (d.emitV 6 x.ws (s.here.vDest x.d) (BitVec.allOnes 512)
      (BitVec.ofNat 16384 (bytesNat (s.here.spRead (vecAddress s x) 2048))) [])) ∧
    exec (.vst x) s = .next (s.put (d.later
      (.spWrite (vecAddress s x) (natBytes 2048 (s.here.readV x.d).toNat)))))

/-- R267: gathers and scatters of tile memory, lane by lane (R268 lets neither name the weight store). -/
def Obligations.GatherAndScatter : Prop :=
  ∀ (x : LIdx) (s : State), s.here.executes x.p = true → x.sp = false →
    let n : Nat := 2 ^ x.size.toNat
    let l := s.here.lanes x
    (∀ e ∈ l, e.2 % (n : Int) = 0) →
    let at_ (e : Nat) : Int := ((s.here.readS x.b).toNat : Int) + ((s.here.readV x.x).toNat / 2 ^ (32 * e) % 2 ^ 32 : Nat)
    let new := (List.range 512).map fun e =>
      if (s.here.readK x.k).getLsbD e then bytesNat (s.here.spRead (at_ e) n)
      else (s.here.readV x.d).toNat / 2 ^ (32 * e) % 2 ^ 32
    let put (d : Die) (e : Nat) : Die :=
      if (s.here.readK x.k).getLsbD e then
        d.later (.spWrite (at_ e) (natBytes n ((s.here.readV x.d).toNat / 2 ^ (32 * e)))) else d
    exec (.vldx x) s = .next (s.put ((s.here.noteLanes n l).emitV 6 x.ws (s.here.vDest x.d) (BitVec.allOnes 512)
      (pack 32 new) [])) ∧
    exec (.vstx x) s = .next (s.put ((List.range 512).foldl put (s.here.noteLanes n l)))

/-- R269-R272: strong accesses. After the release that its ordering asks for, the stream gives its own copy
of the line up and sends the request; one that returns a value allocates a landing entry at `ATLAND`. -/
def Obligations.StrongRequests : Prop :=
  (∀ (i : Instr) (x : LStrong) (kind : ReqKind) (al n : Nat) (s u : State), strongRule i = some (x, kind, al, n) →
    s.here.executes x.p = true → strongAddress s x % (al : Int) = 0 → s.here.pipe.landings.length < 32 →
    orderedState x s = some u →
    let v := (u.giveUpLine (strongAddress s x)).sendReq kind (strongAddress s x) n (s.here.readS x.d)
      (if kind = .cas then s.here.readS x.n else 0#64) x.op.toNat x.scope.toNat x.order.toNat none
    exec i s = .next (v.2.put (v.2.here.allocLanding v.1 v.2.here.sr.atland.toNat x.ws (v.2.here.sDest x.d)))) ∧
  (∀ (x : LStrong) (s u : State), s.here.executes x.p = true →
    strongAddress s x % (2 ^ x.size.toNat : Nat) = 0 → orderedState x s = some u →
    exec (.red x) s = .next ((u.giveUpLine (strongAddress s x)).sendReq .red (strongAddress s x) (2 ^ x.size.toNat)
      (s.here.readS x.d) 0#64 x.op.toNat x.scope.toNat x.order.toNat
      (if x.arv then some ((s.here.readS (x.d + 1#6)).toNat % 65536) else none)).2)

/-- R140, R273: a fence completes when the replies and acknowledgements that it waits for are in, and freezes its bundle
while they are not. The place of `FENCE.sc` in the fence order, at its completion, and that no read afterwards misses a
write made before it, are the model's choice (log 18). R274: monitors. -/
def Obligations.FencesAndMonitors : Prop :=
  (∀ (x : LFence) (s : State), s.here.executes x.p = true →
    let out := s.pkg.strongReadsOut s.cur s.here.iss.first
    (out = false → exec (.fenceAcq x) s = .next (roMoved x.ro s)) ∧
    (out = true → exec (.fenceAcq x) s = .next (frozen s .acquire) ∧ exec (.fenceAcqrel x) s = .next (frozen s .acquire) ∧
      exec (.fenceSc x) s = .next (frozen s .acquire)) ∧
    (MustWait x.scope.toNat s → exec (.fenceRel x) s = .next (frozen s .release) ∧
      (out = false → exec (.fenceAcqrel x) s = .next (frozen s .release) ∧
        exec (.fenceSc x) s = .next (frozen s .release))) ∧
    (∀ u, mayRelease x.scope.toNat true s = some u →
      exec (.fenceRel x) s = .next (registersShared x.scope (roMoved x.ro u)) ∧
      (out = false →
        exec (.fenceAcqrel x) s = .next (registersShared x.scope (roMoved x.ro u)) ∧
        exec (.fenceSc x) s = .next ((registersShared x.scope (roMoved x.ro u)).modPkg fun p => { p with late := [] })))) ∧
  (∀ (p : BitVec 5) (b : BitVec 6) (s : State), s.here.executes p = true →
    exec (.fenceRo p) s = .next (roMoved true s) ∧
    (let u := s.sendReq .monitor ((s.here.readS b).toNat % 2 ^ 57 : Nat) 1 0#64 0#64 0 0 0 none
     exec (.mon p b) s = .next (u.2.put { u.2.here with
       cache.mon := none, cache.monArming := some u.1
       cache.monVa := ((s.here.readS b).toNat % 2 ^ 57 : Nat), sr.monstat := s.here.sr.monstat ||| 1#3 })) ∧
    exec (.monOff p b) s = .next (s.put { s.here with
      cache.mon := none, cache.monArming := none, sr.monstat := s.here.sr.monstat &&& 6#3 }))

/-- R117, R276-R283, R305, R326: engine operations are sent with what they read at issue, and the stream
goes on. -/
def Obligations.EngineOperationsAreSent : Prop :=
  (∀ (i : Instr) (x : LEng) (n : Nat) (job : EngineJob) (s : State), engineRule s i = some (x, n, job) →
    s.here.executes x.p = true → (n = 1 ∨ (s.here.readS x.a).toNat % n = 0) → statusAligned s x.s 8 →
    exec i s = .next (engineSent s x.f (statusPlace s x.s) job)) ∧
  (∀ (i : Instr) (x : LLock) (op : Nat) (s : State), lockRule i = some (x, op) → s.here.executes x.p = true →
    statusAligned s x.s 32 →
    exec i s = .next (engineSent s x.f (statusPlace s x.s)
      (.lock op x.mode.toNat (s.here.readS x.a) 0 0#64 0#64))) ∧
  (∀ (p : BitVec 5) (b : BitVec 6) (s : State), s.here.executes p = true → (s.here.readS b).toNat % 128 = 0 →
    let a := (s.here.readS b).toNat
    let desc : BitVec 1024 := BitVec.ofNat 1024 (s.here.spNat a 128)
    exec (.copy p b) s = .next (engineSent s (BitVec.ofNat 5 (fieldAt desc 32 5)) none (.copy
      ⟨desc, s.here.spInside a 128, s.here.tensorRead (fieldAt desc 0 8), s.here.tensorRead (fieldAt desc 8 8),
        s.here.ctl.bank, s.here.sr.ndim.toNat, s.here.sr.present, s.here.physDim (fieldAt desc 40 5)⟩))) ∧
  (∀ (x : XArgs) (s : State), s.here.executes x.p = true → s.here.handler = false →
    (s.here.readS x.arg).toNat % 64 = 0 →
    let a := (s.here.readS x.arg).toNat
    exec (.chw x) s = .next (engineSent s x.f none (.chw x.ch.toNat a)))

namespace Sys2Proof.Claims
open Sys2Proof.Machine

/-! Vector operands. -/

/-- The vector of an input port for this bundle, and the state after its read: a port already read in the bundle
answers the same vector, an ARMED one gives its oldest present vector up (R60, R222). -/
def portVector (j : BitVec 2) (s : State) : Option (Vec × State) :=
  let d := s.here
  if d.handler = true then none
  else match d.iss.popped.find? (·.1 == j.toNat) with
    | some e => some (e.2, s)
    | none => match Store.get none d.tab.inp j.toNat with
      | none => none
      | some x =>
        if x.drained = true ∨ x.armed = false then none
        else (x.ready s.pkg.clk).map fun v => (v, s.put { d with
          tab.inp := Store.set none d.tab.inp j.toNat (some x.pop)
          iss.popped := d.iss.popped ++ [(j.toNat, v)] })

/-- A vector operand of a type and the state after its read; none where the read is `ILLEGAL` or waits (R161, R221). -/
def vecOperand (ty : VType) (s : State) : VSrc → Option (Vec × State)
  | .reg r => some (s.here.readV r, s)
  | .imm i => some (splat (vWidth ty) (immPat ty i), s)
  | .latch q => some (s.here.readQ q, s.put (s.here.noteLatch q))
  | .port j => portVector j s

/-- Two vector operands, the first read first. -/
def vecOperands (ty : VType) (s : State) (a b : VSrc) : Option (Vec × Vec × State) :=
  (vecOperand ty s a).bind fun x => (vecOperand ty x.2 b).map fun y => (x.1, y.1, y.2)

/-- An output port may take a vector that lands in `lat` cycles: armed, not drained, addresses left, no other vector
landing with it; and the die with the vector sent (R60, R236). -/
def OutReady (d : Die) (y lat : Nat) (o : OutPort) : Prop :=
  d.handler = false ∧ Store.get none d.tab.outp y = some o ∧ o.armed = true ∧ o.drained = false ∧
  o.given < seqLength o.cnt ∧ ∀ q ∈ d.tab.outq, q.port = y → q.land = d.now + lat → q.landed = true
def sentTo (d : Die) (y lat : Nat) (o : OutPort) (v : Vec) : Die :=
  let q : OutVec := ⟨y, d.now, d.now + lat, seqAddr o.base o.cnt o.str o.given, v, o.given + 1 == seqLength o.cnt, o.arming,
    false⟩
  { d with tab.outp := Store.set none d.tab.outp y (some { o with given := o.given + 1 }),
           tab.outq := d.tab.outq ++ [q] }

/-- The source of an M slot. -/
def matOperand (s : State) : MSrc → Option (Vec × State)
  | .reg r => some (s.here.readV r, s)
  | .latch q => some (s.here.readQ q, s.put (s.here.noteLatch q))
  | .port j => portVector j s

/-- Element `e` of a register of elements of a width, and as an integer of a type (R55, R223). -/
def element (w : Nat) (v : Vec) (e : Nat) : Nat := v.toNat / 2 ^ (w * e) % 2 ^ w
def elemInt (ty : VType) (x : Nat) : Int :=
  if vSigned ty = true ∧ 2 ^ (vWidth ty - 1) ≤ x then (x : Int) - 2 ^ vWidth ty else x

/-- The pattern of an integer kept to a type's width, and clamped to its range with `SAT` (R225). -/
def wrapped (ty : VType) (i : Int) : Nat × BitVec 10 := ((i % 2 ^ vWidth ty).toNat, 0#10)
def clamped (ty : VType) (i : Int) : Nat × BitVec 10 :=
  let lo : Int := if vSigned ty then -2 ^ (vWidth ty - 1) else 0
  let hi : Int := if vSigned ty then 2 ^ (vWidth ty - 1) - 1 else 2 ^ vWidth ty - 1
  if i < lo then ((lo % 2 ^ vWidth ty).toNat, 256#10) else if hi < i then (hi.toNat, 256#10)
  else ((i % 2 ^ vWidth ty).toNat, 0#10)

/-- A floating operation of a type rounded once, or an integer one (R224, R225). -/
def floatOr (ty : VType) (r : Rule) (fop : FVal → FVal → FVal × BitVec 10) (iop : Int → Int → Nat × BitVec 10)
    (x y : Nat) : Nat × BitVec 10 :=
  match vFmt ty with
  | some f =>
    let v := fop (f.dec x) (f.dec y)
    let p := f.settle r v.1
    (p.1, v.2 ||| p.2)
  | none => iop (elemInt ty x) (elemInt ty y)

/-- The lane-by-lane instructions with two sources: latency, and the element each pair of elements gives under the
rounding rule in force (R224, R225). -/
def laneRule : Instr → Option (VArgs × Nat × (Rule → Nat → Nat → Nat × BitVec 10))
  | .vadd x => some (x, 2, fun r a b => floatOr x.ty r (fun u v => u.add r.rm v) (fun i j => wrapped x.ty (i + j)) a b)
  | .vsub x => some (x, 2, fun r a b =>
      floatOr x.ty r (fun u v => u.add r.rm v.neg) (fun i j => wrapped x.ty (i - j)) a b)
  | .vmul x => some (x, 4, fun r a b => floatOr x.ty r (fun u v => u.mul v) (fun i j => wrapped x.ty (i * j)) a b)
  | .vmulh x => some (x, 4, fun r a b =>
      floatOr x.ty r (fun u _ => (u, 0#10)) (fun i j => wrapped x.ty (i * j / 2 ^ vWidth x.ty)) a b)
  | .vadds x => some (x, 2, fun _ a b => clamped x.ty (elemInt x.ty a + elemInt x.ty b))
  | .vsubs x => some (x, 2, fun _ a b => clamped x.ty (elemInt x.ty a - elemInt x.ty b))
  | .vmin x => some (x, 2, fun _ a b => match vFmt x.ty with
      | some f => (f.minPat a b, 0#10)
      | none => wrapped x.ty (min (elemInt x.ty a) (elemInt x.ty b)))
  | .vmax x => some (x, 2, fun _ a b => match vFmt x.ty with
      | some f => (f.maxPatOf a b, 0#10)
      | none => wrapped x.ty (max (elemInt x.ty a) (elemInt x.ty b)))
  | .vand x => some (x, 2, fun _ a b => (a &&& b, 0#10))
  | .vor x => some (x, 2, fun _ a b => (a ||| b, 0#10))
  | .vxor x => some (x, 2, fun _ a b => (a ^^^ b, 0#10))
  | .vshl x => some (x, 2, fun _ a b => (a * 2 ^ (b % vWidth x.ty) % 2 ^ vWidth x.ty, 0#10))
  | .vshr x => some (x, 2, fun _ a b => (a / 2 ^ (b % vWidth x.ty), 0#10))
  | .vsra x => some (x, 2, fun _ a b =>
      wrapped x.ty ((if 2 ^ (vWidth x.ty - 1) ≤ a then (a : Int) - 2 ^ vWidth x.ty else a) / 2 ^ (b % vWidth x.ty)))
  | _ => none

/-- The lane-by-lane instructions with one source (R224-R226, R232). -/
def laneRuleOne : Instr → Option (VOne × Nat × (Nat → Nat × BitVec 10))
  | .vabs x => some (x, 2, fun a => match vFmt x.ty with
      | some f => (if (f.dec a).isNan then f.nanPat else a % f.signBit, 0#10)
      | none => wrapped x.ty |elemInt x.ty a|)
  | .vneg x => some (x, 2, fun a => match vFmt x.ty with
      | some f => (if (f.dec a).isNan then f.nanPat else (a + f.signBit) % (2 * f.signBit), 0#10)
      | none => wrapped x.ty (-elemInt x.ty a))
  | .vmov x => some (x, 2, fun a => (a, 0#10))
  | .vexp2 x => some (x, 8, viaF32 x.ty fexp2)
  | .vlog2 x => some (x, 8, viaF32 x.ty flog)
  | .vrcp x => some (x, 8, viaF32 x.ty frcp)
  | .vrsq x => some (x, 8, viaF32 x.ty frsq)
  | _ => none

/-- The list of a result's elements from its element function. -/
def perElement (w : Nat) (f : Nat → Nat × BitVec 10) : List (Nat × BitVec 10) := (List.range (16384 / w)).map f

/-- The operands of a fused multiply-add and its sign (R224). -/
def fusedRule : Instr → Option (VArgs × Bool)
  | .vfma x => some (x, false)
  | .vfms x => some (x, true)
  | _ => none

/-- One element of a fused multiply-add: one rounding (R224). -/
def fusedElement (f : FFmt) (r : Rule) (neg : Bool) (a b c : Nat) : Nat × BitVec 10 :=
  let v := FVal.fma r.rm (if neg then (f.dec a).neg else f.dec a) (f.dec b) (f.dec c)
  let p := f.settle r v.1
  (p.1, v.2 ||| p.2)

/-- The mask instructions with a mask result (R237). -/
def maskRule : Instr → Option (KArgs × (Mask → Mask → Mask))
  | .kand x => some (x, fun a b => a &&& b)
  | .kor x => some (x, fun a b => a ||| b)
  | .knot x => some (x, fun a _ => ~~~a)
  | _ => none

/-- The reductions of a sum, a maximum and a minimum over floating elements: the F32 step and the value a masked element
enters as; over integers: the step and the value (R97, R229). -/
def reductionRule : Instr →
    Option (VOne × (Nat → Nat → Nat × BitVec 10) × FVal × (Int → Int → Int) × (Bool → Nat → Int))
  | .vrsum x => some (x, addStep, .fin true 0 0, fun i j => i + j, fun _ _ => 0)
  | .vrmax x => some (x, fun a b => (FFmt.f32.maxPatOf a b, 0#10), .inf true, fun i j => max i j,
      fun sg w => if sg then -2 ^ (w - 1) else 0)
  | .vrmin x => some (x, fun a b => (FFmt.f32.minPat a b, 0#10), .inf false, fun i j => min i j,
      fun sg w => if sg then 2 ^ (w - 1) - 1 else 2 ^ w - 1)
  | _ => none

/-! Engine slots. -/

/-- An M operation may run: it executes outside handler state, and its slot has raised nothing. -/
def MatrixReady (s : State) (x : MArgs) : Prop :=
  s.here.executes x.p = true ∧ s.here.handler = false ∧ s.here.iss.trap = none

/-- The state and the shape record of an M operation after its swap (R61, R249). -/
def swapped (s : State) (x : MArgs) : State := s.put (s.here.swapIf x.sw s.here.iss.unit x.r.toNat)
def shapeOf (s : State) (x : MArgs) : MShape := (swapped s x).here.mshape s.here.iss.unit x.r.toNat

/-- Work on its way in the matrix pipelines. -/
def withWork (d : Die) (lat : Nat) (w : MWork) : Die :=
  { d with pipe.mdue := d.pipe.mdue ++ [⟨d.now + lat, w⟩] }

/-- A T operation may run, its swap, a field of its shape record. -/
def TransformReady (s : State) (x : TArgs) : Prop :=
  s.here.executes x.p = true ∧ s.here.handler = false ∧ s.here.iss.trap = none
def tSwapped (s : State) (x : TArgs) : State := s.put (s.here.swapIf x.sw 2 x.r.toNat)
def tField (s : State) (x : TArgs) (f : Nat) : Nat := ((tSwapped s x).here.shape 2 x.r.toNat f).toNat

/-- The exchange instructions by opcode (R285). -/
def exchangeRule : Instr → Option (XArgs × Nat × Bool)
  | .xch x => some (x, 1, false)
  | .xcb x => some (x, 2, false)
  | .xsib x => some (x, 3, false)
  | .xring x => some (x, 4, false)
  | .xsend x => some (x, 5, false)
  | .xrecv x => some (x, 6, false)
  | .xfan x => some (x, 7, false)
  | .xbar x => some (x, 8, false)
  | .xbarSwap x => some (x, 8, true)
  | _ => none

/-- The exchange that an instruction forms, after its swap (R61, R286). -/
def xSwapped (s : State) (x : XArgs) : State := s.put (s.here.swapIf x.sw 3 x.r.toNat)
def formed (s : State) (x : XArgs) (op : Nat) (sw : Bool) : Exchange := (xSwapped s x).here.formExchange x op sw

/-- `AUTOINC` of its shape record. -/
def autoinc (s : State) (x : XArgs) : Bool := ((xSwapped s x).here.shape 3 x.r.toNat 3).getLsbD 0

/-- The subcube allows the exchange (R312): a pairwise dimension below `NDIM`, a mask or a rank within the subcube, a ring
over some dimension, a swap over all of them. -/
def SubcubeAllows (e : Exchange) : Prop :=
  (e.opcode ≤ 3 ∨ e.opcode = 5 ∨ e.opcode = 6 → e.dim < e.ndim) ∧
  (e.opcode = 4 → e.mask ≠ 0 ∧ e.mask < 2 ^ e.ndim) ∧
  (e.opcode = 7 → e.mask / 2 ^ 16 % 2 ^ 24 < 2 ^ e.ndim) ∧
  (e.opcode = 8 → e.mask < 2 ^ e.ndim) ∧
  (e.swap = true → e.mask = 2 ^ e.ndim - 1)

end Sys2Proof.Claims

open Sys2Proof Sys2Proof.Machine Sys2Proof.Claims

/-- R55, R223-R225: the two-source vector instructions, element by element, under the mask in force.
R224-R226, R232: the one-source vector instructions and the fused multiply-adds. -/
def Obligations.LaneResults : Prop :=
  (∀ (i : Instr) (x : VArgs) (lat : Nat) (f : Rule → Nat → Nat → Nat × BitVec 10) (s t : State) (a b : Vec),
     laneRule i = some (x, lat, f) → s.here.executes x.p = true → vecOperands x.ty s x.a x.b = some (a, b, t) →
     exec i s = .next (t.put (t.here.emitElems lat x.ws (t.here.vDest x.d) (t.here.readK x.k) (vWidth x.ty)
       (perElement (vWidth x.ty) fun e => f t.here.rule (element (vWidth x.ty) a e) (element (vWidth x.ty) b e))))) ∧
  ((∀ (i : Instr) (x : VOne) (lat : Nat) (f : Nat → Nat × BitVec 10) (s t : State) (a : Vec),
     laneRuleOne i = some (x, lat, f) → s.here.executes x.p = true → vecOperand x.ty s x.a = some (a, t) →
     exec i s = .next (t.put (t.here.emitElems lat x.ws (t.here.vDest x.d) (t.here.readK x.k) (vWidth x.ty)
       (perElement (vWidth x.ty) fun e => f (element (vWidth x.ty) a e))))) ∧
   (∀ (i : Instr) (x : VArgs) (neg : Bool) (fmt : FFmt) (s t : State) (a b : Vec),
     fusedRule i = some (x, neg) → vFmt x.ty = some fmt → s.here.executes x.p = true →
     vecOperands x.ty s x.a x.b = some (a, b, t) →
     exec i s = .next (t.put (t.here.emitElems 4 x.ws (t.here.vDest x.d) (t.here.readK x.k) (vWidth x.ty)
       (perElement (vWidth x.ty) fun e => fusedElement fmt t.here.rule neg (element (vWidth x.ty) a e)
         (element (vWidth x.ty) b e) (element (vWidth x.ty) (s.here.readV x.d) e))))))

/-- R187, R226, R228: comparison to a mask, selection, permutation, rotation, index sequences. R226, R227,
R236, R237: broadcast, extraction, insertion, output ports and masks. -/
def Obligations.VectorArrangement : Prop :=
  ((∀ (x : VCmpArgs) (s t : State) (a b : Vec), s.here.executes x.p = true →
     vecOperands x.ty s x.a x.b = some (a, b, t) →
     exec (.vcmp x) s = .next (t.put (t.here.emitV 2 x.ws (Die.kDest x.d) (t.here.readK x.k)
       (BitVec.ofNat 16384 (((List.range 512).filter fun e =>
         vcmpTest x.ty x.c.toNat (element 32 a e) (element 32 b e)).map (2 ^ ·)).sum) []))) ∧
   (∀ (x : VArgs) (s t : State) (a b : Vec), s.here.executes x.p = true →
     vecOperands x.ty s x.a x.b = some (a, b, t) →
     let w := vWidth x.ty
     let n := 16384 / w
     let d := t.here
     let emit (lat : Nat) (m : Mask) (f : Nat → Nat) : Out :=
       .next (t.put (d.emitV lat x.ws (d.vDest x.d) m (pack w ((List.range n).map f)) []))
     exec (.vsel x) s = emit 2 (BitVec.allOnes 512)
       (fun e => element w (if (d.readK x.k).getLsbD (w * e / 32) then a else b) e) ∧
     exec (.vperm x) s = emit 4 (d.readK x.k) (fun e => element w a (element w b e % n)) ∧
     exec (.vrotl x) s = emit 4 (d.readK x.k) (fun e => element w a ((e + element w b 0) % n)) ∧
     exec (.viota x) s = emit 2 (d.readK x.k) (fun e => (element w a e + e * element w b e) % 2 ^ w))) ∧
  ((∀ (x : VBcastArgs) (s : State), s.here.executes x.p = true →
     let t := readDone s [x.a]
     exec (.vbcast x) s = .next (t.put (t.here.emitV 2 x.ws (t.here.vDest x.d) (t.here.readK x.k)
       (pack (vWidth x.ty) ((List.range (16384 / vWidth x.ty)).map fun _ => (s.here.src x.a).toNat % 2 ^ vWidth x.ty))
       []))) ∧
   (∀ (x : VExtArgs) (s t : State) (a : Vec), s.here.executes x.p = true → vecOperand x.ty s x.a = some (a, t) →
     let w := vWidth x.ty
     let e := element w a ((t.here.src x.b).toNat % (16384 / w))
     exec (.vexts x) s = .next (scalarDone t [x.b] 3 x.ws x.d (BitVec.ofInt 64 (elemInt x.ty e)) 0#10)) ∧
   (∀ (x : VInsArgs) (s : State), s.here.executes x.p = true →
     let w := vWidth x.ty
     let n := 16384 / w
     let t := readDone s [x.a, x.b]
     exec (.vinss x) s = .next (t.put (t.here.emitV 3 x.ws (t.here.vDest x.d) (BitVec.allOnes 512)
       (pack w ((List.range n).map fun e => if e = (s.here.src x.b).toNat % n then (s.here.src x.a).toNat % 2 ^ w
         else element w (s.here.readV x.d) e)) []))) ∧
   (∀ (i : Instr) (x : KArgs) (f : Mask → Mask → Mask) (s : State), maskRule i = some (x, f) →
     s.here.executes x.p = true →
     exec i s = .next (s.put (s.here.emitV 2 x.ws (Die.kDest (x.d.setWidth 3)) (BitVec.allOnes 512)
       (BitVec.ofNat 16384 (f (s.here.readK x.a) (s.here.readK x.b)).toNat) []))) ∧
   (∀ (x : KArgs) (s : State), s.here.executes x.p = true →
     exec (.kpopc x) s = .next (scalarDone s [] 2 x.ws x.d
       (BitVec.ofNat 64 (((List.range 512).filter fun i => (s.here.readK x.a).getLsbD i).length)) 0#10)) ∧
   (∀ (x : VOutArgs) (s t : State) (a : Vec) (o : OutPort), s.here.executes x.p = true →
     vecOperand x.ty s x.a = some (a, t) → OutReady t.here x.y.toNat 2 o →
     let v := merge (t.here.readK x.k) a 0#16384
     exec (.vout x) s = .next (t.put ((sentTo t.here x.y.toNat 2 o v).emitV 2 false .none (BitVec.allOnes 512) v []))))

/-- R97, R98, R229-R231: reductions and scans. The tree of a floating reduction, and its flags, are those of
R97. -/
def Obligations.ReductionResults : Prop :=
  (∀ (i : Instr) (x : VOne) (fop : Nat → Nat → Nat × BitVec 10) (fid : FVal) (iop : Int → Int → Int)
    (iid : Bool → Nat → Int) (s t : State) (a : Vec), reductionRule i = some (x, fop, fid, iop, iid) →
    s.here.executes x.p = true → vecOperand x.ty s x.a = some (a, t) →
    let w := vWidth x.ty
    let m := t.here.readK x.k
    let emit (v : Nat) (fl : List (BitVec 10)) : Out :=
      .next (t.put (t.here.emitV 10 x.ws (t.here.vDest x.d) m (splat w v) fl))
    (∀ f, vFmt x.ty = some f → exec i s = emit (reduceFloat f m fop fid a).1 (reduceFloat f m fop fid a).2) ∧
    (vFmt x.ty = none → exec i s = emit (wrapped x.ty (((List.range (16384 / w)).map fun e =>
      if m.getLsbD (w * e / 32) then elemInt x.ty (element w a e) else iid (vSigned x.ty) w).foldl iop
        (iid (vSigned x.ty) w))).1 [])) ∧
  (∀ (x : VOne) (s t : State) (a : Vec), s.here.executes x.p = true → vecOperand x.ty s x.a = some (a, t) →
    let w := vWidth x.ty
    let m := t.here.readK x.k
    let emit (lat : Nat) (v : Vec) (fl : List (BitVec 10)) : Out :=
      .next (t.put (t.here.emitV lat x.ws (t.here.vDest x.d) m v fl))
    exec (.vargmax x) s = emit 10 (splat 32 (argmax x.ty m a)) [] ∧
    (∀ f, vFmt x.ty = some f → exec (.vscan x) s =
      emit 12 (pack w ((scanFloat f m a).map (·.1))) ((scanFloat f m a).map (·.2))) ∧
    (vFmt x.ty = none → ∃ r : List Nat, r.length = 16384 / w ∧
      (∀ e < 16384 / w, r.getD e 0 = (((List.range (e + 1)).map fun j =>
        if m.getLsbD (w * j / 32) then element w a j else 0).sum) % 2 ^ w) ∧
      exec (.vscan x) s = emit 12 (pack w r) (List.replicate (16384 / w) 0#10)))

/-- R188, R233-R235: conversions, packing and unpacking. That an immediate of `VPACK` and `VCVT` takes the source type of the
conversion, and is rounded where it has no exact value, is the model's choice (log 40); so is the canonical NaN of a
conversion (log 28). -/
def Obligations.VectorConversions : Prop :=
  (∀ (x : VCvtArgs) (s t : State) (a : Vec), s.here.executes x.p = true →
    vecOperand (vcvtSource x.c.toNat) s x.a = some (a, t) →
    exec (.vcvt x) s = .next (t.put (t.here.emitElems 3 x.ws (t.here.vDest x.d) (t.here.readK x.k) 32
      (perElement 32 fun e => (vcvtPair x.c.toNat).run t.here.rule (element 32 a e))))) ∧
  (∀ (x : VArgs) (s t : State) (a b : Vec), x.ty.isPack = true → s.here.executes x.p = true →
    vecOperands (packFrom x.ty).1 s x.a x.b = some (a, b, t) →
    let w := vWidth x.ty
    let n := 16384 / (2 * w)
    exec (.vpack x) s = .next (t.put (t.here.emitElems 3 x.ws (t.here.vDest x.d) (t.here.readK x.k) w
      (perElement w fun e => (packFrom x.ty).2.run t.here.rule
        (if e < n then element (2 * w) a e else element (2 * w) b (e - n)))))) ∧
  (∀ (x : VUnpkArgs) (s t : State) (a : Vec), x.ty.isUnpack = true → s.here.executes x.p = true →
    vecOperand x.ty s x.a = some (a, t) →
    let w := vWidth x.ty
    let n := 16384 / w / 2
    exec (.vunpk x) s = .next (t.put (t.here.emitV 3 x.ws (t.here.vDest x.d) (t.here.readK x.k)
      (pack (2 * w) ((List.range n).map fun e =>
        let y := element w a (if x.h then n + e else e)
        match x.ty with
        | .bf16 => if (FFmt.bf16.dec y).isNan then FFmt.f32.nanPat else y * 2 ^ 16
        | .f16 => (FFmt.f32.round .fixed (FFmt.f16.dec y)).1
        | _ => (wrapped (if w = 16 then .i32 else .i16) (elemInt x.ty y)).1)) [])))

/-- R249-R256, R259: the matrix slots that swap, clear and push: what they put into the matrix pipelines and
the cursor each advances; a masked clear or push, with nothing left of its extent, has its swap alone. -/
def Obligations.MatrixPushResults : Prop :=
  ∀ (x : MArgs) (s : State), MatrixReady s x →
    let unit := s.here.iss.unit
    let f := shapeOf s x
    let s1 := swapped s x
    (exec (.mswapw x) s = .next (s1.put (withWork s1.here 1 (.swap unit)))) ∧
    (f.rowlim ≤ f.rowcur → exec (.mclr x) s = .next s1) ∧
    (f.rowcur < f.rowlim → exec (.mclr x) s = .next (s1.put
      (withWork (s1.here.advanceField unit x.r.toNat 3 (BitVec.ofNat 32 (f.rowcur + 1))) 1
        (.clear unit ((f.accbase + x.row.toNat + f.rowcur * f.accinc) % 2048))))) ∧
    (∀ m, f.mode = some m → s1.here.scaleTensorOk m f.wsct = true →
      (f.planeRows m ≤ f.pushcur → ∀ src, exec (.mpush x src) s = .next s1) ∧
      (f.planeRows m ≤ f.pushcur → f.wsaddr % 64 = 0 → exec (.mpushw x) s = .next s1) ∧
      (f.pushcur < f.planeRows m →
        (∀ src v t, matOperand s1 src = some (v, t) →
          exec (.mpush x src) s = .next (sendRow unit x.r.toNat m f v.toNat t)) ∧
        (f.wsaddr % 64 = 0 → wsRefreshing s.pkg.clk f.wsaddr 512 = false →
          exec (.mpushw x) s = .next (sendRow unit x.r.toNat m f (bytesNat (s1.here.wsRead f.wsaddr 512))
            (s1.put ((s1.here.noteOff (wsOffending f.wsaddr 512)).advanceField unit x.r.toNat 13
              (BitVec.ofNat 32 f.wsaddr + f.wsstr)))))))

/-- R249, R256-R260: the matrix slots that multiply and drain, for every destination and drain control. -/
def Obligations.MatrixBeatResults : Prop :=
  ∀ (x : MArgs) (s : State), MatrixReady s x →
    let unit := s.here.iss.unit
    let f := shapeOf s x
    let s1 := swapped s x
    let row := (f.accbase + x.row.toNat + f.rowcur * f.accinc) % 2048
    (∀ m src, f.mode = some m → s1.here.scaleTensorOk m f.asct = true → f.rowlim ≤ f.rowcur →
      (∀ v t j, src = .port j → matOperand s1 src = some (v, t) →
        exec (.mmul x src) s = .next t ∧ exec (.macc x src) s = .next t) ∧
      ((∀ j, src ≠ .port j) → exec (.mmul x src) s = .next s1 ∧ exec (.macc x src) s = .next s1)) ∧
    (∀ m src v t, f.mode = some m → s1.here.scaleTensorOk m f.asct = true → matOperand s1 src = some (v, t) →
      (f.rowcur < f.rowlim →
        let act := t.here.scaleRecords m f.asct ((List.range ((f.kext + 31) / 32)).map fun g => (g, f.rowcur))
        let tot := beatTotals t.here f m (t.here.activePlane unit) v.toNat act.1
        let work (acc : Bool) : MWork := .beat unit row f.next acc (pack 32 (tot.map fun e => e.1))
          (flagStore (tot.map fun e => e.2)) t.here.now t.here.ctl.pc t.here.iss.slot.num
        let d := (t.here.noteOff act.2).advanceField unit x.r.toNat 3 (BitVec.ofNat 32 (f.rowcur + 1))
        exec (.mmul x src) s = .next (t.put (withWork d 1030 (work false))) ∧
        exec (.macc x src) s = .next (t.put (withWork d 1030 (work true))))) ∧
    (∀ w conv, drainConv f.ofmt = some (w, conv) → f.drctl < 2 →
      let out := perElement 32 fun e => conv (element 32 (Store.get 0#16384 s1.here.arr.acc (unit * 2048 + row)) e)
      let flags := out.map fun e => e.2
      let v := pack w (out.map fun e => e.1)
      let ends (u : State) (dest : Dest) : Out :=
        let d1 := (u.here.emitV 8 false dest (BitVec.allOnes 512) v []).advanceField unit x.r.toNat 3
          (BitVec.ofNat 32 (f.rowcur + 1))
        let d2 := if orFlags flags = 0#10 then d1
          else (d1.records flags).foldl Die.pushStat (d1.later (.status (orFlags flags)))
        .next (u.put (if f.drctl = 1 then withWork d2 1 (.clear unit row) else d2))
      (∀ r, f.rowlim ≤ f.rowcur → exec (.mdrain x (.reg r)) s = .next s1) ∧
      (∀ y o, f.rowlim ≤ f.rowcur → Store.get none s1.here.tab.outp y.toNat = some o → o.armed = true →
        o.drained = false → exec (.mdrain x (.port y)) s = .next s1) ∧
      (∀ r, f.rowcur < f.rowlim → exec (.mdrain x (.reg r)) s = ends s1 (s1.here.vDest r)) ∧
      (∀ y o, f.rowcur < f.rowlim → OutReady s1.here y.toNat 8 o →
        exec (.mdrain x (.port y)) s = ends (s1.put (sentTo s1.here y.toNat 8 o v)) .none))

/-- R239-R243: the transform slots that convert, and the quantiser with and without a tensor for its scales. -/
def Obligations.TransformResults : Prop :=
  ∀ (x : TArgs) (s : State), TransformReady s x →
    let t := tSwapped s x
    let d := t.here
    (exec (.tcvt x) s = .next (t.put (d.emitElems 3 false (d.vDest x.d) (BitVec.allOnes 512) 32
      (perElement 32 fun e => (vcvtPair (x.fmt.toNat % 32)).run d.rule (element 32 (d.readV x.s) e))))) ∧
    (tField s x 0 = 0 → tField s x 1 < 3 →
      exec (.texp x) s = .next (t.put (d.emitElems 4 false (d.vDest x.d) (BitVec.allOnes 512) 32
        (perElement 32 fun e => texpLane (tField s x 1) (element 32 (d.readV x.s) e))))) ∧
    (tField s x 0 = 0 → tField s x 1 = 5 → tField s x 2 = 32 → d.quantTensorOk (tField s x 3) = true →
      let np := min 16 (tField s x 4)
      let blocks := quantBlocks np (elems 32 (d.readV x.s))
      let flags := blocks.flatMap fun b => b.2.2
      let record (j : Nat) : Option ScaleDue := ((blocks[j]?).bind fun b => b.2.1).map fun r =>
        ⟨d.now, d.now + 7, (d.tensorRead (tField s x 3)).addr [tField s x 6 + j * tField s x 7], natBytes 2 r,
          tField s x 6 + j * tField s x 7 < (d.tensorRead (tField s x 3)).ext 0⟩
      ∃ u, exec (.tqnt x) s = .next u ∧ u.here.regs = d.regs ∧
        u.here.pipe.scales = d.pipe.scales ++
          (if tField s x 3 = 256 then [] else (List.range 16).filterMap record) ∧
        u.here.pipe.due = d.pipe.due ++ [⟨d.now + 7, d.now, d.vDest x.d, false, BitVec.allOnes 512,
          putBits (d.readV x.d) (2048 * (x.fmt.toNat % 8)) 2048
            (blocks.zipIdx.foldl (fun v b => v + b.1.1 * 2 ^ (128 * b.2)) 0),
          d.iss.slot.latch, orFlags flags, d.records flags, []⟩])

/-- R244-R246: the transposer takes blocks and gives their transposes. -/
def Obligations.TransposerResults : Prop :=
  ∀ (x : TArgs) (s : State), TransformReady s x →
    let t := tSwapped s x
    let d := t.here
    let wid := x.fmt.toNat % 4
    let v := (d.readV x.s).toNat
    let taken (block : Nat) : Out := .next (t.put { d with arr.trans := { d.arr.trans with
      part := none, pipe := d.arr.trans.pipe ++ [(d.now + 33, wid, BitVec.ofNat 32768 block)] } })
    let given (out : Vec) : Die := d.emitV 1 false (d.vDest x.d) (BitVec.allOnes 512) out []
    let cell (w : Nat) (b : BitVec 32768) (e : Nat) : Nat := b.toNat / 2 ^ (w * (32 * (e % 32) + e / 32)) % 2 ^ w
    (wid = 0 → d.arr.trans.part = none →
      exec (.ttrni x) s = .next (t.put { d with arr.trans := { d.arr.trans with part := some (d.readV x.s) } })) ∧
    (wid = 0 → ∀ lo, d.arr.trans.part = some lo → exec (.ttrni x) s = taken (lo.toNat + v * 2 ^ 16384)) ∧
    (wid = 1 → d.arr.trans.part = none → x.fmt.getLsbD 2 = false → exec (.ttrni x) s = taken v) ∧
    (wid = 2 → d.arr.trans.part = none →
      exec (.ttrni x) s = taken (if x.fmt.getLsbD 2 then v / 2 ^ 8192 else v % 2 ^ 8192)) ∧
    (∀ b, d.arr.trans.out = some (wid, b) →
      (wid = 0 → exec (.ttrno x) s = .next (t.put { given (pack 32 ((List.range 512).map fun e =>
        cell 32 b (if d.arr.trans.half then 512 + e else e))) with arr.trans.half := !d.arr.trans.half })) ∧
      (wid = 1 → exec (.ttrno x) s = .next (t.put (given (pack 16 ((List.range 1024).map (cell 16 b)))))) ∧
      (wid = 2 → exec (.ttrno x) s = .next (t.put (given (pack 8 ((List.range 2048).map fun e =>
        if x.fmt.getLsbD 2 = decide (1024 ≤ e) then cell 8 b (e % 1024) else element 8 (d.readV x.d) e))))))

/-- R286-R289, R302, R304, R306, R312: an exchange that the subcube and the alignment rules allow takes the
next number of its numbering and joins the engine operations, formed as its slot found it. -/
def Obligations.ExchangesAreSent : Prop :=
  ∀ (i : Instr) (x : XArgs) (op : Nat) (sw : Bool) (s : State), exchangeRule i = some (x, op, sw) →
    s.here.executes x.p = true → s.here.handler = false → s.here.iss.trap = none →
    let e := formed s x op sw
    SubcubeAllows e → e.misaligned (autoinc s x) = none →
    let key := numberKey s.here.sr.kernid.toNat s.cur op e.ch e.dim e.mask
    let n := if op = 7 then 0 else Store.get 0 s.pkg.numbers key
    ∃ t, exec i s = .next t ∧ t.here.regs = s.here.regs ∧ t.here.iss.trap = none ∧
      t.pkg.nextId = s.pkg.nextId + 1 ∧
      t.pkg.numbers = (if op = 7 then s.pkg.numbers else Store.set 0 s.pkg.numbers key (n + 1)) ∧
      t.pkg.engines = s.pkg.engines ++ [⟨s.pkg.nextId, s.cur, s.here.sr.kernid.toNat, s.here.sr.regionid.toNat,
        s.here.sr.partid.toNat, s.here.sr.rcbaddr.toNat, x.f.toNat, s.here.now, none, .exchange { e with number := n }, .sent,
        Progress.none, none, [], false⟩]

namespace Sys2Proof.Claims
open Sys2Proof.Machine

/-! Encodings. -/

/-- The rows of the opcode table that share one word with `KWR DIESTATE.fence`: the value written, in a register, tells
them apart (R354). -/
def sharesItsWord : Instr → Bool
  | .kwrDiestateReset _ | .kwrDiestateAdmit _ | .kwrTqctl _ | .kwrArrctr _ | .kwrBarctl _ => true
  | _ => false

/-- The predicate field of a slot instruction that its predicate guards (R160); that of `SEL` selects. -/
def predicateOf : Instr → Option (BitVec 5)
  | .snop p | .cnop p | .ret p | .ifence p | .tret p | .sleept p | .kcall p | .brkpt p | .eret p | .lnop p
  | .fenceRo p | .vnop p | .mnop p | .tnop p | .xnop p => some p
  | .add x | .sub x | .and x | .or x | .xor x | .andn x | .shl x | .shr x | .sra x | .rotr x | .mul x | .mulh x
  | .mulhz x | .div x | .divz x | .rem x | .remz x | .min x | .max x | .minz x | .maxz x | .ext x
  | .ins x | .fadd x | .fsub x | .fmul x | .fmin x | .fmax x => some x.p
  | .cmp x | .fcmp x => some x.p
  | .movi x | .movh x => some x.p
  | .popc x | .clz x | .ctz x | .brev x | .gray x | .igray x | .partner x | .krd x => some x.p
  | .fcvt x => some x.p
  | .pand x | .por x | .pxor x => some x.p
  | .srd p _ _ _ | .tidw p _ _ _ | .agw p _ _ _ | .loop p _ _ _ | .brf p _ _ _ => some p
  | .swr p _ _ | .bloop p _ _ | .wait p _ _ => some p
  | .shw p _ _ _ _ | .tidr p _ _ _ _ => some p
  | .flgs x | .flgc x | .ctxsv x | .ctxrs x | .lkmw x => some x.p
  | .kwrDiestateFence x | .kwrDiestateReset x | .kwrDiestateAdmit x | .kwrTqctl x | .kwrArrctr x | .kwrBarctl x
  | .tlbinv x | .rtbw x => some x.p
  | .br p _ | .jmp p _ | .call p _ | .brsw p _ | .trap p _ | .halt p _ | .mwait p _ | .kstopKill p _
  | .kstopFault p _ | .kstopDesched p _ | .mon p _ | .monOff p _ | .copy p _ => some p
  | .ld x | .st x | .ldro x => some x.p
  | .ldsp x | .stsp x => some x.p
  | .vld x | .vst x => some x.p
  | .vldx x | .vstx x => some x.p
  | .atom x | .cas x | .red x | .heapins x => some x.p
  | .fenceAcq x | .fenceRel x | .fenceAcqrel x | .fenceSc x => some x.p
  | .take x | .enqt x | .enqtClose x | .arrive x | .arriveSet x | .barinit x | .bararv x | .enql x => some x.p
  | .lktxn x | .lkacq x | .lkup x | .lkdn x | .lkrel x | .lkrelAll x | .lkabt x | .lkqry x => some x.p
  | .vadd x | .vsub x | .vmul x | .vfma x | .vfms x | .vmin x | .vmax x | .vand x | .vor x | .vxor x | .vshl x
  | .vshr x | .vsra x | .vsel x | .viota x | .vperm x | .vrotl x | .vpack x | .vmulh x | .vadds x | .vsubs x => some x.p
  | .vabs x | .vneg x | .vmov x | .vexp2 x | .vlog2 x | .vrcp x | .vrsq x | .vrsum x | .vrmax x | .vrmin x
  | .vargmax x | .vscan x => some x.p
  | .vcmp x => some x.p
  | .vbcast x => some x.p
  | .vcvt x => some x.p
  | .vunpk x => some x.p
  | .vout x => some x.p
  | .kand x | .kor x | .knot x | .kpopc x => some x.p
  | .vexts x => some x.p
  | .vinss x => some x.p
  | .mpush x _ | .mmul x _ | .macc x _ | .mdrain x _ => some x.p
  | .mpushw x | .mswapw x | .mclr x => some x.p
  | .texp x | .tqnt x | .tcvt x | .ttrni x | .ttrno x => some x.p
  | .xch x | .xcb x | .xsib x | .xring x | .xsend x | .xrecv x | .xfan x | .xbar x | .xbarSwap x | .chw x => some x.p
  | _ => none

/-- The instructions of the S, V, M and T slots, and the scratchpad accesses of the L slot, whose effects are results that
land later, writes of the end of the cycle, and work in the die's pipelines (chapters 08, 10, 11, R266-R268). -/
def resultsOnly : Instr → Bool
  | .add _ | .sub _ | .and _ | .or _ | .xor _ | .andn _ | .shl _ | .shr _ | .sra _ | .rotr _ | .mul _ | .mulh _
  | .mulhz _ | .div _ | .divz _ | .rem _ | .remz _ | .min _ | .max _ | .minz _ | .maxz _ | .cmp _ | .sel _
  | .movi _ | .movh _ | .popc _ | .clz _ | .ctz _ | .brev _ | .gray _ | .igray _ | .ext _ | .ins _ | .fadd _
  | .fsub _ | .fmul _ | .fmin _ | .fmax _ | .fcmp _ | .fcvt _ | .pand _ | .por _ | .pxor _ | .srd _ _ _ _
  | .swr _ _ _ | .shw _ _ _ _ _ | .tidr _ _ _ _ _ | .tidw _ _ _ _ | .agw _ _ _ _ | .flgs _ | .flgc _
  | .partner _ | .snop _ | .cnop _ | .lnop _ | .ldsp _ | .stsp _ | .vld _ | .vst _ | .vldx _ | .vstx _
  | .vnop _ | .vadd _ | .vsub _ | .vmul _ | .vfma _ | .vfms _ | .vmin _ | .vmax _ | .vabs _ | .vneg _ | .vand _
  | .vor _ | .vxor _ | .vshl _ | .vshr _ | .vsra _ | .vcmp _ | .vsel _ | .vmov _ | .vbcast _ | .viota _
  | .vexp2 _ | .vlog2 _ | .vrcp _ | .vrsq _ | .vrsum _ | .vrmax _ | .vrmin _ | .vargmax _ | .vscan _ | .vperm _
  | .vrotl _ | .vcvt _ | .vpack _ | .vunpk _ | .vout _ | .kand _ | .kor _ | .knot _ | .kpopc _ | .vexts _
  | .vinss _ | .vmulh _ | .vadds _ | .vsubs _ | .mnop _ | .mpush _ _ | .mpushw _ | .mswapw _ | .mmul _ _
  | .macc _ _ | .mdrain _ _ | .mclr _ | .tnop _ | .texp _ | .tqnt _ | .tcvt _ | .xnop _ => true
  | _ => false

/-- The instructions that send a request or an operation and have no other effect at issue (R262, R263, R276). -/
def sendsOnly : Instr → Bool
  | .ld _ | .ldro _ | .st _ | .copy _ _ | .take _ | .enqt _ | .enqtClose _ | .arrive _ | .arriveSet _
  | .barinit _ | .bararv _ | .enql _ | .lktxn _ | .lkacq _ | .lkup _ | .lkdn _ | .lkrel _ | .lkrelAll _
  | .lkabt _ | .lkqry _ | .chw _ => true
  | _ => false

/-- The transfers and loops of the C slot, the transposer and the exchanges (R50, R51, R211-R214, R244-R246, R285). -/
def staysOnItsDie : Instr → Bool
  | .br _ _ | .jmp _ _ | .call _ _ | .ret _ | .loop _ _ _ _ | .bloop _ _ _ | .brf _ _ _ _ | .brsw _ _
  | .ttrni _ | .ttrno _ => true
  | _ => false

def exchangesOnly : Instr → Bool
  | .xch _ | .xcb _ | .xsib _ | .xring _ | .xsend _ | .xrecv _ | .xfan _ | .xbar _ | .xbarSwap _ => true
  | _ => false

/-- The strong accesses, the fences and the monitors (R269-R275). -/
def ordersOnly : Instr → Bool
  | .atom _ | .cas _ | .red _ | .heapins _ | .fenceAcq _ | .fenceRel _ | .fenceAcqrel _ | .fenceSc _ | .fenceRo _
  | .mon _ _ | .monOff _ _ => true
  | _ => false

/-- What a slot's bits alone make a fault, whatever its predicate (R171, R203); and `WAIT`, whose predicate field names a
flag (R215). -/
def faultsByItsBits (i : Instr) (s : State) : Bool :=
  match i with
  | .srd _ _ _ n => (srdFate s.here.inK n.toNat).isSome
  | .swr _ _ n => (swrFate s.here.inK n.toNat).isSome
  | .wait _ _ _ => true
  | .kcall _ => s.here.iss.shared
  | _ => (privilegedRule s i).isSome && !s.here.inK

/-- Every byte of memory reads as before (R104). -/
def MemoryUnchanged (s t : State) : Prop :=
  ∀ (host : Bool) (a : Nat), t.memByte host a = s.memByte host a

/-- Every byte of a memory of 2^57 bytes reads as before: said of a step that may write lines back, which changes where
their bytes stand and not what they are (R104, R109). -/
def MemoryReadsAsBefore (s t : State) : Prop :=
  ∀ (host : Bool) (a : Nat), a < 2 ^ 57 → t.memByte host a = s.memByte host a

/-- The first-level caches of the sixteen dies, as the directory's rule has them (R109): a line that one holds dirty is
dirty in no other, and meets no uncorrectable error where it goes home. -/
def CachesWf (s : State) : Prop :=
  ∀ (k line : Nat) (l : L1Line), k < 16 → s.dirtyCopy k line = some l → line < 2 ^ 53 ∧
    (l.dirty ≠ 0#128 → s.pkg.lineBad line = false ∧
      ∀ (j : Nat) (m : L1Line), j < 16 → s.dirtyCopy j line = some m → m.dirty ≠ 0#128 → j = k)

/-! One die clock edge. -/

/-- A stream at an edge where nothing freezes, traps or ends it before its bundle (R26, R30, R34, R42). -/
structure Ready (s : State) : Prop where
  running : s.here.ctl.run = .running
  arrays : s.here.ctl.arrayErr = false
  started : s.here.ctl.start ≤ s.pkg.clk
  unwounded : s.here.ctl.wounds = [] ∨ s.here.handler = true
  unfrozen : s.here.ctl.stall = 0 ∧ s.here.ctl.sleep = .none ∧ s.here.ctl.waiting = none ∧ s.here.ctl.issued = false
  landed : s.here.late = false ∧ s.here.failedLanding = none

/-- The output ports make their writes first, outside handler state (R60, R107). -/
def opened (s : State) : State := s.mod Die.openEdge

/-- The bundle that a ready stream meets in this cycle, its bits and the address after it, with the state that step 1
leaves: it has been fetched before, or its fetch costs nothing more (R27, R35). -/
def meets (s : State) : Option (Nat × Nat × State) :=
  match (opened s).here.ctl.fetched with
  | some (w, next, _) => some (w, next, (opened s).mod Die.beginCycle)
  | none =>
    match fetch (opened s) with
    | (.bundle w next lit, t) =>
      if fixedCost w lit t.here = (0, 0) then
        some (w, next, (t.mod fun d => { d with
          ctl.fetched := some (w, next, lit), ctl.paid := 1, ctl.stall := 0, ctl.clash := 0 }).mod Die.beginCycle)
      else none
    | _ => none

/-- The state in which the slots of a bundle run (R27, R38, R49), and in which one slot of it does. -/
def slotsState (s : State) (w next : Nat) (todo : List (Slot × Instr)) : State :=
  openBundle (decodeBundle w) next todo s
def slotState (s : State) (w next : Nat) (k : Slot) (i : Instr) : State :=
  (slotsState s w next [(k, i)]).atSlot k (slotBits w k)

/-- Scratchpad accesses of a cycle with a bundle of one slot: those made before the bundle issues, and the slot's
(R107). -/
def oneUses (s : State) (w next : Nat) (k : Slot) (i : Instr) : List Nat :=
  s.here.iss.banks ++ (slotsState s w next [(k, i)]).here.spUses k i

/-- The bundle of one slot, with no wait and no breakpoint bit. -/
def OneSlot (w : Nat) (k : Slot) (x : Except DecodeError Instr) : Prop :=
  (decodeBundle w).slots = [(k, x)] ∧ (decodeBundle w).wait = false ∧ (decodeBundle w).dbit = false ∧
  (decodeBundle w).reserved = false

/-- The landing buffer has room for the entries that a bundle takes (R31). -/
def LandingRoom (t u : State) : Prop :=
  u.here.pipe.landings.length ≤ Config.landEntries ∨ u.here.pipe.landings = t.here.pipe.landings

/-- Nothing has been issued in this cycle. -/
def NothingIssued (d : Die) : Prop :=
  (∀ x ∈ d.pipe.due, x.issue ≠ d.now) ∧ (∀ x ∈ d.pipe.landings, x.issue ≠ d.now) ∧ d.pipe.next = []

/-- The end of an edge: the input ports' fetches, after a cycle that was not one of handler state (R60). -/
def edgeEnd (handler : Bool) (s : State) : State :=
  (if s.here.ctl.run = .running ∧ handler = false then s.mod fun d => d.portFetches s.pkg.clk d.iss.banks
    else s).setIss fun _ => Issue.none

/-- The bundle's end: its writes, the counters, the yield point, the input ports' fetches (R26, R40, R41, R60). -/
def afterBundle (handler : Bool) (w : Nat) (uses : List Nat) (t : State) : State :=
  edgeEnd handler (finishBundle (decodeBundle w) (t.setIss fun c => { c with banks := uses }))

/-- The state after a trap is taken at the bundle at the program counter (R42). -/
def trappedHere (x : TrapInfo) (mask : BitVec 10) (s : State) : State :=
  (trapHere x mask s).setIss fun _ => Issue.none

end Sys2Proof.Claims

open Sys2Proof Sys2Proof.Machine Sys2Proof.Claims

/-- R157-R171, R181-R191: a well-formed slot instruction's word fits its slot and decodes to it there. -/
def Obligations.EncodeThenDecode : Prop :=
  ∀ (i : Instr) (k : Slot), i.wf = true → i.slotClass = some k → sharesItsWord i = false →
    encode i < 2 ^ k.width ∧ k.decode (encode i) = .ok i

/-- R4, R157-R171: a word that a slot's decoder takes is a well-formed instruction's, and its own encoding. -/
def Obligations.DecodeThenEncode : Prop :=
  ∀ (k : Slot) (w : Nat) (i : Instr), w < 2 ^ k.width → k.decode w = .ok i → i.wf = true ∧ encode i = w

/-- R154, R163-R170, R199, R213, R251, R257, R270, R279, R295, R328, R349, R354: the words that the spec
writes out. -/
def Obligations.SpecWordsDecode : Prop :=
  decodeTableWord 32 0x040202E1 = some (.add ⟨0#5, false, 8#6, .reg 5#6, .imm 1#5⟩) ∧
  decodeTableWord 32 0x60014007 = some (.movi ⟨0#5, false, 5#6, 7#14⟩) ∧
  decodeTableWord 32 0x64017F00 = some (.movh ⟨0#5, false, 5#6, 0x3F00#14⟩) ∧
  decodeTableWord 32 0xE0024500 = some (.krd ⟨0#5, false, 9#6, .reg 10#6⟩) ∧
  Slot.decode .c 0x140A1006 = .ok (.loop 0#5 20#6 1#3 6#12) ∧
  Slot.decode .c 0x24204000 = .ok (.brsw 1#5 0x4000#15) ∧
  Slot.decode .c 0x84010007 = .ok (.kstopFault 0#5 7#16) ∧
  decodeTableWord 40 0x0401441218 = some (.ld ⟨0#5, false, 5#6, 4#6, 4#6, 2#2, 12#7, false⟩) ∧
  decodeTableWord 40 0x28024C0348 = some (.atom ⟨0#5, false, 9#6, 12#6, 0#4, 0#6, false, 3#2, 2#3, 1#2, false⟩) ∧
  decodeTableWord 40 0x4000090000 = some (.copy 0#5 9#6) ∧
  decodeTableWord 40 0x4405155860 = some (.take ⟨0#5, 20#6, 21#6, 22#6, 3#5, 0#5⟩) ∧
  decodeTableWord 40 0x5C0500589C = some (.lkacq ⟨0#5, 20#6, 22#6, 4#5, 7#3⟩) ∧
  Slot.decode .v0 0x6800548000 = .ok (.vrmax ⟨0#5, 0#3, false, 10#6, .port 0#2, .f32⟩) ∧
  Slot.decode .m0 0x14164005 = .ok (.macc ⟨0#5, true, 1#2, 5#11⟩ (.port 0#2)) ∧
  decodeTableWord 48 0x0800010C4000 =
    some (.xcb ⟨0#5, false, 0#2, 0#5, 2#6, 3#5, 1#4, 0#6, false, 0#5⟩)

/-- R26-R28, R42, R155, R171: a step at a clock edge runs the instruction that the bundle at the program
counter decodes to, in the state that step 1 leaves; then the bundle ends and the next die has its edge. An
instruction that raises a trap takes it and uses no edge; a slot that decodes to nothing takes `ILLEGAL`. -/
def Obligations.StepRunsTheDecodedBundle : Prop :=
  ∀ (s t u : State) (rest : List Input) (w next : Nat) (k : Slot), s.pkg.stopped = false → s.inputs = .edge :: rest →
    Ready { s with inputs := rest } → meets { s with inputs := rest } = some (w, next, t) →
    NothingIssued t.here →
    (∀ i, OneSlot w k (.ok i) → exec i (slotState t w next k i) = .next u →
      (u.here.iss.trap = none → u.here.iss.hold = none → u.here.iss.undone = false → u.here.iss.leaves = false →
        (scratchCost (oneUses t w next k i) = 0 ∨ 2 ≤ t.here.ctl.paid) → LandingRoom t u →
        step s = .next (afterBundle s.here.handler w (oneUses t w next k i) u).nextDie) ∧
      (∀ x, u.here.iss.trap = some x → (orderFive x.cause = true ∨ ((x.cause = 0x10 ∨ x.cause = 0x11) ∧
          x.info0 = BitVec.ofNat 64 (slotBits w k) ∧ x.info1 = 0#64)) →
        step s = .next (trappedHere x k.bit t))) ∧
    (∀ e, OneSlot w k (.error e) →
      step s = .next (trappedHere ⟨0x10, BitVec.ofNat 64 (slotBits w k), 0#64⟩ k.bit t))

/-- R14, R32, R47, R69, R351, R389, R411, R426, R431: the values the spec gives for reset. The invariant
holds after reset. -/
def Obligations.ResetState : Prop :=
  (let p := State.reset.pkg
   p.regs.ybound = 0x100000#32 ∧ p.regs.wgrace = 100000#32 ∧ p.regs.agep = 50000000#32 ∧ p.regs.pwrcap = 6500#16 ∧
   p.regs.mhz = 2000#16 ∧ p.regs.bootStep = 1#4 ∧ p.ptime = 0#64 ∧ p.mem = [] ∧ p.faults = [] ∧
   ∀ k, (State.reset.die k).sr.atland = 64#7 ∧ (State.reset.die k).sr.freezemax = 0x100000#32 ∧
     (State.reset.die k).ctl.run = .idle) ∧
  (State.reset.Inv)

/-- Package memory and host memory keep their canonical form through every step. -/
def Obligations.StepKeepsInv : Prop :=
  ∀ s t : State, s.Inv → step s = .next t → t.Inv

/-- R27, R28, R48, R54, R55, R89: a result that lands writes its register under its lanes and its slot's
latch, sets its status bits, and leaves every other register as it was. -/
def Obligations.ResultsLand : Prop :=
  ∀ (d : Die) (x : Due), x.stats = [] →
    let e := d.landDue x
    e.regs.s = (match x.drop, x.dest with
      | false, .s r => Store.set 0#64 d.regs.s r (x.value.setWidth 64)
      | _, _ => d.regs.s) ∧
    e.regs.kbs = (match x.drop, x.dest with
      | false, .kbs r => Store.set 0#64 d.regs.kbs r (x.value.setWidth 64)
      | _, _ => d.regs.kbs) ∧
    e.regs.p = (match x.drop, x.dest with
      | false, .p r => Store.set false d.regs.p r (x.value.getLsbD 0)
      | _, _ => d.regs.p) ∧
    e.regs.kbp = (match x.drop, x.dest with
      | false, .kbp r => Store.set false d.regs.kbp r (x.value.getLsbD 0)
      | _, _ => d.regs.kbp) ∧
    e.regs.v = (match x.drop, x.dest with
      | false, .v r => Store.set 0#16384 d.regs.v r (merge x.lanes x.value (Store.get 0#16384 d.regs.v r))
      | _, _ => d.regs.v) ∧
    e.regs.k = (match x.drop, x.dest with
      | false, .k r => Store.set 0#512 d.regs.k r ((x.merged d).setWidth 512)
      | _, _ => d.regs.k) ∧
    (∀ q, x.latch = some q → Store.get false e.regs.qv q = true ∧ Store.get 0#16384 e.regs.q q = x.merged d ∧
      ∀ j, j ≠ q → Store.get 0#16384 e.regs.q j = Store.get 0#16384 d.regs.q j) ∧
    (x.latch = none → e.regs.q = d.regs.q ∧ e.regs.qv = d.regs.qv) ∧
    e.sr.status = d.sr.status ||| x.status ∧ e.ctl = d.ctl ∧ e.tab = d.tab ∧
    e.arr = (d.observeCopies x.shows).arr ∧ e.cache = d.cache

/-- R27, R160: a slot whose predicate is false has no effect. -/
def Obligations.FalsePredicateHasNoEffect : Prop :=
  ∀ (i : Instr) (p : BitVec 5) (s : State), predicateOf i = some p → s.here.iss.wait = false →
    s.here.predicate p = false → faultsByItsBits i s = false → exec i s = .next s

/-- R27, R72-R74: the frame of the instructions whose effects come later: when such an instruction raises no
trap, no register, special register (but the count of lost statistics records), table entry but shapes and
ports, array or cache of its die changes at issue, no landing entry, no other die, nothing of the package
and no byte of memory. -/
def Obligations.FrameOfResultInstructions : Prop :=
  ∀ (i : Instr) (s t : State), resultsOnly i = true → exec i s = .next t → t.here.iss.trap = none →
    t.here.regs = s.here.regs ∧ t.here.sr = { s.here.sr with statlost := t.here.sr.statlost } ∧
    t.here.ctl = s.here.ctl ∧ t.here.arr = s.here.arr ∧
    t.here.cache = s.here.cache ∧ t.here.tab.tid = s.here.tab.tid ∧ t.here.tab.ag = s.here.tab.ag ∧
    t.here.tab.chan = s.here.tab.chan ∧ t.here.pipe.landings = s.here.pipe.landings ∧
    (∃ l, t.here.pipe.due = s.here.pipe.due ++ l) ∧ (∀ k, k ≠ s.cur → t.die k = s.die k) ∧ t.pkg = s.pkg ∧
    MemoryUnchanged s t

/-- The frame of the instructions that send a request or an operation. Loads, stores, engine and lock operations, `COPY`
and `CHW` change nothing of their die but a landing entry; an exchange changes nothing of it but the shapes that its `SW`
exchanges, the writes of the end of its cycle (`AUTOINC`, `STATUS`) and a statistics record; nothing of the package changes
but the lists of what is outstanding, and no byte of memory. Strong accesses, fences and monitors change nothing of their
die but a landing entry, the caches, the monitor's status and the error that a line met on its way home; nothing of the
package but what a release publishes and the request; and every byte of memory reads as before. -/
def Obligations.FrameOfSendingInstructions : Prop :=
  (∀ (i : Instr) (s t : State), sendsOnly i = true ∨ exchangesOnly i = true → exec i s = .next t →
    t.here.iss.trap = none →
    t.here.regs = s.here.regs ∧ t.here.sr = { s.here.sr with statlost := t.here.sr.statlost } ∧
    t.here.ctl = s.here.ctl ∧ t.here.arr = s.here.arr ∧ t.here.cache = s.here.cache ∧
    t.here.tab = { s.here.tab with shape := t.here.tab.shape, shapeSel := t.here.tab.shapeSel } ∧
    t.here.pipe = { s.here.pipe with
      landings := t.here.pipe.landings, next := t.here.pipe.next, statq := t.here.pipe.statq } ∧
    (∃ l, t.here.pipe.landings = s.here.pipe.landings ++ l) ∧ (∃ l, t.here.pipe.next = s.here.pipe.next ++ l) ∧
    (∀ k, k ≠ s.cur → t.die k = s.die k) ∧
    t.pkg = { s.pkg with reqs := t.pkg.reqs, engines := t.pkg.engines, nextId := t.pkg.nextId,
                         numbers := t.pkg.numbers } ∧
    (sendsOnly i = true → t.here.sr = s.here.sr ∧ t.here.tab = s.here.tab ∧
      t.here.pipe = { s.here.pipe with landings := t.here.pipe.landings } ∧ t.pkg.numbers = s.pkg.numbers) ∧
    MemoryUnchanged s t) ∧
  (∀ (i : Instr) (s t : State), ordersOnly i = true → exec i s = .next t → t.here.iss.trap = none →
    t.here.iss.leaves = false →
    t.here.regs = s.here.regs ∧ t.here.sr = { s.here.sr with monstat := t.here.sr.monstat } ∧
    t.here.ctl = { s.here.ctl with dataErr := t.here.ctl.dataErr } ∧ t.here.arr = s.here.arr ∧
    t.here.tab = s.here.tab ∧ t.here.pipe = { s.here.pipe with landings := t.here.pipe.landings } ∧
    (∃ l, t.here.pipe.landings = s.here.pipe.landings ++ l) ∧ (∀ k, k ≠ s.cur → t.die k = s.die k) ∧
    t.pkg = { s.pkg with
      mem := t.pkg.mem, host := t.pkg.host, tlb := t.pkg.tlb, reqs := t.pkg.reqs, nextId := t.pkg.nextId
      regionNo := t.pkg.regionNo, late := t.pkg.late, unpub := t.pkg.unpub } ∧
    (s.cur < 16 → CachesWf s → MemoryReadsAsBefore s t))

/-- The frame of transfers, loops and the transposer. A transfer or a loop changes nothing of its die but the pending
transfer, the loops, the results and writes to come, and of the instruction banks which copies have been observed; the
transposer's instructions change nothing but the transposer, the shapes that their `SW` exchanges, the results and writes
to come and a statistics record. No other die, nothing of the package and no byte of memory changes. -/
def Obligations.FrameOfTransfersAndTransposer : Prop :=
  ∀ (i : Instr) (s t : State), staysOnItsDie i = true → exec i s = .next t → t.here.iss.trap = none →
    t.here.regs = s.here.regs ∧ t.here.sr = { s.here.sr with statlost := t.here.sr.statlost } ∧
    t.here.cache = s.here.cache ∧
    t.here.arr = { s.here.arr with trans := t.here.arr.trans, ibOld := t.here.arr.ibOld } ∧
    t.here.ctl = { s.here.ctl with transfer := t.here.ctl.transfer, loops := t.here.ctl.loops } ∧
    t.here.tab = { s.here.tab with shape := t.here.tab.shape, shapeSel := t.here.tab.shapeSel } ∧
    t.here.pipe = { s.here.pipe with
      due := t.here.pipe.due, next := t.here.pipe.next, statq := t.here.pipe.statq } ∧
    (∃ l, t.here.pipe.due = s.here.pipe.due ++ l) ∧ (∃ l, t.here.pipe.next = s.here.pipe.next ++ l) ∧
    ((∀ x, i ≠ .ttrni x ∧ i ≠ .ttrno x) → t.here.sr = s.here.sr ∧ t.here.tab = s.here.tab ∧
      t.here.arr.trans = s.here.arr.trans ∧ t.here.pipe.statq = s.here.pipe.statq) ∧
    (∀ x, i = .ttrni x ∨ i = .ttrno x → t.here.ctl = s.here.ctl ∧ t.here.arr.ibOld = s.here.arr.ibOld ∧
      (x.sw = false → t.here.sr = s.here.sr ∧ t.here.tab = s.here.tab ∧ t.here.pipe.next = s.here.pipe.next ∧
        t.here.pipe.statq = s.here.pipe.statq)) ∧
    (∀ k, k ≠ s.cur → t.die k = s.die k) ∧ t.pkg = s.pkg ∧ MemoryUnchanged s t

/-- R106-R108, R209, R266, R267: what a scratchpad store has written at the end of its cycle: the bytes at its offset that
lie in the partition, and no other byte; of the lanes of a scatter that name one byte, the highest leaves its own. -/
def Obligations.ScratchpadStores : Prop :=
  (∀ (x : LSp) (s : State), s.here.executes x.p = true → x.sp = false → s.here.pipe.next = [] →
    spAddress s x % (2 ^ x.size.toNat : Nat) = 0 →
    ∃ t, exec (.stsp x) s = .next t ∧ ∀ b : Int, (applyLater t).here.spByte b =
      if spAddress s x ≤ b ∧ b < spAddress s x + (2 ^ x.size.toNat : Nat) ∧ 0 ≤ b ∧ b < s.here.sr.spsize.toNat then
        BitVec.ofNat 8 ((s.here.readS x.d).toNat / 2 ^ (8 * (b - spAddress s x).toNat))
      else s.here.spByte b) ∧
  (∀ (x : LVec) (s : State), s.here.executes x.p = true → x.sp = false → s.here.pipe.next = [] →
    vecAddress s x % 64 = 0 →
    ∃ t, exec (.vst x) s = .next t ∧ ∀ b : Int, (applyLater t).here.spByte b =
      if vecAddress s x ≤ b ∧ b < vecAddress s x + 2048 ∧ 0 ≤ b ∧ b < s.here.sr.spsize.toNat then
        BitVec.ofNat 8 ((s.here.readV x.d).toNat / 2 ^ (8 * (b - vecAddress s x).toNat))
      else s.here.spByte b) ∧
  (∀ (x : LIdx) (s : State), s.here.executes x.p = true → x.sp = false → s.here.pipe.next = [] →
    let n : Nat := 2 ^ x.size.toNat
    let at_ (e : Nat) : Int := ((s.here.readS x.b).toNat : Int) + ((s.here.readV x.x).toNat / 2 ^ (32 * e) % 2 ^ 32 : Nat)
    let on (e : Nat) : Bool := (s.here.readK x.k).getLsbD e
    (∀ e, e < 512 → on e = true → at_ e % (n : Int) = 0) →
    ∃ t, exec (.vstx x) s = .next t ∧ ∀ b : Int,
      let last := ((List.range 512).filter fun e => on e && decide (at_ e ≤ b ∧ b < at_ e + n)).getLast?
      (applyLater t).here.spByte b = match last with
        | some e => if 0 ≤ b ∧ b < s.here.sr.spsize.toNat then
            BitVec.ofNat 8 ((s.here.readV x.d).toNat / 2 ^ (32 * e + 8 * (b - at_ e).toNat))
          else s.here.spByte b
        | none => s.here.spByte b)

namespace Sys2Proof.Claims
open Sys2Proof.Machine

/-- The die that the record of an output port leaves (R60): the bytes that lie in the partition, nothing else. -/
def StoresAt (s t : State) (at_ : Int) (v : Vec) : Prop :=
  ∀ b : Int, t.here.spByte b =
    if at_ ≤ b ∧ b < at_ + 2048 ∧ 0 ≤ b ∧ b < s.here.spsize then
      BitVec.ofNat 8 (v.toNat / 2 ^ (8 * (b - at_).toNat))
    else s.here.spByte b

/-- The stream has nothing that its matrix pipelines wait for (R43, R252). -/
def MatrixRuns (s : State) : Prop := s.streaming = true ∧ s.here.handler = false ∧ s.here.late = false

/-- One element of an accumulator row. -/
def accElem (s : State) (unit row j : Nat) : Nat :=
  (Store.get 0#16384 s.here.arr.acc (unit * 2048 + row)).toNat / 2 ^ (32 * j) % 2 ^ 32

/-- A ready stream meets a bundle of one slot, which runs to a state without a trap or a freeze (R26, R34, R171). -/
structure Runs (s : State) (w next : Nat) (k : Slot) (i : Instr) (t u : State) : Prop where
  met : meets s = some (w, next, t)
  fresh : NothingIssued t.here
  slots : (decodeBundle w).slots = [(k, .ok i)]
  bits : (decodeBundle w).reserved = false ∧ (decodeBundle w).dbit = false
  isSlot : i.slotClass ≠ none
  room : t.here.pipe.landings.length < Config.landEntries ∧ LandingRoom t u
  run : exec i (slotState t w next k i) = .next u
  quiet : u.here.iss.trap = none ∧ u.here.iss.hold = none ∧ u.here.iss.leaves = false
  free : scratchCost (oneUses t w next k i) = 0

/-- A ready stream outside handler state and with no pre-emption pending meets a bundle of one slot that holds an
instruction which does nothing (R190). -/
structure MeetsNop (s : State) (w next : Nat) (k : Slot) (i : Instr) (p : BitVec 5) (t : State) : Prop where
  ready : Ready s
  level : s.here.handler = false
  calm : s.here.ctl.preempt = false
  limit : 1024 ≤ s.here.sr.freezemax.toNat
  met : meets s = some (w, next, t)
  slots : (decodeBundle w).slots = [(k, .ok i)]
  bits : (decodeBundle w).reserved = false ∧ (decodeBundle w).dbit = false
  fresh : NothingIssued t.here
  nop : nopRule i = some p
  room : t.here.pipe.landings.length < Config.landEntries
  free : scratchCost t.here.iss.banks = 0

end Sys2Proof.Claims

open Sys2Proof Sys2Proof.Machine Sys2Proof.Claims

/-- R27, R36, R41, R44, R60, R74, R128, R144, R216, R324, R347: the steps that a stream takes by itself, each where its
condition holds. That a wound which falls due while `UMASK.WOUND` is clear is dropped is the model's choice (log 16), and so
is that `REFRESH_WINDOW` changes nothing (log 35). -/
def Obligations.StreamSteps : Prop :=
  (∀ s : State, s.streaming = true → s.here.late = false → s.here.failedLanding = none →
    exec .resultLanding s = .next (s.put s.here.stepOne)) ∧
  (∀ s : State, s.streaming = true → s.here.sr.freezemax.toNat ≤ s.here.ctl.watchdog →
    exec .freezeWatchdogExpiry s = .next (s.regionFault s.cur 2 0#16 0)) ∧
  (∀ s : State, s.here.ctl.run = .running → s.here.ctl.bound < s.here.ctl.yieldCount →
    exec .yieldBoundExpiry s = .next (s.regionFault s.cur 3 0#16 0)) ∧
  (∀ (v : BitVec 64) (s : State), s.here.inK = true →
    ∃ t, exec (.tepcWrite v) s = .next t ∧ t.here.sr.tepc = v.setWidth 15 ∧ t.here.sr.kstat.getLsbD 3 = true ∧
      t.here.sr.kstat.getLsbD 4 = false ∧ t.here.regs = s.here.regs ∧ t.here.pipe = s.here.pipe ∧ t.pkg = s.pkg ∧
      t.here.ctl.pc = s.here.ctl.pc ∧ ∀ x, s.here.ctl.snapshot = some x →
        t.here.ctl.snapshot =
          some { x with transfer := none, done := 0#10, popped := [], switch := false, dskip := false }) ∧
  (∀ (j : BitVec 2) (x : InPort) (s : State), s.streaming = true → s.here.handler = false →
    Store.get none s.here.tab.inp j.toNat = some x → s.here.mayFetch s.pkg.clk [] x = true →
    ∃ t, exec (.portFetch j) s = .next t ∧
      ∃ y, Store.get none t.here.tab.inp j.toNat = some y ∧ y.fetched = x.fetched + 1 ∧ y.read = x.read ∧
        ∃ v, y.queue = x.queue ++ [(s.pkg.clk + 7, v)] ∧
          (x.weight = false → ∀ b : Nat, b < 2048 → v.toNat / 256 ^ b % 256 =
            (s.here.spByte (seqAddr x.base x.cnt x.str x.fetched + b)).toNat)) ∧
  (∀ (j : BitVec 2) (x : InPort) (s : State), s.streaming = true → s.here.handler = false →
    Store.get none s.here.tab.inp j.toNat = some x →
    ∃ t, exec (.portVectorArrival j) s = .next t ∧ t.here.regs = s.here.regs ∧ t.pkg = s.pkg ∧
      Store.get none t.here.tab.inp j.toNat =
        some { x with queue := x.queue.map fun v => if v.1 ≤ s.pkg.clk then (0, v.2) else v }) ∧
  (∀ (y : BitVec 1) (x : OutVec) (s : State), s.here.handler = false → s.here.tab.outq = [x] → x.landed = true →
    x.port = y.toNat →
    ∃ t, exec (.outputPortWrite y) s = .next t ∧ t.here.tab.outq = [] ∧ t.pkg = s.pkg ∧ StoresAt s t x.addr x.value) ∧
  (∀ s : State, exec .refreshWindow s = .next s) ∧
  (∀ (r : BitVec 128) (rest : List (BitVec 128)) (s : State), s.streaming = true → s.here.pipe.statq = r :: rest →
    s.here.sr.statsize ≠ 0#16 → s.here.iss.banks = [] →
    ∃ t, exec .statRecordWrite s = .next t ∧ t.here.pipe.statq = rest ∧ t.pkg = s.pkg ∧
      (let h := s.here.sr.stathead.toNat
       let n := (h + 1) % s.here.sr.statsize.toNat
       let a := 16 * (s.here.sr.statbase.toNat + h)
       if n = s.here.sr.stattail.toNat then
         t.here.sr = { s.here.sr with statlost := s.here.sr.statlost + 1#64 } ∧ t.here.arr = s.here.arr
       else t.here.sr.stathead = BitVec.ofNat 16 n ∧
         (a + 16 ≤ s.here.spsize → t.here.sr = { s.here.sr with stathead := BitVec.ofNat 16 n }) ∧
         (s.here.spsize < a + 16 → t.here.sr.status.getLsbD 0 = true) ∧
         ∀ b : Nat, t.here.spByte b = if a ≤ b ∧ b < a + 16 ∧ b < s.here.spsize then
           BitVec.ofNat 8 (r.toNat / 2 ^ (8 * (b - a))) else s.here.spByte b)) ∧
  (∀ (txn name : Word) (rest : List (Word × Word)) (s : State), s.here.ctl.run = .running → s.here.handler = false →
    s.here.ctl.wounds = (txn, name) :: rest → s.here.pipe.next = [] → s.here.ctl.stall = 0 → s.here.late = false →
    (s.here.ctl.fetched = none ∨ s.here.ctl.issued = true) →
    exec .woundDelivery s = .next
      (let u := s.put { s.here with ctl.wounds := rest }
       if s.here.sr.umask.getLsbD 1 then
         takeTrap (u.put { u.here with iss := u.here.iss.idle }) ⟨2, txn, name⟩ 0#10 s.here.ctl.pc
       else u)) ∧
  (∀ s : State, s.here.ctl.sleep = .monitor 0 → s.here.ctl.fetched = none →
    exec .mwaitTimeout s = .next (s.put { s.here with ctl.sleep := .none })) ∧
  (∀ s : State, s.here.ctl.releasing = true → s.here.ctl.released = false →
    s.pkg.unacknowledged s.cur s.pkg.nextId = false →
    s.enginesOut s.cur s.here.sr.kernid.toNat s.pkg.nextId 7 = false → s.here.ctl.refused = none →
    s.here.ctl.dataErr = none → s.pkg.badStacks = [] →
    ∃ t, exec .releaseComplete s = .next t ∧ t.here.ctl = { s.here.ctl with released := true } ∧
      t.here.regs = s.here.regs ∧ t.pkg.regionOf s.cur = (s.pkg.regionOf s.cur + 1) % 2 ^ 48)

/-- R245, R252, R253, R255, R257, R259: the matrix events of a cycle and the transposer's, when one piece of
work is due. -/
def Obligations.MatrixWorkLands : Prop :=
  (∀ (unit row : Nat) (bytes : BitVec 4096) (s : State), MatrixRuns s →
    s.here.pipe.mdue = [⟨s.here.now, .push unit row bytes none⟩] →
    ∃ t, exec .pushRowLand s = .next t ∧ t.here.pipe.mdue = [] ∧
      (let shadow := unit * 2 + if Store.get false s.here.arr.planeSel unit then 0 else 1
       let rows := Store.set 0#4096 s.here.arr.plane (shadow * 512 + row) bytes
       t.here.arr = { s.here.arr with plane := rows }) ∧
      t.here.regs = s.here.regs ∧ t.here.sr = s.here.sr ∧ t.pkg = s.pkg) ∧
  (∀ (unit : Nat) (s : State), MatrixRuns s → s.here.pipe.mdue = [⟨s.here.now, .swap unit⟩] →
    ∃ t, exec .planeSwap s = .next t ∧ t.here.pipe.mdue = [] ∧
      (let sel := Store.set false s.here.arr.planeSel unit (!Store.get false s.here.arr.planeSel unit)
       t.here.arr = { s.here.arr with planeSel := sel }) ∧
      t.here.regs = s.here.regs ∧ t.here.sr = s.here.sr ∧ t.pkg = s.pkg) ∧
  (∀ (unit row : Nat) (s : State), MatrixRuns s → s.here.pipe.mdue = [⟨s.here.now, .clear unit row⟩] →
    ∃ t, exec .accRowClear s = .next t ∧ t.here.pipe.mdue = [] ∧
      (let rows := Store.set 0#16384 s.here.arr.acc (unit * 2048 + row) 0#16384
       t.here.arr = { s.here.arr with acc := rows }) ∧
      t.here.regs = s.here.regs ∧ t.here.sr = s.here.sr ∧ t.pkg = s.pkg) ∧
  (∀ (unit row next : Nat) (acc : Bool) (total : Vec) (issue pc slot : Nat) (s : State), MatrixRuns s →
    s.here.pipe.mdue = [⟨s.here.now, .beat unit row next acc total [] issue pc slot⟩] →
    ∃ t, exec .beatUpdate s = .next t ∧ t.here.pipe.mdue = [] ∧ t.here.regs = s.here.regs ∧ t.pkg = s.pkg ∧
      (∀ j, j < 512 →
        let sum := addStep (accElem s unit row j) (total.toNat / 2 ^ (32 * j) % 2 ^ 32)
        accElem t unit row j =
          if j < next then (if acc then sum.1 % 2 ^ 32 else total.toNat / 2 ^ (32 * j) % 2 ^ 32)
          else if acc then accElem s unit row j else 0) ∧
      (∀ k, k ≠ unit * 2048 + row → Store.get 0#16384 t.here.arr.acc k = Store.get 0#16384 s.here.arr.acc k)) ∧
  (∀ s : State, MatrixRuns s → exec .transposerBlockOutput s = .next (s.put s.here.landTransposer))

/-- R37-R40, R153, R155, R156, R159, R190: the edge at which a stream meets each kind of bundle. A wait bundle whose
slot is done goes on to the next bundle, and one whose flag is not set waits where it is; a yield point restarts the
count of R41; the breakpoint bit traps. -/
def Obligations.BundleKinds : Prop :=
  ((∀ (s t u : State) (w next : Nat) (k : Slot) (i : Instr), Ready s → Runs s w next k i t u →
    let done := if u.here.iss.undone then 0#10 else k.bit
    let v := u.setIss fun c => { c with banks := oneUses t w next k i }
    ((decodeBundle w).wait = true → exec .waitBundle s = .next (edgeEnd s.here.handler
      (finishWait (decodeBundle w) done 0 (v.mod fun d => d.observeDone w done [(k, i)])))) ∧
    ((decodeBundle w).wait = false → u.here.iss.undone = false → (decodeBundle w).yields = true →
      exec .yieldPoint s = .next (afterBundle s.here.handler w (oneUses t w next k i) u))) ∧
   (∀ (s t : State) (w next : Nat) (k : Slot) (i : Instr) (p : BitVec 5), MeetsNop s w next k i p t →
    ((decodeBundle w).wait = true → t.here.sr.flg.getLsbD p.toNat = true →
      ∃ e, exec .waitBundle s = .next e ∧ e.here.ctl.waiting = none ∧ e.here.ctl.yieldCount = 0 ∧
        e.here.sr.cycle = t.here.sr.cycle + 1#64) ∧
    ((decodeBundle w).wait = true → t.here.sr.flg.getLsbD p.toNat = false →
      ∃ e, exec .waitBundle s = .next e ∧ e.here.ctl.waiting = some 0#10 ∧ e.here.ctl.pc = t.here.ctl.pc ∧
        e.here.sr.cycle = t.here.sr.cycle + 1#64) ∧
    ((decodeBundle w).wait = false → (decodeBundle w).yields = true →
      ∃ e, exec .yieldPoint s = .next e ∧ e.here.ctl.yieldCount = 0 ∧ e.here.sr.cycle = t.here.sr.cycle + 1#64))) ∧
  ((∀ (s t : State) (w next : Nat), Ready s → meets s = some (w, next, t) → (decodeBundle w).dbit = true →
    t.here.sr.kstat.getLsbD 2 = true → t.here.ctl.dskip = false →
    (∀ k i, (k, Except.ok i) ∈ (decodeBundle w).slots → ∃ u, runSlot i
      ((slotsState t w next ((decodeBundle w).slots.filterMap fun x => match x.2 with
        | .ok j => some (x.1, j)
        | .error _ => none)).atSlot k (slotBits w k)) = .next u) →
    exec .bundleBreakpoint s = .next (trappedHere ⟨0x19, 0#64, 0#64⟩ 0#10 t)) ∧
   (∀ (s t : State) (w next : Nat), Ready s → s.here.handler = false → meets s = some (w, next, t) →
    (decodeBundle w).slots = [] → (decodeBundle w).dbit = true → t.here.sr.kstat.getLsbD 2 = true →
    t.here.ctl.dskip = false → t.here.pipe.next = [] →
    ∃ e, exec .bundleBreakpoint s = .next e ∧ e.here.sr.tcause = 0x19#8 ∧ e.here.sr.kstat.getLsbD 4 = true ∧
      e.here.ctl.level = .kernel ∧ e.here.ctl.pc = s.here.sr.kvec.toNat)) ∧
  (∀ (s t : State) (i0 i1 : Word), Ready s → s.here.ctl.fetched = none → fetch (opened s) = (.fault i0 i1, t) →
    exec .illfetch s = .next (trappedHere ⟨0x12, i0, i1⟩ 0#10 (t.mod Die.beginCycle))) ∧
  (∀ (s t : State) (w next : Nat), Ready s → s.here.ctl.fetched = none → fetch (opened s) = (.bundle w next true, t) →
    ((decodeBundle w).wait = false ∨ s.here.ctl.preempt = false) →
    exec .literalFetch s = .next (edgeEnd s.here.handler
      (let b := (fixedCost w true t.here).2
       stallCycle (t.put { t.here with
         ctl.fetched := some (w, next, true), ctl.paid := 1, ctl.stall := 1 + b, ctl.clash := b })))) ∧
  (∀ (s t : State) (w next : Nat), Ready s → meets s = some (w, next, t) → (decodeBundle w).slots = [] →
    (decodeBundle w).reserved = false → (decodeBundle w).dbit = false → (decodeBundle w).wait = false →
    (scratchCost t.here.iss.banks = 0 ∨ 2 ≤ t.here.ctl.paid) →
    exec .emptyBundle s = .next (afterBundle s.here.handler w t.here.iss.banks (slotsState t w next []))) ∧
  (∀ (s t : State) (w next : Nat) (k : Slot) (e : DecodeError), Ready s → meets s = some (w, next, t) →
    (decodeBundle w).slots = [(k, .error e)] → (decodeBundle w).dbit = false →
    exec .unassignedOpcode s = .next (trappedHere ⟨0x10, BitVec.ofNat 64 (slotBits w k), 0#64⟩ k.bit t))

namespace Sys2Proof.Claims
open Sys2Proof.Machine

/-- An access lies in one line of a memory of 2^57 bytes, its line carries no error, and the caches are as the directory
keeps them. -/
structure OneLine (s : State) (r : Req) (ph : Phys) : Prop where
  sock : r.sock < 16
  inside : ph.pa % 128 + r.size ≤ 128 ∧ ph.pa < 2 ^ 57
  good : s.pkg.lineBad (lineOf ph.host ph.pa) = false
  caches : CachesWf s

/-- A request whose page is known comes to be served (R130, R131). -/
structure Served (s : State) (id : Nat) (r : Req) (ph : Phys) : Prop where
  found : s.pkg.req id = some r
  stage : r.stage = .walked
  phys : r.phys = some ph
  first : s.pkg.behind r = false

/-- Exactly `n` bytes of memory hold a number, the rest what they held (R3, R104). -/
def Holds (s t : State) (host : Bool) (a n v : Nat) : Prop :=
  ∀ (h : Bool) (b : Nat), b < 2 ^ 57 → t.memByte h b =
    if h = host ∧ a ≤ b ∧ b < a + n then BitVec.ofNat 8 (v / 256 ^ (b - a)) else s.memByte h b

/-- A request is performed with a reply. -/
def Performed (t : State) (id : Nat) (r : Req) (reply : Reply) : Prop :=
  t.pkg.req id = some { r with stage := .performed, reply := reply }

/-- The value of an atomic operation (R185), for the integer operations and `XCHG`. -/
def atomBits {w : Nat} (op : Nat) (m v : BitVec w) : BitVec w :=
  match op with
  | 0 => m + v
  | 1 => m - v
  | 2 => if v.slt m then v else m
  | 3 => if m.slt v then v else m
  | 4 => if v.ult m then v else m
  | 5 => if m.ult v then v else m
  | 6 => m &&& v
  | 7 => m ||| v
  | 8 => m ^^^ v
  | _ => v

/-- What an atomic operation leaves in memory, on 4 or 8 bytes. -/
def atomResult (r : Req) (m : Nat) : Nat :=
  if r.size = 8 then (atomBits r.op (BitVec.ofNat 64 m) r.data).toNat
  else (atomBits r.op (BitVec.ofNat 32 m) (r.data.setWidth 32)).toNat

/-- A heap of R272: no entry is below its parent. -/
def IsHeap (h : List Nat) : Prop := ∀ i, 0 < i → i < h.length → keyLess (h.getD i 0) (h.getD ((i - 1) / 2) 0) = false

end Sys2Proof.Claims

open Sys2Proof Sys2Proof.Machine Sys2Proof.Claims

/-- R30, R109, R114, R128, R143, R145, R147, R185, R263, R270, R275, R354, R390: the steps of a memory request. That a read
which nothing orders after a write may miss it, and then has the value before it, is the model's choice of R141 (log 18). -/
def Obligations.MemoryRequestSteps : Prop :=
  (∀ (id : Nat) (r : Req) (s : State), s.pkg.req id = some r → r.stage = .issued → r.kind.memory = true →
    (∀ ph s1, s.translate r.sock r.part r.va r.kind.writes = (.ok ph, s1) → ph.mig = false →
      exec (.pageWalk id) s = .next (s1.modPkg (·.putReq { r with stage := .walked, phys := some ph }))) ∧
    (∀ f s1, s.translate r.sock r.part r.va r.kind.writes = (.error f, s1) → r.kind ≠ .monitor →
      s1.resident r.sock r.kern = true →
      exec (.pageWalk id) s = .next ((s1.modPkg (·.putReq { r with stage := .held })).reportFault
        ⟨r.part, r.va, r.kind.access, f.code, r.sock, r.kern, r.region⟩ (.request r.id)))) ∧
  (∀ (id : Nat) (r : Req) (ph : Phys) (s : State), Served s id r ph → r.kind = .load → r.sock < 16 → CachesWf s →
    let line := lineOf ph.host ph.pa
    let m := bytesNat ((List.range r.size).map fun b => s.memByte ph.host (ph.pa + b))
    ∃ t, exec (.directoryRequest id) s = .next t ∧ MemoryReadsAsBefore s t ∧
      (∀ k, k ≠ r.sock → t.die k = s.die k) ∧
      (t.die r.sock) = { s.die r.sock with cache.l1 := (t.die r.sock).cache.l1 } ∧
      (s.pkg.lineBad line = true → Performed t id r (.bad line)) ∧
      (s.pkg.lineBad line = false → s.pkg.races r.sock line = true →
        Performed t id r (.race line (s.pkg.tag line).agent)) ∧
      (s.pkg.lineBad line = false → s.pkg.races r.sock line = false →
        (s.pkg.missable r ph = none → Performed t id r (.data (BitVec.ofNat 64 m))) ∧
        (∀ x, s.pkg.missable r ph = some x →
          Performed t id r (.data (BitVec.ofNat 64 m)) ∨ Performed t id r (.data (BitVec.ofNat 64 x.old))))) ∧
  (∀ (id : Nat) (r : Req) (ph : Phys) (s : State), Served s id r ph → r.kind = .loadRo → OneLine s r ph → r.size ≤ 8 →
    Store.get none (s.die r.sock).cache.ro (lineOf ph.host ph.pa) = none ∨ ph.ms = true →
    ∃ t, exec (.directoryRequest id) s = .next t ∧ MemoryUnchanged s t ∧
      Performed t id r
        (.data (BitVec.ofNat 64 (bytesNat ((List.range r.size).map fun b => s.memByte ph.host (ph.pa + b)))))) ∧
  (∀ (id : Nat) (r : Req) (ph : Phys) (s : State), Served s id r ph → r.kind = .store → OneLine s r ph →
    (s.pkg.races r.sock (lineOf ph.host ph.pa) = false →
      ∃ t, exec (.directoryRequest id) s = .next t ∧ Holds s t ph.host ph.pa r.size r.data.toNat ∧
        Performed t id r .waiting ∧
        (ph.host = false → t.pkg.tag (lineOf ph.host ph.pa) = ⟨r.sock, s.pkg.regionOf r.sock⟩)) ∧
    (s.pkg.races r.sock (lineOf ph.host ph.pa) = true →
      ∃ t, exec (.directoryRequest id) s = .next t ∧ MemoryUnchanged s t ∧ t.pkg.tags = s.pkg.tags ∧ t.dies = s.dies ∧
        t.pkg.req id = some { r with
          stage := .performed
          refused := some (lineOf ph.host ph.pa, (s.pkg.tag (lineOf ph.host ph.pa)).agent) })) ∧
  (∀ (id : Nat) (r : Req) (ph : Phys) (s : State), Served s id r ph → r.kind = .monitor →
    (s.die r.sock).cache.monArming = some r.id →
    ∃ t, exec (.directoryRequest id) s = .next t ∧ MemoryUnchanged s t ∧ t.pkg.req id = none ∧
      (t.die r.sock).cache = { (s.die r.sock).cache with mon := some (lineOf ph.host ph.pa), monArming := none }) ∧
  (∀ (id : Nat) (r : Req) (ph : Phys) (s : State), Served s id r ph → OneLine s r ph →
    (r.size = 4 ∨ r.size = 8) →
    let m := bytesNat ((List.range r.size).map fun b => s.memByte ph.host (ph.pa + b))
    (r.kind = .atom → r.arv = none → r.op < 10 → s.pkg.missable r ph = none →
      ∃ t, exec (.strongAccessPerform id) s = .next t ∧ Holds s t ph.host ph.pa r.size (atomResult r m) ∧
        Performed t id r (.data (BitVec.ofNat 64 m))) ∧
    (r.kind = .red → r.arv = none → r.op < 10 →
      ∃ t, exec (.strongAccessPerform id) s = .next t ∧ Holds s t ph.host ph.pa r.size (atomResult r m) ∧
        Performed t id r .waiting) ∧
    (r.kind = .cas → r.arv = none → s.pkg.missable r ph = none →
      ∃ t, exec (.strongAccessPerform id) s = .next t ∧ Performed t id r (.data (BitVec.ofNat 64 m)) ∧
        Holds s t ph.host ph.pa r.size (if m = r.data.toNat % 256 ^ r.size then r.data2.toNat else m)) ∧
    (∀ x, r.kind = .atom ∨ r.kind = .cas → r.arv = none → s.pkg.missable r ph = some x →
      ∃ t, exec (.strongAccessPerform id) s = .next t ∧ (Performed t id r (.data (BitVec.ofNat 64 m)) ∨
        (Performed t id r (.data (BitVec.ofNat 64 x.old)) ∧ MemoryUnchanged s t))) ∧
    (r.kind = .heap → r.arv = none →
      let h := s.heapAt ph r.data.toNat
      exec (.strongAccessPerform id) s = .next (((s.heapWrite r.sock ph h.2).modPkg fun p =>
        p.meet r.sock (lineOf ph.host ph.pa) true none).perform r (.data h.1)))) ∧
  (∀ (id : Nat) (r : Req) (o : Obj) (s : State), s.pkg.req id = some r → r.stage = .walked →
    s.pkg.controlBehind r = false → objOf r.va.toNat = some o →
    (r.kind = .krd → exec (.strongAccessPerform id) s = .next (s.perform r (.data (s.readObj r.part o)))) ∧
    (r.kind = .kwr → exec (.strongAccessPerform id) s = .next
      ((s.modPkg (·.putReq { r with stage := .performed })).writeObj r.part o r.data))) ∧
  (∀ (id : Nat) (r : Req) (s : State), s.pkg.req id = some r → r.stage = .performed → r.kind.lands = true →
    s.resident r.sock r.kern = true →
    ∃ t, exec (.landingDataArrival id) s = .next t ∧ t.pkg.req id = none ∧ MemoryUnchanged s t ∧
      (t.die r.sock).regs = (s.die r.sock).regs ∧
      (t.die r.sock).pipe.landings = (s.die r.sock).pipe.landings.map fun l =>
        if l.id = id then { l with reply := r.reply } else l) ∧
  (∀ (id : Nat) (r : Req) (s : State), s.pkg.req id = some r → r.stage = .performed →
    (r.kind = .store ∨ r.kind = .red ∨ r.kind = .kwr) → s.resident r.sock r.kern = true →
    ∃ t, exec (.storeAcknowledge id) s = .next t ∧ t.pkg.req id = none ∧ MemoryUnchanged s t ∧
      (t.die r.sock).regs = (s.die r.sock).regs ∧
      (r.refused = none → (∀ line, r.reply ≠ .bad line) → (t.die r.sock) = s.die r.sock) ∧
      (∀ line agent, r.refused = some (line, agent) → (s.die r.sock).ctl.refused = none →
        (t.die r.sock).ctl.refused = some (r.id, line, agent, 1)))

/-- R272: `HEAPINS` keeps the heap, and what it holds: with room the new entry joins; a new entry above the
root replaces it, and the root's token is the one evicted; any other is rejected. -/
def Obligations.HeapInsertKeepsTheHeap : Prop :=
  ∀ (cap new : Nat) (h : List Nat), IsHeap h → h.length ≤ cap → 0 < cap →
    let r := heapInsert cap h new
    IsHeap r.2.2 ∧
    (h.length < cap → r.1 = 0 ∧ r.2.1 = 0 ∧ List.Perm r.2.2 (new :: h)) ∧
    (h.length = cap → keyLess (h.headD 0) new = true →
      r.1 = 1 ∧ r.2.1 = entryToken (h.headD 0) ∧ List.Perm r.2.2 (new :: h.tail)) ∧
    (h.length = cap → keyLess (h.headD 0) new = false → r.1 = 2 ∧ r.2.1 = 0 ∧ r.2.2 = h)

namespace Sys2Proof.Claims
open Sys2Proof.Machine

/-- An operation of the engines' list whose kernel is on its die and whose flag somebody waits for (R277, R349). -/
structure Pending (s : State) (id : Nat) (e : Engine) (stage : EngineStage) : Prop where
  found : s.pkg.engine id = some e
  stage : e.stage = stage
  wanted : e.orphan = false
  home : s.resident e.sock e.kern = true

/-- The flag of a completion (R57, R277): set, with its error flag when the code is not 0; the operation is gone. -/
structure Finished (s t : State) (e : Engine) (err : Bool) : Prop where
  gone : t.pkg.engine e.id = none
  flg : (t.die e.sock).sr.flg = (s.die e.sock).sr.flg ||| BitVec.ofNat 32 (2 ^ e.flag)
  flgerr : (t.die e.sock).sr.flgerr =
    if err then (s.die e.sock).sr.flgerr ||| BitVec.ofNat 32 (2 ^ e.flag) else (s.die e.sock).sr.flgerr

/-- One element of a scratchpad copy: where it comes from, where it goes, its bytes (R119, R120). -/
def moveFrom (e : Engine) (c : CopyJob) : Int := c.src.addr (c.srcAt (c.index e.prog.moved))
def moveTo (e : Engine) (c : CopyJob) : Int := c.dst.addr (c.dstAt (c.index e.prog.moved))
def moveBytes (c : CopyJob) : Nat := elemBytes c.src.fmt

/-- An exchange of the engines' list. -/
structure Posted (s : State) (id : Nat) (e : Engine) (x : Exchange) (stage : EngineStage) : Prop where
  op : Pending s id e stage
  job : e.job = .exchange x

end Sys2Proof.Claims

open Sys2Proof Sys2Proof.Machine Sys2Proof.Claims

/-- R117-R123, R277-R283, R325: the steps of the engines' operations. That a copy moves element by element, as many as its
event says, and what its record counts on the way, are the model's choice (log 20). -/
def Obligations.EngineSteps : Prop :=
  (∀ (id n : Nat) (e : Engine) (c : CopyJob) (s : State), s.pkg.copyOf id = some (e, c) →
    (e.stage = .sent → s.copyReady e = true →
      exec (.copyStart id 0) s = .next (s.modPkg (·.engineStage id .begun))) ∧
    (e.stage = .begun → c.moves = true → exec (.copyStart id n) s = .next (s.copyMoves n id))) ∧
  (∀ (id : Nat) (e : Engine) (c : CopyJob) (s : State), Pending s id e .begun → e.job = .copy c → c.moves = true →
    e.prog.moved < c.total → c.src.loc = 1 → c.dst.loc = 1 → c.dst.fmt = c.src.fmt → c.src.fmt ≠ 5 →
    inRange (moveFrom e c) (moveBytes c) (s.die e.sock).spsize = true →
    inRange (moveTo e c) (moveBytes c) (s.die e.sock).spsize = true →
    ∃ t, exec (.copyStart id 1) s = .next t ∧ (∃ f, t.pkg.engine id = some f ∧ f.prog.moved = e.prog.moved + 1 ∧
        f.prog.bytes = e.prog.bytes + moveBytes c ∧ f.prog.code = e.prog.code) ∧
      ∀ b : Int, (t.die e.sock).spByte b =
        if moveTo e c ≤ b ∧ b < moveTo e c + moveBytes c then (s.die e.sock).spByte (moveFrom e c + (b - moveTo e c))
        else (s.die e.sock).spByte b) ∧
  (∀ (id : Nat) (e : Engine) (c : CopyJob) (s : State), s.pkg.copyOf id = some (e, c) → e.stage = .begun →
    (c.inside = false → exec (.copyComplete id) s = .next (s.finish e [] true)) ∧
    (c.inside = true → c.check ≠ 0 →
      exec (.copyComplete id) s = .next (s.finish e (copyRecord c c.check 0 0) true)) ∧
    (c.moves = true → e.prog.moved = c.total → e.prog.acked = e.prog.sent → c.desc.getLsbD 24 = false →
      exec (.copyComplete id) s = .next ((s.modKernelDie e.sock e.kern fun d =>
        if e.orphan then d else d.bankDone e.id e.flag).finish e (copyRecord c e.prog.code
        (if c.desc.getLsbD 28 then e.prog.crc ^^^ 0xFFFFFFFF else 0) e.prog.bytes) (e.prog.code != 0)))) ∧
  (∀ (id : Nat) (e : Engine) (s : State), s.pkg.engine id = some e →
    (e.stage = .sent → s.mayAct e = true → exec (.engineCompletion id) s = .next (s.act e)) ∧
    (∀ code value, e.stage = .decided code value →
      exec (.engineCompletion id) s = .next (s.finishDecided e code value))) ∧
  (∀ (id c : Nat) (v : BitVec 32) (e : Engine) (s : State), Pending s id e .sent → s.mayAct e = true →
    e.status = none → e.owns (s.pkg.counter c).owner = true →
    (e.job = .arrive c v → ∃ t, exec (.engineCompletion id) s = .next t ∧
      t.pkg.counter c = { s.pkg.counter c with value := (s.pkg.counter c).value + v } ∧
      Finished s t e (s.pkg.counter c).token) ∧
    (e.job = .arriveSet c v → ∃ t, exec (.engineCompletion id) s = .next t ∧
      t.pkg.counter c = { s.pkg.counter c with value := v, token := false } ∧ Finished s t e false)) ∧
  (∀ (id q : Nat) (e : Engine) (s : State), Pending s id e .sent → s.mayAct e = true → e.status = none →
    e.owns (s.pkg.pair q).owner = true → e.job = .enqtClose q →
    ∃ t, exec (.engineCompletion id) s = .next t ∧ t.pkg.pair q = { s.pkg.pair q with closed := true } ∧
      Finished s t e false) ∧
  (∀ (pair : BitVec 6) (id off : Nat) (rest : List Nat) (high : Bool) (x : Tile) (e : Engine) (s : State),
    Pending s id e .begun → e.id = id → e.job = .take pair.toNat off → e.status = none →
    (s.pkg.pair pair.toNat).takers = id :: rest → (s.pkg.pair pair.toNat).choose = some (high, x) →
    x.ctr = 0xFFFF → off + 64 ≤ (s.die e.sock).spsize →
    ∃ t, exec (.takeDeliver pair) s = .next t ∧ Finished s t e false ∧
      (t.pkg.pair pair.toNat).takers = rest ∧
      (t.pkg.pair pair.toNat).high.length + (t.pkg.pair pair.toNat).low.length ≤
        (s.pkg.pair pair.toNat).high.length + (s.pkg.pair pair.toNat).low.length ∧
      ⟨e.sock, e.kern, pair.toNat, high, x⟩ ∈ t.pkg.taken ∧
      ∀ b : Nat, b < 48 → (t.die e.sock).spByte (off + b : Nat) = BitVec.ofNat 8 (x.payload.toNat / 2 ^ (8 * b))) ∧
  (∀ (txn name : Word) (x : Txn) (o : LockOut) (s : State), s.pkg.garnet.txnOf txn = some x → x.wounded = true →
    x.revoked = false → x.graceEnd ≤ s.pkg.ptime.toNat →
    revokeTxn s.pkg.ptime.toNat ⟨s.pkg.garnet, [], [], [], []⟩ txn = (o, some name) →
    exec (.wgraceExpiry txn) s = .next ((s.applyLock o).regionRecord x.rcb
      (regionRecordBytes 2 0 x.sock x.kern s.pkg.ptime.toNat txn.toNat name.toNat)))

/-- R288-R291, R303, R307-R309, R414: the steps of an exchange. The records of a backlog ring (log 21), what a detour sends
again (log 31) and how a vote is decided (log 32) have the model's form. -/
def Obligations.ExchangeSteps : Prop :=
  (∀ (id k : Nat) (e f : Engine) (x y : Exchange) (s : State), Posted s id e x .begun → x.pairwise = true →
    x.fail = 0 → x.absentRank x.toRank = false → x.peer e.sock x.toRank = .here k →
    s.pkg.fencedDie e.kern k = false → s.pkg.partner e x k = some (f, y) → f.stage = .begun →
    s.resident f.sock f.kern = true →
    exec (.exchangePairing id []) s = .next ((s.give e x (pairGiven x x.end_ y.end_) true true).give f y
      (pairGiven y y.end_ x.end_) true true)) ∧
  (∀ (id : Nat) (e : Engine) (x : Exchange) (s : State), Posted s id e x .begun → x.pairwise = true → x.fail = 0 →
    (x.absentRank x.toRank = true → exec (.exchangePairing id []) s =
      .next (s.give e x (absentGiven x x.end_) true true)) ∧
    (∀ k, x.absentRank x.toRank = false → x.peer e.sock x.toRank = .here k → s.pkg.fencedDie e.kern k = true →
      exec (.exchangePairing id []) s = .next (s.give e x (Given.only 9) true true))) ∧
  (∀ (id code n : Nat) (e : Engine) (x : Exchange) (s : State), Posted s id e x (.decided code n) → e.id = id →
    s.pkg.exchangeBehind e x = false → x.statusAt + 8 ≤ (s.die e.sock).spsize →
    ∃ t, exec (.exchangeComplete id) s = .next t ∧ Finished s t e (2 ≤ x.res.code) ∧
      ∀ b : Nat, b < 8 → (t.die e.sock).spByte (x.statusAt + b : Nat) =
        BitVec.ofNat 8 ((x.res.code % 2 ^ 32 + x.res.elems % 2 ^ 24 * 2 ^ 32) / 2 ^ (8 * b))) ∧
  (∀ (id : Nat) (e : Engine) (x : Exchange) (s : State), Posted s id e x .sent → x.opcode = 7 →
    s.waitsFor e = false → exec (.xfanArrival id none none) s = .next (s.fanSend e x)) ∧
  (∀ (id code n : Nat) (e : Engine) (x : Exchange) (l : Launch) (s : State), Posted s id e x .begun → e.id = id →
    x.opcode = 7 → x.res.got = false → s.pkg.launch e.kern = some l →
    ∃ t y, exec (.xfanArrival id (some (code, n)) none) s = .next t ∧
      t.pkg.engine id = some { e with job := .exchange y, stage := .decided code n } ∧
      y.res.code = code ∧ y.res.elems = n) ∧
  (∀ (id : Nat) (yes : Bool) (v : Vote) (s : State), s.pkg.votes = [v] → v.id = id → s.pkg.farVotes = [] →
    s.pkg.heldRoutes = [] →
    ∃ t, exec (.swapDecision id yes) s = .next t ∧ t.pkg.votes = [] ∧
      t.pkg.routes = s.pkg.routes ∧
      t.pkg.regs.rtact = (if v.yes && yes then !s.pkg.regs.rtact else s.pkg.regs.rtact) ∧
      t.pkg.regs.armed = (if v.yes && yes then false else s.pkg.regs.armed) ∧
      t.pkg.regs.swaplk = (if v.yes && yes then false else s.pkg.regs.swaplk && !v.holds) ∧
      ∀ (e : Engine) (x : Exchange), s.pkg.swapArrivals v = [(e, x)] → s.pkg.engine e.id = some e →
        (t.pkg.engine e.id).map (·.stage) = some (.decided (if v.yes && yes then 0 else 11) v.elems)) ∧
  (∀ (id : Nat) (e : Engine) (x : Exchange) (s : State), s.pkg.exchangeOf id = some (e, x) → e.stage = .begun →
    x.pairwise = true → x.fail ≠ 0 → s.isAway e.sock e.kern = true →
    s.pkg.exchangeBehind e x = false → s.ringFits e.sock e.kern (ringRecords e x x (Given.only x.fail) true) = true →
    exec (.backlogStore id) s = .next (s.give e x (Given.only x.fail) true true)) ∧
  (∀ (id k : Nat) (e f : Engine) (x y : Exchange) (s : State), s.pkg.exchangeOf id = some (e, x) → e.stage = .begun →
    x.pairwise = true → x.fail = 0 → x.absentRank x.toRank = false → x.peer e.sock x.toRank = .here k →
    s.pkg.fencedDie e.kern k = false → s.pkg.partner e x k = some (f, y) → f.stage = .begun →
    s.isAway e.sock e.kern = true → s.resident f.sock f.kern = true → s.pkg.exchangeBehind e x = false →
    s.ringFits e.sock e.kern (ringRecords e x x (pairGiven x x.end_ y.end_) true) = true →
    ∃ t, exec (.backlogStore id) s = .next t ∧
      t = (s.give e x (pairGiven x x.end_ y.end_) true true).give f y (pairGiven y y.end_ x.end_) true true ∧
      t.pkg.backlog = s.pkg.backlog ++
        ringRecords e x (x.take (pairGiven x x.end_ y.end_) true true) (pairGiven x x.end_ y.end_) true) ∧
  (∀ (e : Engine) (x y : Exchange) (g : Given), x.writes g ≠ [] →
    (ringRecords e x y g true).map (fun b => (b.dest, b.bytes)) = x.writes g ∧
    (ringRecords e x y g true).getLast?.map (fun b => (b.flag, b.statusOff, b.statusWord)) =
      some (some e.flag, some y.statusAt, BitVec.ofNat 64 y.statusWord)) ∧
  (∀ (d : Die) (b : Backlog), b.flag = none → b.statusOff = none → d.applyBacklog b = d.spWrite b.dest b.bytes) ∧
  (∀ (id dead : Nat) (more : List Nat) (via via2 : Bool) (e : Engine) (x : Exchange) (s : State),
    Posted s id e x .begun → x.opcode ≠ 8 → (x.crosses.filter fun d => !s.pkg.linkUp d) = dead :: more →
    let lost := (x.sentMessages s.pkg e).filter fun m => (dead :: more).contains (s.pkg.towards m.1 31 m.2)
    let p := s.pkg.forgetWaiting (lost.map (·.2))
    (∀ d, via = true → d = s.pkg.regs.detour.toNat → s.pkg.detourFor dead d = true → d ∉ more →
      exec (.linkDetour id via via2) s = .next { s with pkg := { p with
        outbox := p.outbox ++ lost.map fun m => .link d (p.portOf d) m.2 } }) ∧
    (via = false → via2 = false → exec (.linkDetour id via via2) s =
      .next (State.giveOne { s with pkg := p } true e x (Given.only 10) true true)))

namespace Sys2Proof.Claims
open Sys2Proof.Machine

/-- A runtime call is being served (R350): the acting die is in K after `KCALL`, nothing of the handler's is in flight, and
s3 holds the call's number. -/
structure Calls (s : State) (n : Nat) : Prop where
  level : s.here.inK = true
  cause : s.here.sr.tcause = 0x17#8
  settled : s.here.pipe.due = [] ∧ s.here.pipe.landings = []
  number : (s.here.readS 3#6).toNat = n

/-- The stream goes on after a call: code in s3, value in s4 (R350). -/
def answered (s t : State) (code value : Nat) : State := t.mod fun d => d.callReturn s.pkg.clk code value

/-- A packet that passes the checks of an enqueue and is at hand, in the order of its cycle (R367, R368). -/
def Enqueued (s : State) (b : BitVec 1024) (origin : Nat) : Prop :=
  s.pkg.regs.bootStep = 8#4 ∧ s.enqueueCode b origin (s.packetLevel b) = 0 ∧ s.packetHere b origin = true ∧
  s.pkg.mayEnqueue origin = true

end Sys2Proof.Claims

open Sys2Proof Sys2Proof.Machine Sys2Proof.Claims

/-- R389-R393: the fault service. The layout of a record and that its ring lies in host memory are the model's reading
(log 26). -/
def Obligations.FaultServiceSteps : Prop :=
  (∀ (v : Word) (s : State), s.pkg.faults = [] →
    exec (.frctlWrite v) s = .next (s.modPkg fun p => { p with regs := { p.regs with
      frvec := (v >>> 32).setWidth 8, frtail := (v >>> 16).setWidth 16, frsize := v.setWidth 16 } })) ∧
  (∀ (r : FaultRec) (s : State), s.pkg.faults.find? (fun x => x.recorded && x.index.isNone) = some r →
    s.pkg.regs.frsize ≠ 0#16 → s.pkg.regs.frbase.toNat < 2 ^ 48 →
    (s.pkg.regs.frhead.toNat + 1) % s.pkg.regs.frsize.toNat ≠ s.pkg.regs.frtail.toNat →
    ∃ t, exec .faultRecordWrite s = .next t ∧
      t.pkg.regs = { s.pkg.regs with
        frhead := BitVec.ofNat 16 ((s.pkg.regs.frhead.toNat + 1) % s.pkg.regs.frsize.toNat) } ∧
      t.pkg.outbox = s.pkg.outbox ++ [.vector 0 s.pkg.regs.frvec.toNat] ∧
      ∀ b, b < 64 → t.memByte true (s.pkg.regs.frbase.toNat + 64 * s.pkg.regs.frhead.toNat + b) =
        (faultBytes r).getD b 0#8) ∧
  (∀ (index : BitVec 16) (id : Nat) (r : FaultRec) (q : Req) (s : State), s.pkg.faults = [r] →
    r.recorded = true → r.index = some index.toNat → r.waiters = [.request id] → s.pkg.regs.frsize ≠ 0#16 → s.pkg.req id = some q →
    (∃ t, exec (.fransRetry index) s = .next t ∧ t.pkg.faults = [] ∧ t.pkg.req id = some { q with stage := .issued }) ∧
    (s.resident q.sock q.kern = true →
      (∃ t, exec (.fransKill index) s = .next t ∧ (t.die q.sock).ctl.run = .idle ∧
        (t.die q.sock).ctl.endStatus = BitVec.ofNat 16 (0xF000 + r.cause) ∧ t.pkg.faults = []))) ∧
  (∀ (index : BitVec 16) (id : Nat) (r : FaultRec) (e : Engine) (a : Bool × Nat) (s : State), s.pkg.faults = [r] →
    r.recorded = true → r.index = some index.toNat → r.waiters = [.engine id] → s.pkg.regs.frsize ≠ 0#16 →
    s.pkg.engine id = some e → e.id = id → e.held = some a → e.stage = .stalled →
    ∃ t, exec (.fransAbort index) s = .next t ∧ t.pkg.faults = [] ∧
      t.pkg.engine id = some { e with aborts := a :: e.aborts, held := none, stage := .begun })

/-- R400-R405, R428, R429, R434: migration, errors, stacks and dies. The tags of a readmitted stack (log 5), where an error
of a die's arrays is met (log 36) and what a runtime image's bytes hold (log 22) are the model's choice. -/
def Obligations.MigrationAndErrorSteps : Prop :=
  (∀ s : State, s.pkg.regs.migcmd.getLsbD 1 = false →
    ∃ t, exec .migrationStart s = .next t ∧ t.pkg.regs = { s.pkg.regs with migcmd := s.pkg.regs.migcmd ||| 2#4 } ∧
      t.dies = s.dies ∧ MemoryUnchanged s t ∧
      t.pkg.migration = some ⟨s.pkg.regs.migsrc.toNat / 4096 % 2 ^ 40 * 4096, s.pkg.regs.migdst.toNat / 4096 % 2 ^ 40 * 4096,
        pageBytes (s.pkg.regs.migsrc.toNat % 8)⟩) ∧
  (∀ (m : Migration) (s : State), s.pkg.migration = some m → s.pkg.drained m = true →
    exec (.migrationDone []) s = .next (s.migrate m [])) ∧
  (∀ (m : Migration) (s : State), s.pkg.migration = some m → s.pkg.drained m = true → s.pkg.lost = [] →
    s.pkg.badStacks = [] → m.src % 128 = 0 → m.dst % 128 = 0 → m.bytes % 128 = 0 →
    m.src + m.bytes ≤ 2 ^ 57 → m.dst + m.bytes ≤ 2 ^ 57 → CachesWf s → s.Inv →
    ∃ t, exec (.migrationDone []) s = .next t ∧ t.pkg.migration = none ∧ t.pkg.regs.migcmd.getLsbD 1 = false ∧
      t.pkg.regs.migcmd.getLsbD 2 = true ∧
      ∀ b, b < m.bytes → t.memByte false (m.dst + b) = s.memByte false (m.src + b)) ∧
  (∀ s : State, ∃ t, exec .correctedError s = .next t ∧ t.dies = s.dies ∧ MemoryUnchanged s t ∧
    t.pkg.regs = { s.pkg.regs with
      errCorr := if s.pkg.regs.errCorr = 0xFFFFFFFF#32 then 0xFFFFFFFF#32 else s.pkg.regs.errCorr + 1#32 }) ∧
  (∀ (k : Nat) (s : State), (s.die k).ctl.run ≠ .idle →
    ∃ t, exec (.uncorrectableError (.die k)) s = .next t ∧
      t.die k = { s.die k with ctl := { (s.die k).ctl with arrayErr := true } }) ∧
  (∀ (k : Nat) (s : State), k < 16 → (s.die k).ctl.run = .idle → s.pkg.sock k = .active →
    ∃ t, exec (.uncorrectableError (.die k)) s = .next t ∧ t.pkg.sock k = .fenced) ∧
  (∀ (line : Nat) (s : State), line < 2 ^ 52 →
    ∃ t, exec (.uncorrectableError (.lineDirty line)) s = .next t ∧ t.dies = s.dies ∧ t.pkg.lineBad line = true) ∧
  (∀ (stack : BitVec 4) (s : State), s.pkg.badStacks.contains stack.toNat = true →
    ∃ t, exec (.stackReadmission stack) s = .next t ∧ t.pkg.badStacks = s.pkg.badStacks.filter (· != stack.toNat) ∧
      ∀ a, a < 2 ^ 57 → Config.homeStack (a / 128) = stack.toNat → t.memByte false a = 0#8 ∧
        t.pkg.tag (a / 128) = Tag.published) ∧
  (∀ s : State, s.pkg.sock s.cur = .resetting →
    exec .dieResetDone s = .next ((s.put Die.cold).modPkg (·.setSock s.cur .empty))) ∧
  (∀ s : State, s.pkg.sock s.cur = .active →
    exec .thermalFence s = .next (if s.here.ctl.run = .idle then s.fence s.cur 0 false
      else s.regionFault s.cur 8 0#16 0).rearrange) ∧
  (∀ (k : BitVec 4) (s : State), s.pkg.sock k.toNat = .admitting →
    (∃ t, exec (.admissionComplete k true) s = .next t ∧ t.pkg.sock k.toNat = .active ∧
      (t.die k.toNat).arr.rbank = (runtimeOf s.pkg.carrier.runtimeBytes).words ∧
      (t.die k.toNat).sr.kvec = (runtimeOf s.pkg.carrier.runtimeBytes).kvec) ∧
    exec (.admissionComplete k false) s = .next (s.modPkg (·.setSock k.toNat .fenced)))

/-- R350, R367-R377: launches, their dies, and the runtime's calls. The origin's start time is `PTIME` + 20,000 +
2 · `PSKEW` (R374). The order of the enqueues of one cycle, the reports of the packages and where the record of a refused
call goes are the model's reading (log 24). -/
def Obligations.LaunchSteps : Prop :=
  (∀ (b : BitVec 1024) (origin : Nat) (time : Word) (s : State), Enqueued s b origin →
    ∃ t, exec (.launchEnqueue b origin time) s = .next t ∧ t.pkg.nextKern = s.pkg.nextKern + 1 ∧
      ∃ l, t.pkg.launches = s.pkg.launches ++ [l] ∧ l.id = s.pkg.nextKern ∧ l.packet = b ∧ l.stage = .queued ∧
        l.level = s.packetLevel b ∧ (l.runnable.isSome = s.pkg.startHolds b)) ∧
  (∀ (b : BitVec 1024) (origin : Nat) (time : Word) (s : State), s.pkg.regs.bootStep = 8#4 →
    s.enqueueCode b origin (s.packetLevel b) ≠ 0 →
    ∃ t, exec (.launchEnqueue b origin time) s = .next t ∧ t.pkg.launches = s.pkg.launches) ∧
  (∀ (l : Launch) (rcb : Nat) (s : State), s.pkg.launches = [l] → l.stage = .queued → l.runnable.isSome = true →
    l.rcb = rcb → l.level < 16 → s.regionFaulted rcb = false → pktStartv l.packet = false →
    Store.get [] s.pkg.rounds l.level = [(rcb, 0)] → (s.pkg.wanted l).length ≤ s.effDies rcb → (∀ k ∈ l.saved, k < 16) →
    ∃ t, exec .launchSelect s = .next t ∧ ∃ m, t.pkg.launches = [m] ∧ m.stage = .selected ∧ m.id = l.id ∧
      m.reserved = s.pkg.wanted l) ∧
  (∀ (id at_ : Nat) (l : Launch) (s : State), s.pkg.launches = [l] → l.id = id → l.waits = true →
    l.runnable = some at_ → l.level < 15 → at_ + s.pkg.regs.agep.toNat ≤ s.pkg.ptime.toNat →
    ∃ t, exec (.agePromotion id) s = .next t ∧ ∃ m, t.pkg.launches = [m] ∧ m.level = l.level + 1 ∧
      m.runnable = some (at_ + s.pkg.regs.agep.toNat)) ∧
  (∀ (id : Nat) (l : Launch) (s : State), s.pkg.launch id = some l →
    exec (.launchReadyReport id true) s = .next (s.modPkg (·.putLaunch { l with remoteReady := true })) ∧
    (l.stage = .selected → l.multi = true → s.diesFree l = true → l.id = id →
      ∃ u, exec (.launchReadyReport id false) s = .next u ∧ u.dies = s.dies ∧
        u.pkg.launch id = some { l with stage := .ready, reported := true } ∧
        (33 ≤ l.origin → u.pkg.outbox = s.pkg.outbox ++
          [s.pkg.toPackage (l.origin - 33) (.ready (l.origin - 33) s.pkg.regs.pkgid.toNat l.packet l.when)])) ∧
    (∀ t, l.stage = .ready → 33 ≤ l.origin →
      exec (.startTimeBroadcast id t) s = .next (s.modPkg (·.putLaunch { l with stage := .timed t }))) ∧
    (∀ t, l.stage = .ready → l.origin < 33 → l.resume = false → l.id = id →
      (∀ k ∈ otherPackages s.pkg.regs.pkgid.toNat l.packet, k ∈ l.readyFrom) →
      let start := s.pkg.ptime + BitVec.ofNat 64 (20000 + 2 * s.pkg.pskew.toNat)
      ∃ u m, exec (.startTimeBroadcast id t) s = .next u ∧ u.dies = s.dies ∧
        u.pkg.launch id = some m ∧ m.stage = .timed start ∧ m.packet = l.packet ∧
        u.pkg.outbox = s.pkg.outbox ++ (otherPackages s.pkg.regs.pkgid.toNat l.packet).map fun k =>
          s.pkg.toPackage k (.start k l.packet l.when start))) ∧
  (∀ (id : Nat) (absent : List Nat) (l : Launch) (x : KernelData) (s s1 : State), s.pkg.launch id = some l →
    s.startDue l = true → s.doomed l = false → s.pkg.wanted l ≠ [] → s.diesFree l = true →
    s.fits .dies l.rcb (s.pkg.wanted l).length = true → s.readKernel l = (.ok x, s1) →
    exec (.gangStart id absent) s = .next (s1.startLaunch l x (s.pkg.clk + 1) (l.absent ++ absent))) ∧
  (∀ (s : State), s.here.ctl.run = .saving → s.pkg.unacknowledged s.cur s.pkg.nextId = false → s.here.landingsIn = true →
    exec .saveComplete s = .next ((s.saveContext s.cur
      (placeAt (Config.imagePage s.here.sr.kernid.toNat s.cur * 4096)) false).deschedule s.cur).rearrange) ∧
  (∀ (id : Nat) (l : Launch) (s : State), s.pkg.launch id = some l → l.stage = .running → l.running = [] →
    l.saved = [] → l.qent = false → (s.pkg.completer l ≠ s.pkg.regs.pkgid.toNat ∨ s.pkg.farDone l = true) →
    exec (.completionAction id) s = .next (s.completeLaunch l).rearrange) ∧
  (∀ s : State, Calls s 1 → s.pkg.unacknowledged s.cur s.pkg.nextId = false →
    s.enginesOut s.cur s.here.sr.kernid.toNat s.pkg.nextId 5 = false → s.pkg.mayEnqueue (s.cur + 1) = true →
    let a := (s.here.readS 4#6).toNat
    let b := BitVec.ofNat 1024 (s.here.spNat a 128)
    (a % 128 = 0 → a + 128 ≤ s.here.spsize → ∃ code value t,
      (s.release s.cur).enqueue b (s.cur + 1) (s.cur + 1) 0#64 = (code, value, t) ∧
      exec .kcEnqueue s = .next (answered s (if code = 0 then t else t.refusedCall b code) code value)) ∧
    ((a % 128 ≠ 0 ∨ s.here.spsize < a + 128) → exec .kcEnqueue s = .next (answered s (s.release s.cur) 9 0))) ∧
  (∀ (l : Launch) (s : State), Calls s 2 → s.pkg.launch s.here.sr.kernid.toNat = some l →
    exec .kcYield s = .next (answered s (s.modPkg (·.putLaunch { l with yield := true })).rearrange 0 0)) ∧
  (∀ s : State, Calls s 3 →
    let q := (s.here.readS 4#6).toNat % 64
    ownedBy (s.pkg.pair q).owner s.here.sr.partid.toNat s.here.sr.regionid.toNat = true → (s.pkg.pair q).high = [] → (s.pkg.pair q).low = [] →
    exec .kcTqopen s = .next (answered s (s.modPkg (·.putPair q { s.pkg.pair q with closed := false })) 0 0)) ∧
  (∀ s : State, Calls s 4 →
    let b := (s.here.readS 4#6).toNat % 4096
    ownedBy (s.pkg.barrier b).owner s.here.sr.partid.toNat s.here.sr.regionid.toNat = true →
    exec .kcBarreset s = .next (answered s (s.modPkg (·.barrierReset b)) 0 (s.pkg.barrier b).waiting.length)) ∧
  (∀ s : State, Calls s 5 → exec .kcRegion s = .next (answered s s 0
    (s.effPrio s.here.sr.rcbaddr.toNat + s.effFdom s.here.sr.rcbaddr.toNat * 2 ^ 16 + s.here.sr.partid.toNat * 2 ^ 32)))

namespace Sys2Proof.Claims
open Sys2Proof.Machine

/-- The events that move a port from one state to another, with the nanoseconds the port must have been there (R408). -/
def portMove (p : BitVec 5) : Instr → Option (PortState × PortState × Nat)
  | .portDrained q => if q = p then some (.draining, .quiet, 0) else none
  | .drainTimeout d => if d.port = p then some (.draining, .quiet, 100000) else none
  | .portGoDark q => if q = p then some (.quiet, .dark, 0) else none
  | .lanesTrained q => if q = p then some (.training, .verify, 0) else none
  | .trainingTimeout q => if q = p then some (.training, .failed, 250000000) else none
  | .verifyTimeout q => if q = p then some (.verify, .failed, 1000000) else none
  | .linkErrorBudgetExceeded q => if q = p then some (.up, .failed, 0) else none
  | _ => none

/-- A management command waits at the head of the ring (R412, R423). -/
structure Commanded (s : State) (c : BitVec 512) : Prop where
  next : s.nextCommand = some c
  mine : cmdPkg c = s.pkg.regs.pkgid.toNat

/-- The entry of the management completion ring for a command (R412). -/
def doneBits (c : BitVec 512) (status failed : Nat) : BitVec 128 :=
  BitVec.ofNat 128 (fieldAt c 16 16 + status * 2 ^ 16 + failed * 2 ^ 32)

/-- A command has been taken and has completed with a status (R412, R423). -/
structure CommandDone (s t : State) (c : BitVec 512) (status failed : Nat) : Prop where
  taken : t.pkg.bridge.mgmt.cons = s.pkg.bridge.mgmt.cons + 1
  counted : t.pkg.bridge.mgmt.cqprod = s.pkg.bridge.mgmt.cqprod + 1
  told : HostMsg.mgmtDone (doneBits c status failed) ∈ t.pkg.outbox

/-- A partition as `PARTNEW` asks for it (R421). -/
def askedPartition (c : BitVec 512) : Partition :=
  ⟨fieldAt c 32 16, fieldAt c 48 8, BitVec.ofNat 24 (fieldAt c 64 24), BitVec.ofNat 24 (fieldAt c 96 24), fieldAt c 128 64, true⟩

/-- The checks of R421 that make `PARTNEW` a bad command. -/
def partitionGood (s : State) (c : BitVec 512) : Prop :=
  let x := askedPartition c
  x.id ≠ 0 ∧ x.fn ≤ 16 ∧ fieldAt c 56 8 = 0 ∧ fieldAt c 88 8 = 0 ∧ fieldAt c 120 8 = 0 ∧ fieldAt c 256 256 = 0 ∧
  x.base.toNat &&& x.mask.toNat = 0 ∧ x.mask.toNat < 2 ^ 20 ∧ s.rootOk x.root = true

end Sys2Proof.Claims

open Sys2Proof Sys2Proof.Machine Sys2Proof.Claims

/-- R406-R409, R413: what moves a port, and nothing of the dies or of memory. That `FLIT_REPLAY` changes nothing, that a
port's timers count by `PTIME`, and which entry names a port are the model's choice (log 34). -/
def Obligations.PortsMove : Prop :=
  (∀ (i : Instr) (p : BitVec 5) (src dst : PortState) (ns : Nat) (s : State), portMove p i = some (src, dst, ns) →
    p.toNat < 24 → (s.pkg.port p.toNat).state = src → (ns = 0 ∨ (s.pkg.port p.toNat).since + ns ≤ s.pkg.ptime.toNat) →
    s.pkg.retopos = [] →
    ∃ t, exec i s = .next t ∧ t.dies = s.dies ∧ t.pkg.mem = s.pkg.mem ∧ t.pkg.regs = s.pkg.regs ∧
      (t.pkg.port p.toNat).state = dst ∧ (t.pkg.port p.toNat).since = s.pkg.ptime.toNat ∧
      (t.pkg.port p.toNat).nbr = (s.pkg.port p.toNat).nbr ∧
      ∀ q, q ≠ p.toNat → t.pkg.port q = s.pkg.port q) ∧
  (∀ (p : BitVec 5) (ns : Nat) (s : State), p.toNat < 24 → (s.pkg.port p.toNat).state = .dark →
    (s.pkg.port p.toNat).held = false → (s.pkg.port p.toNat).dark = some ns →
    (s.pkg.port p.toNat).since + ns ≤ s.pkg.ptime.toNat → s.pkg.retopos = [] →
    ∃ t, exec (.darkusExpiry p) s = .next t ∧ (t.pkg.port p.toNat).state = .training ∧
      (t.pkg.port p.toNat).retrain = if (s.pkg.port p.toNat).retrain = 0xFFF#12 then 0xFFF#12
        else (s.pkg.port p.toNat).retrain + 1#12) ∧
  (∀ (p : BitVec 5) (nbr expect : BitVec 20) (dim : BitVec 5) (d : Nat) (e : BitVec 64) (s : State), p.toNat < 24 →
    (s.pkg.port p.toNat).state = .verify → s.pkg.retopos = [] →
    s.pkg.entryNaming (s.pkg.port p.toNat).bank p.toNat = some (d, e) →
    ∃ t, exec (.identityFlit p nbr dim expect) s = .next t ∧ (t.pkg.port p.toNat).nbr = nbr ∧
      ((t.pkg.port p.toNat).state = .up ↔ nbr.toNat = routeExpect e ∧
        routeExpect e = s.pkg.regs.pkgid.toNat ^^^ 2 ^ (d - 4) ∧ dim.toNat = d ∧ expect = s.pkg.regs.pkgid) ∧
      ((t.pkg.port p.toNat).state ≠ .up → (t.pkg.port p.toNat).state = .failed)) ∧
  (∀ s : State, exec .flitReplay s = .next s)

/-- R412, R413, R420, R421: management commands. That the value of a completion is 0, and how the commands of partitions are
carried to other packages, are the model's choice (log 34). -/
def Obligations.ManagementCommands : Prop :=
  (∀ (c : BitVec 512) (s : State), s.nextCommand = some c → (fieldAt c 0 16 = 0 ∨ 4 < fieldAt c 0 16) →
    ∃ t, exec .unassignedManagementOpcode s = .next t ∧ CommandDone s t c 2 0) ∧
  (∀ (c : BitVec 512) (s : State), Commanded s c → fieldAt c 0 16 = 1 →
    (retopoBad c = true → ∃ t, exec .retopo s = .next t ∧ CommandDone s t c 2 0 ∧ t.pkg.routes = s.pkg.routes) ∧
    (retopoBad c = false → (cmdAt c 9 1 == 1) = s.pkg.regs.rtact →
      ∃ t, exec .retopo s = .next t ∧ CommandDone s t c 3 0 ∧ t.pkg.routes = s.pkg.routes) ∧
    (retopoBad c = false → (cmdAt c 9 1 == 1) = !s.pkg.regs.rtact → s.pkg.regs.swaplk = false →
      (∀ r ∈ cmdRecs c, s.pkg.portBusy r.port = false) → s.pkg.retopos = [] →
      ∃ t, exec .retopo s = .next t ∧ t.pkg.regs.armed = true ∧ t.pkg.regs.rtact = s.pkg.regs.rtact ∧
        ∀ d, 4 ≤ d → d < 20 →
          t.pkg.route (!s.pkg.regs.rtact) d = (match (cmdRecs c).find? (fun r => r.dim == d) with
            | none => s.pkg.route s.pkg.regs.rtact d
            | some r => BitVec.ofNat 64 (r.port + 128 + r.expect * 4096)) ∧
          t.pkg.route s.pkg.regs.rtact d = s.pkg.route s.pkg.regs.rtact d)) ∧
  (∀ (c : BitVec 512) (n : Nat) (s : State), Commanded s c → fieldAt c 0 16 = 2 → n < 24 →
    fieldAt c 52 12 = 0 → cmdAt c 11 1 = 0 → cmdAt c 12 52 = 0 → fieldAt c 64 24 = 2 ^ n →
    (s.pkg.port n).state = .dark →
    ∃ t, exec .relight s = .next t ∧ CommandDone s t c 0 0 ∧ (t.pkg.port n).state = .training ∧
      (t.pkg.port n).held = false) ∧
  (∀ (c : BitVec 512) (s : State), s.nextCommand = some c → fieldAt c 0 16 = 3 → partitionGood s c →
    subcubePackages (fieldAt c 64 24) (fieldAt c 96 24) = [s.pkg.regs.pkgid.toNat] →
    (∀ x ∈ s.pkg.partitions, x.id ≠ (askedPartition c).id ∧
      subcubesMeet x.base.toNat x.mask.toNat (fieldAt c 64 24) (fieldAt c 96 24) = false ∧
      ((askedPartition c).fn = 0 ∨ x.fn ≠ (askedPartition c).fn)) → s.pkg.bridgeStatus c = 0 →
    ∃ t, exec .partnew s = .next t ∧ CommandDone s t c 0 0 ∧
      t.pkg.partitions = s.pkg.partitions ++ [askedPartition c] ∧
      ((askedPartition c).id, (askedPartition c).fn, [s.pkg.regs.pkgid.toNat]) ∈ t.pkg.carried ∧
      Store.get 0#64 t.pkg.regs.ptroot (askedPartition c).id = BitVec.ofNat 64 (fieldAt c 192 64) &&& 0xFFFFFFFFFF001#64) ∧
  (∀ (c : BitVec 512) (fn : Nat) (s : State), s.nextCommand = some c → fieldAt c 0 16 = 4 → fieldAt c 48 464 = 0 →
    s.pkg.carried.find? (·.1 == fieldAt c 32 16) = some (fieldAt c 32 16, fn, [s.pkg.regs.pkgid.toNat]) →
    (∀ x ∈ s.pkg.partCmds, fieldAt x.bits 32 16 ≠ fieldAt c 32 16) →
    s.pkg.partitions.any (·.id == fieldAt c 32 16) = true → (∀ l ∈ s.pkg.launches, l.part ≠ fieldAt c 32 16) →
    (∀ l ∈ s.pkg.garnet.locks, l.part = fieldAt c 32 16 → l.holders = []) →
    ∃ t, exec .partend s = .next t ∧ CommandDone s t c 0 0 ∧
      t.pkg.partitions = s.pkg.partitions.filter (·.id != fieldAt c 32 16) ∧
      Store.get 0#64 t.pkg.regs.ptroot (fieldAt c 32 16) = 0#64 ∧
      (∀ q, (s.pkg.pair q).owner.part = fieldAt c 32 16 → (s.pkg.pair q).owner.region ≠ 0 →
        (t.pkg.pair q).closed = true ∧ (t.pkg.pair q).owner = Owner.none) ∧
      ∀ n, (s.pkg.barrier n).owner.part = fieldAt c 32 16 → (s.pkg.barrier n).owner.region ≠ 0 →
        (t.pkg.barrier n).owner = Owner.none)

/-- R416-R419, R424-R434: package time, the host's window, reset, bring-up, attestation, the clock. That `PSKEW` grows from
the moment of `HOLD`, the bound of an exchange and the millisecond of `CLOCK_STEP_UP` are the model's choice (log 35); so are
the empty memory after `POWER_ON` (log 2), one step of bring-up at each package clock edge (log 22), and the forwarding of
the window's accesses (log 23). -/
def Obligations.HostAndFirmwareSteps : Prop :=
  (∀ (t4 : Word) (bound est : BitVec 32) (x : TimeSync) (s : State), s.pkg.sync = some x → s.pkg.regs.gm = false →
    s.pkg.parentDim ≠ 31 → bound.toNat + est.toNat < 2 ^ 32 →
    let i : Instr := .timeSyncExchange (s.pkg.neighbour s.pkg.parentDim) x.t1 t4 bound est
    (s.pkg.regs.bootStep = 6#4 → ∃ t, exec i s = .next t ∧ t.pkg.pskew = bound + est ∧
      t.pkg.ptime = wordOf ((s.pkg.ptime.toNat : Int) -
        ((x.t2.toNat : Int) - x.t1.toNat - ((t4.toNat : Int) - x.t3.toNat)) / 2)) ∧
    (s.pkg.regs.bootStep ≠ 6#4 → ∃ t, exec i s = .next t ∧
      t.pkg.ptime = s.pkg.ptime ∧ t.pkg.pskew = bound + est ∧ t.pkg.sync = none ∧ t.pkg.regs.hold = false ∧
      t.pkg.regs.parent = BitVec.ofNat 5 s.pkg.parentDim)) ∧
  (∀ s : State, s.pkg.regs.gm = false → s.pkg.parentDim ≠ 31 →
    ∃ t, exec .timeHold s = .next t ∧ t.pkg.regs.hold = false ∧ t.pkg.regs.parent = BitVec.ofNat 5 s.pkg.parentDim ∧
      t.pkg.ptime = s.pkg.ptime ∧ t.pkg.pskew = s.pkg.pskew) ∧
  (∀ s : State, s.pkg.regs.gm = false → s.pkg.parentDim = 31 →
    ∃ t, exec .timeHold s = .next t ∧ t.pkg.regs.hold = true ∧ t.pkg.regs.parent = 0x1F#5 ∧ t.pkg.ptime = s.pkg.ptime ∧
      (s.pkg.regs.hold = false → t.pkg.pskew = s.pkg.pskew ∧ t.pkg.holdAt = s.pkg.ptime.toNat) ∧
      (s.pkg.regs.hold = true → s.pkg.ptime.toNat < s.pkg.holdAt + 20000 → t.pkg.pskew = s.pkg.pskew) ∧
      (s.pkg.regs.hold = true → s.pkg.holdAt + 20000 ≤ s.pkg.ptime.toNat →
        t.pkg.pskew = if s.pkg.pskew = 0xFFFFFFFF#32 then s.pkg.pskew else s.pkg.pskew + 1#32)) ∧
  (∀ (addr : Word) (data : List Byte) (s : State), s.pkg.regs.bootStep = 8#4 →
    s.pkg.bridge.winpkg.toNat = s.pkg.regs.pkgid.toNat % 4 →
    s.pkg.windowAt 0 addr.toNat + data.length ≤ 2 ^ 57 → s.pkg.badStacks = [] → s.pkg.windowQ = [] →
    ∃ t, exec (.bar2Access true 0 addr data 0) s = .next t ∧
      ∀ b, b < data.length → t.memByte false (s.pkg.windowAt 0 addr.toNat + b) = data.getD b 0#8) ∧
  (∀ (addr : Word) (n : Nat) (s : State), s.pkg.regs.bootStep = 8#4 →
    s.pkg.bridge.winpkg.toNat = s.pkg.regs.pkgid.toNat % 4 →
    (∀ line, s.pkg.lineBad line = false) → s.pkg.windowQ = [] →
    exec (.bar2Access false 0 addr [] n) s = .next (s.tellHost (.readDone 0
      ((List.range n).map fun b => s.memByte false (s.pkg.windowAt 0 addr.toNat + b))))) ∧
  (∀ (fn : Nat) (s : State), 1 ≤ fn → fn ≤ 16 → s.pkg.launches = [] →
    ∃ t, exec (.functionLevelReset fn) s = .next t ∧ (t.pkg.ring fn).cons = (s.pkg.ring fn).prod ∧
      t.dies = s.dies ∧ t.pkg.mem = s.pkg.mem) ∧
  (∀ (selfTest : Bool) (badStk : BitVec 12) (socks : BitVec 16) (idents : List Ident)
    (sync : Option (BitVec 64 × BitVec 32)) (s : State),
    ∃ t, exec (.powerOn selfTest badStk socks idents sync) s = .next t ∧ t.dies = [] ∧ t.pkg.mem = [] ∧
      t.pkg.host = s.pkg.host ∧ t.pkg.carrier = s.pkg.carrier ∧ t.pkg.regs.bootStep = 1#4 ∧ t.pkg.regs.bootCode = 0#8 ∧
      t.pkg.boot = some ⟨selfTest, badStk, socks, idents, sync⟩) ∧
  (∀ (b : Boot) (s : State), s.pkg.boot = some b →
    (s.pkg.regs.bootStep = 1#4 → s.pkg.carrier.firmwareCode ≠ 0 → s.bootEdge.pkg.regs.bootStep = 1#4 ∧
      s.bootEdge.pkg.regs.bootCode = BitVec.ofNat 8 s.pkg.carrier.firmwareCode ∧ s.bootEdge.pkg.boot = none) ∧
    (s.pkg.regs.bootStep = 1#4 → s.pkg.carrier.firmwareCode = 0 → s.bootEdge.pkg.regs.bootStep = 2#4 ∧
      s.bootEdge.pkg.boot = some b ∧ s.bootEdge.dies = s.dies) ∧
    (s.pkg.regs.bootStep = 2#4 → b.selfTest = false → s.bootEdge.pkg.regs.bootStep = 2#4 ∧
      s.bootEdge.pkg.regs.bootCode ≠ 0#8 ∧ s.bootEdge.pkg.boot = none) ∧
    (s.pkg.regs.bootStep = 2#4 → b.selfTest = true → s.bootEdge.pkg.regs.bootStep = 3#4) ∧
    (s.pkg.regs.bootStep = 3#4 → s.bootEdge.pkg.regs.bootStep = 4#4 ∧
      ∀ n, n < 12 → (n ∈ s.bootEdge.pkg.badStacks ↔ b.badStacks.getLsbD n = true)) ∧
    (s.pkg.regs.bootStep = 4#4 → s.bootEdge.pkg.regs.bootStep = 5#4 ∧
      ∀ k, k < 16 → s.bootEdge.pkg.sock k = if b.badSockets.getLsbD k then .fenced else .active) ∧
    (s.pkg.regs.bootStep = 6#4 → s.pkg.regs.gm = true → s.bootEdge.pkg.regs.bootStep = 7#4 ∧
      s.bootEdge.pkg.ptime = s.pkg.ptime) ∧
    (s.pkg.regs.bootStep = 7#4 → s.bootEdge.pkg.regs.bootStep = 8#4 ∧ s.bootEdge.pkg.boot = none ∧
      s.bootEdge.pkg.regs.rtact = false ∧ s.bootEdge.pkg.regs.armed = false)) ∧
  (∀ (v : Word) (s : State), 4 ≤ v.toNat / 2 ^ 57 % 8 → v.toNat % 2 ^ 57 % 32 = 0 →
    s.pkg.lineBad (v.toNat % 2 ^ 57 / 128) = false →
    exec (.mext v) s = .next (s.modPkg (·.extend (v.toNat / 2 ^ 57 % 8) (s.memRead false (v.toNat % 2 ^ 57) 32)))) ∧
  (∀ s : State, s.pkg.regs.attcmd.getLsbD 1 = false →
    ∃ t, exec .attcmdGo s = .next t ∧ t.pkg.regs = { s.pkg.regs with attcmd := s.pkg.regs.attcmd ||| 2#4 } ∧
      ∃ r, t.pkg.report = some r ∧ r.nonce = s.pkg.regs.attnonce ∧ r.time = s.pkg.ptime) ∧
  (∀ (r : Report) (s : State), s.pkg.report = some r →
    ∃ t, exec .attestationReportDone s = .next t ∧ t.pkg.report = none ∧
      (let a := s.pkg.regs.attaddr.toNat
       let bad := a % 4096 ≠ 0 ∨ Config.installedBytes < a + 416 ∨
         (linesOf false a 416).any (fun l => s.pkg.badStacks.contains (Config.homeStack l)) = true
       t.pkg.regs.attcmd = ((s.pkg.regs.attcmd &&& 8#4) ||| if bad then 12#4 else 4#4) ∧
       (bad → t.pkg.mem = s.pkg.mem))) ∧
  (∀ (cause : BitVec 3) (s : State), (cause &&& 6#3 ≠ 0#3 ∨ (cause ≠ 0#3 ∧ s.pkg.regs.pwrcapEn = true)) →
    ∃ t, exec (.clockStepDown cause) s = .next t ∧
      t.pkg.regs.mhz = BitVec.ofNat 16 (max 1000 (s.pkg.regs.mhz.toNat - 100)) ∧
      t.pkg.regs.pwrCause = if s.pkg.regs.pwrcapEn then cause else cause &&& 6#3) ∧
  (∀ s : State, ∃ t, exec .clockStepUp s = .next t ∧ t.pkg.regs.pwrCause = 0#3 ∧
    t.pkg.regs.mhz = if s.pkg.clkAt + 1000000 ≤ s.pkg.ptime.toNat then BitVec.ofNat 16 (min 2000 (s.pkg.regs.mhz.toNat + 100))
      else s.pkg.regs.mhz)
end

