-- ==== Sys2Proof/Laws/Store.lean ====
section
/-! SUPPORT. The laws of the sparse map: a read after a write, and that a write keeps the canonical
form. The two read laws hold of every list of entries, canonical or not. -/
namespace Sys2Proof

theorem Store.get_erase_same {α : Type} (d : α) (m : Store α) (i : Nat) :
    Store.get d (Store.erase m i) i = d := by
  induction m with
  | nil => rfl
  | cons e rest ih =>
    obtain ⟨k, v⟩ := e
    by_cases h : i = k <;> simp [Store.erase, Store.get, h]
    · simpa [h] using ih
    · simpa [h] using ih

theorem Store.get_erase_other {α : Type} (d : α) (m : Store α) {i j : Nat} (h : j ≠ i) :
    Store.get d (Store.erase m i) j = Store.get d m j := by
  induction m with
  | nil => rfl
  | cons e rest ih =>
    obtain ⟨k, v⟩ := e
    by_cases hi : i = k
    · subst hi; simp [Store.erase, Store.get, h, ih]
    · by_cases hj : j = k <;> simp [Store.erase, Store.get, hi, hj, ih]

theorem Store.get_insert_same {α : Type} (d : α) (m : Store α) (i : Nat) (x : α)
    (h : ∀ e ∈ m, e.1 ≠ i) : Store.get d (Store.insert m i x) i = x := by
  induction m with
  | nil => simp [Store.insert, Store.get]
  | cons e rest ih =>
    obtain ⟨k, v⟩ := e
    have hk : i ≠ k := fun e => h (k, v) (by simp) e.symm
    by_cases hlt : i < k
    · simp [Store.insert, hlt, Store.get]
    · simp only [Store.insert, hlt, if_false, Store.get, hk]
      exact ih fun e he => h e (List.mem_cons_of_mem _ he)

theorem Store.get_insert_other {α : Type} (d : α) (m : Store α) {i j : Nat} (x : α) (h : j ≠ i) :
    Store.get d (Store.insert m i x) j = Store.get d m j := by
  induction m with
  | nil => simp [Store.insert, Store.get, h]
  | cons e rest ih =>
    obtain ⟨k, v⟩ := e
    by_cases hlt : i < k
    · simp [Store.insert, hlt, Store.get, h]
    · by_cases hj : j = k <;> simp [Store.insert, hlt, Store.get, hj, ih]

theorem Store.mem_erase {α : Type} (m : Store α) (i : Nat) :
    ∀ e ∈ Store.erase m i, e.1 ≠ i ∧ e ∈ m := by
  induction m with
  | nil => simp [Store.erase]
  | cons e rest ih =>
    obtain ⟨k, v⟩ := e
    intro x hx
    by_cases h : i = k
    · simp only [Store.erase, h, if_true] at hx
      have := ih x (by simpa [h] using hx)
      exact ⟨this.1, List.mem_cons_of_mem _ this.2⟩
    · simp only [Store.erase, h, if_false, List.mem_cons] at hx
      rcases hx with rfl | hx
      · exact ⟨fun e => h e.symm, by simp⟩
      · exact ⟨(ih x hx).1, List.mem_cons_of_mem _ (ih x hx).2⟩

/-- A key reads the value last written to it. -/
@[simp] theorem Store.get_set_same {α : Type} [DecidableEq α] (d : α) (m : Store α) (i : Nat) (x : α) :
    Store.get d (Store.set d m i x) i = x := by
  unfold Store.set
  split
  · rename_i h; rw [Store.get_erase_same, h]
  · exact Store.get_insert_same _ _ _ _ fun e he => (Store.mem_erase m i e he).1

/-- A write leaves every other key alone. -/
theorem Store.get_set_other {α : Type} [DecidableEq α] (d : α) (m : Store α) {i j : Nat} (x : α)
    (h : j ≠ i) : Store.get d (Store.set d m i x) j = Store.get d m j := by
  unfold Store.set
  split
  · exact Store.get_erase_other d m h
  · rw [Store.get_insert_other d _ x h, Store.get_erase_other d m h]

/-- A read after a write, at any key. -/
theorem Store.get_set {α : Type} [DecidableEq α] (d : α) (m : Store α) (i j : Nat) (x : α) :
    Store.get d (Store.set d m i x) j = if j = i then x else Store.get d m j := by
  split
  · rename_i h; rw [h, Store.get_set_same]
  · rename_i h; exact Store.get_set_other d m x h

/-- The lower bound of `Store.wfFrom` may be lowered. -/
theorem Store.wfFrom_mono {α : Type} [DecidableEq α] (d : α) (m : Store α) {lo : Option Nat} {k : Nat}
    (hlo : ∀ l, lo = some l → l < k) (h : Store.wfFrom d (some k) m = true) :
    Store.wfFrom d lo m = true := by
  cases m with
  | nil => rfl
  | cons e rest =>
    obtain ⟨q, v⟩ := e
    simp only [Store.wfFrom, Bool.and_eq_true, decide_eq_true_eq] at h ⊢
    refine ⟨⟨?_, h.1.2⟩, h.2⟩
    cases lo with
    | none => rfl
    | some l => simpa using lt_trans (hlo l rfl) h.1.1

theorem Store.wfFrom_erase {α : Type} [DecidableEq α] (d : α) (m : Store α) (i : Nat) :
    ∀ lo, Store.wfFrom d lo m = true → Store.wfFrom d lo (Store.erase m i) = true := by
  induction m with
  | nil => intro lo _; rfl
  | cons e rest ih =>
    obtain ⟨k, v⟩ := e
    intro lo h
    have hr : Store.wfFrom d (some k) rest = true := by
      simp only [Store.wfFrom, Bool.and_eq_true] at h; exact h.2
    by_cases hi : i = k
    · simp only [Store.erase, hi, if_true]
      rw [← hi]
      refine ih lo (Store.wfFrom_mono d rest ?_ hr)
      intro l hl
      subst hl
      simp only [Store.wfFrom, Bool.and_eq_true, decide_eq_true_eq] at h
      exact h.1.1
    · simp only [Store.erase, hi, if_false]
      simp only [Store.wfFrom, Bool.and_eq_true] at h ⊢
      exact ⟨h.1, ih _ h.2⟩

theorem Store.wfFrom_insert {α : Type} [DecidableEq α] (d : α) (m : Store α) (i : Nat) (x : α)
    (hx : x ≠ d) : ∀ lo, (∀ e ∈ m, e.1 ≠ i) → (∀ l, lo = some l → l < i) →
    Store.wfFrom d lo m = true → Store.wfFrom d lo (Store.insert m i x) = true := by
  induction m with
  | nil =>
    intro lo _ hlo _
    cases lo with
    | none => simp [Store.insert, Store.wfFrom, hx]
    | some l => simp [Store.insert, Store.wfFrom, hx, hlo l rfl]
  | cons e rest ih =>
    obtain ⟨k, v⟩ := e
    intro lo hne hlo h
    have hk : k ≠ i := hne (k, v) (by simp)
    simp only [Store.wfFrom, Bool.and_eq_true, decide_eq_true_eq] at h
    by_cases hlt : i < k
    · simp only [Store.insert, hlt, if_true, Store.wfFrom, Bool.and_eq_true, decide_eq_true_eq]
      refine ⟨⟨?_, hx⟩, ⟨by simp, h.1.2⟩, h.2⟩
      cases lo with
      | none => rfl
      | some l => simpa using hlo l rfl
    · simp only [Store.insert, hlt, if_false, Store.wfFrom, Bool.and_eq_true, decide_eq_true_eq]
      refine ⟨h.1, ih _ (fun e he => hne e (List.mem_cons_of_mem _ he)) ?_ h.2⟩
      intro l hl
      cases hl
      omega

/-- A write keeps the canonical form. -/
theorem Store.wf_set {α : Type} [DecidableEq α] (d : α) (m : Store α) (i : Nat) (x : α)
    (h : Store.wf d m = true) : Store.wf d (Store.set d m i x) = true := by
  unfold Store.set
  split
  · exact Store.wfFrom_erase d m i none h
  · rename_i hx
    exact Store.wfFrom_insert d _ i x hx none (fun e he => (Store.mem_erase m i e he).1) (by simp)
      (Store.wfFrom_erase d m i none h)

theorem Store.erase_erase {α : Type} (m : Store α) (i : Nat) :
    Store.erase (Store.erase m i) i = Store.erase m i := by
  induction m with
  | nil => rfl
  | cons e rest ih =>
    obtain ⟨k, v⟩ := e
    by_cases h : i = k
    · simpa [Store.erase, h] using (by simpa [h] using ih)
    · simp [Store.erase, h, ih]

theorem Store.erase_insert {α : Type} (m : Store α) (i : Nat) (x : α) :
    Store.erase (Store.insert m i x) i = Store.erase m i := by
  induction m with
  | nil => simp [Store.insert, Store.erase]
  | cons e rest ih =>
    obtain ⟨k, v⟩ := e
    by_cases hlt : i < k
    · simp [Store.insert, hlt, Store.erase]
    · by_cases hk : i = k
      · subst hk
        simp [Store.insert, Store.erase, ih]
      · simp [Store.insert, hlt, Store.erase, hk, ih]

/-- The later of two writes of one key stands. -/
@[simp] theorem Store.set_set {α : Type} [DecidableEq α] (d : α) (m : Store α) (i : Nat) (x y : α) :
    Store.set d (Store.set d m i x) i y = Store.set d m i y := by
  have h : Store.erase (Store.set d m i x) i = Store.erase m i := by
    unfold Store.set
    split
    · exact Store.erase_erase m i
    · rw [Store.erase_insert, Store.erase_erase]
  rw [Store.set, h]
  rfl

/-- Leaving entries out keeps the canonical form. -/
theorem Store.wfFrom_filter {α : Type} [DecidableEq α] (d : α) (f : Nat × α → Bool) (m : Store α) :
    ∀ lo, Store.wfFrom d lo m = true → Store.wfFrom d lo (m.filter f) = true := by
  induction m with
  | nil => intro lo _; rfl
  | cons e rest ih =>
    obtain ⟨k, v⟩ := e
    intro lo h
    simp only [Store.wfFrom, Bool.and_eq_true] at h
    by_cases hf : f (k, v) = true
    · simp only [List.filter, hf, Store.wfFrom, Bool.and_eq_true]
      exact ⟨h.1, ih _ h.2⟩
    · simp only [List.filter, hf]
      refine ih lo (Store.wfFrom_mono d rest ?_ h.2)
      intro l hl
      subst hl
      simpa using h.1.1

theorem Store.wf_filter {α : Type} [DecidableEq α] (d : α) (f : Nat × α → Bool) (m : Store α)
    (h : Store.wf d m = true) : Store.wf d (m.filter f) = true := Store.wfFrom_filter d f m none h

end Sys2Proof
end

