-- ==== Sys2Proof/Laws/State.lean ====
section
/-! SUPPORT. What each update of the state leaves of every field: reading a die back, the package under a change
of a die, and the fields of a die under the scheduling of results and writes. -/
namespace Sys2Proof.Machine

/-! The dies of a state. -/

@[simp] theorem State.die_setDie_same (s : State) (k : Nat) (d : Die) : (s.setDie k d).die k = d := by
  simp [State.die, State.setDie]

theorem State.die_setDie_other (s : State) {j k : Nat} (d : Die) (h : j ≠ k) :
    (s.setDie k d).die j = s.die j := by
  simp [State.die, State.setDie, Store.get_set_other _ _ _ h]

@[simp] theorem State.setDie_setDie (s : State) (k : Nat) (c d : Die) :
    (s.setDie k c).setDie k d = s.setDie k d := by
  simp [State.setDie]

@[simp] theorem State.setDie_pkg (s : State) (k : Nat) (d : Die) : (s.setDie k d).pkg = s.pkg := rfl
@[simp] theorem State.setDie_cur (s : State) (k : Nat) (d : Die) : (s.setDie k d).cur = s.cur := rfl
@[simp] theorem State.setDie_inputs (s : State) (k : Nat) (d : Die) : (s.setDie k d).inputs = s.inputs := rfl
@[simp] theorem State.setDie_fresh (s : State) (k : Nat) (d : Die) : (s.setDie k d).fresh = s.fresh := rfl

@[simp] theorem State.put_here (s : State) (d : Die) : (s.put d).here = d := by simp [State.here, State.put]
@[simp] theorem State.put_put (s : State) (c d : Die) : (s.put c).put d = s.put d := by simp [State.put]
@[simp] theorem State.put_pkg (s : State) (d : Die) : (s.put d).pkg = s.pkg := rfl
@[simp] theorem State.put_cur (s : State) (d : Die) : (s.put d).cur = s.cur := rfl
@[simp] theorem State.put_inputs (s : State) (d : Die) : (s.put d).inputs = s.inputs := rfl
@[simp] theorem State.put_fresh (s : State) (d : Die) : (s.put d).fresh = s.fresh := rfl

/-- A change of the acting die leaves every other die alone. -/
theorem State.put_die_other (s : State) (d : Die) {k : Nat} (h : k ≠ s.cur) : (s.put d).die k = s.die k :=
  State.die_setDie_other s d h

theorem State.mod_eq_put (s : State) (f : Die → Die) : s.mod f = s.put (f s.here) := rfl
@[simp] theorem State.mod_here (s : State) (f : Die → Die) : (s.mod f).here = f s.here := by
  simp [State.mod_eq_put]
@[simp] theorem State.mod_pkg (s : State) (f : Die → Die) : (s.mod f).pkg = s.pkg := rfl
@[simp] theorem State.mod_cur (s : State) (f : Die → Die) : (s.mod f).cur = s.cur := rfl
@[simp] theorem State.put_mod (s : State) (d : Die) (f : Die → Die) : (s.put d).mod f = s.put (f d) := by
  simp [State.mod_eq_put]

@[simp] theorem State.modPkg_pkg (s : State) (f : Pkg → Pkg) : (s.modPkg f).pkg = f s.pkg := rfl
@[simp] theorem State.modPkg_dies (s : State) (f : Pkg → Pkg) : (s.modPkg f).dies = s.dies := rfl
@[simp] theorem State.modPkg_die (s : State) (f : Pkg → Pkg) (k : Nat) : (s.modPkg f).die k = s.die k := rfl
@[simp] theorem State.modPkg_here (s : State) (f : Pkg → Pkg) : (s.modPkg f).here = s.here := rfl
@[simp] theorem State.modPkg_cur (s : State) (f : Pkg → Pkg) : (s.modPkg f).cur = s.cur := rfl

@[simp] theorem State.setIss_here (s : State) (f : Issue → Issue) :
    (s.setIss f).here = { s.here with iss := f s.here.iss } := by simp [State.setIss]
@[simp] theorem State.setIss_pkg (s : State) (f : Issue → Issue) : (s.setIss f).pkg = s.pkg := rfl

/-! A write for the end of the cycle touches the list of such writes and nothing else. -/

@[simp] theorem Die.later_regs (d : Die) (l : Later) : (d.later l).regs = d.regs := rfl
@[simp] theorem Die.later_sr (d : Die) (l : Later) : (d.later l).sr = d.sr := rfl
@[simp] theorem Die.later_ctl (d : Die) (l : Later) : (d.later l).ctl = d.ctl := rfl
@[simp] theorem Die.later_tab (d : Die) (l : Later) : (d.later l).tab = d.tab := rfl
@[simp] theorem Die.later_arr (d : Die) (l : Later) : (d.later l).arr = d.arr := rfl
@[simp] theorem Die.later_cache (d : Die) (l : Later) : (d.later l).cache = d.cache := rfl
@[simp] theorem Die.later_iss (d : Die) (l : Later) : (d.later l).iss = d.iss := rfl
@[simp] theorem Die.later_due (d : Die) (l : Later) : (d.later l).pipe.due = d.pipe.due := rfl
@[simp] theorem Die.later_landings (d : Die) (l : Later) : (d.later l).pipe.landings = d.pipe.landings := rfl
@[simp] theorem Die.later_next (d : Die) (l : Later) :
    (d.later l).pipe.next = d.pipe.next ++ [(d.iss.slot.num, l)] := rfl

@[simp] theorem Die.noteLatch_regs (d : Die) (q : BitVec 3) : (d.noteLatch q).regs = d.regs := by
  unfold Die.noteLatch; split <;> rfl
@[simp] theorem Die.noteLatch_sr (d : Die) (q : BitVec 3) : (d.noteLatch q).sr = d.sr := by
  unfold Die.noteLatch; split <;> rfl
@[simp] theorem Die.noteLatch_ctl (d : Die) (q : BitVec 3) : (d.noteLatch q).ctl = d.ctl := by
  unfold Die.noteLatch; split <;> rfl
@[simp] theorem Die.noteLatch_tab (d : Die) (q : BitVec 3) : (d.noteLatch q).tab = d.tab := by
  unfold Die.noteLatch; split <;> rfl
@[simp] theorem Die.noteLatch_arr (d : Die) (q : BitVec 3) : (d.noteLatch q).arr = d.arr := by
  unfold Die.noteLatch; split <;> rfl
@[simp] theorem Die.noteLatch_cache (d : Die) (q : BitVec 3) : (d.noteLatch q).cache = d.cache := by
  unfold Die.noteLatch; split <;> rfl
@[simp] theorem Die.noteLatch_iss (d : Die) (q : BitVec 3) : (d.noteLatch q).iss = d.iss := by
  unfold Die.noteLatch; split <;> rfl
@[simp] theorem Die.noteLatch_due (d : Die) (q : BitVec 3) : (d.noteLatch q).pipe.due = d.pipe.due := by
  unfold Die.noteLatch; split <;> rfl
@[simp] theorem Die.noteLatch_landings (d : Die) (q : BitVec 3) :
    (d.noteLatch q).pipe.landings = d.pipe.landings := by
  unfold Die.noteLatch; split <;> rfl

@[simp] theorem Die.noteS_regs (d : Die) (a : SSrc) : (d.noteS a).regs = d.regs := by cases a <;> simp [Die.noteS]
@[simp] theorem Die.noteS_sr (d : Die) (a : SSrc) : (d.noteS a).sr = d.sr := by cases a <;> simp [Die.noteS]
@[simp] theorem Die.noteS_ctl (d : Die) (a : SSrc) : (d.noteS a).ctl = d.ctl := by cases a <;> simp [Die.noteS]
@[simp] theorem Die.noteS_tab (d : Die) (a : SSrc) : (d.noteS a).tab = d.tab := by cases a <;> simp [Die.noteS]
@[simp] theorem Die.noteS_arr (d : Die) (a : SSrc) : (d.noteS a).arr = d.arr := by cases a <;> simp [Die.noteS]
@[simp] theorem Die.noteS_cache (d : Die) (a : SSrc) : (d.noteS a).cache = d.cache := by cases a <;> simp [Die.noteS]
@[simp] theorem Die.noteS_iss (d : Die) (a : SSrc) : (d.noteS a).iss = d.iss := by cases a <;> simp [Die.noteS]
@[simp] theorem Die.noteS_due (d : Die) (a : SSrc) : (d.noteS a).pipe.due = d.pipe.due := by
  cases a <;> simp [Die.noteS]
@[simp] theorem Die.noteS_landings (d : Die) (a : SSrc) : (d.noteS a).pipe.landings = d.pipe.landings := by
  cases a <;> simp [Die.noteS]

/-! A result in flight is one more entry of the pipeline. -/

@[simp] theorem Die.emit_regs (d : Die) (lat : Nat) (ws : Bool) (p : Dest) (m : Mask) (v : Vec) (st : BitVec 10)
    (l : List (BitVec 128)) : (d.emit lat ws p m v st l).regs = d.regs := rfl
@[simp] theorem Die.emit_sr (d : Die) (lat : Nat) (ws : Bool) (p : Dest) (m : Mask) (v : Vec) (st : BitVec 10)
    (l : List (BitVec 128)) : (d.emit lat ws p m v st l).sr = d.sr := rfl
@[simp] theorem Die.emit_ctl (d : Die) (lat : Nat) (ws : Bool) (p : Dest) (m : Mask) (v : Vec) (st : BitVec 10)
    (l : List (BitVec 128)) : (d.emit lat ws p m v st l).ctl = d.ctl := rfl
@[simp] theorem Die.emit_tab (d : Die) (lat : Nat) (ws : Bool) (p : Dest) (m : Mask) (v : Vec) (st : BitVec 10)
    (l : List (BitVec 128)) : (d.emit lat ws p m v st l).tab = d.tab := rfl
@[simp] theorem Die.emit_arr (d : Die) (lat : Nat) (ws : Bool) (p : Dest) (m : Mask) (v : Vec) (st : BitVec 10)
    (l : List (BitVec 128)) : (d.emit lat ws p m v st l).arr = d.arr := rfl
@[simp] theorem Die.emit_cache (d : Die) (lat : Nat) (ws : Bool) (p : Dest) (m : Mask) (v : Vec) (st : BitVec 10)
    (l : List (BitVec 128)) : (d.emit lat ws p m v st l).cache = d.cache := rfl
@[simp] theorem Die.emit_iss (d : Die) (lat : Nat) (ws : Bool) (p : Dest) (m : Mask) (v : Vec) (st : BitVec 10)
    (l : List (BitVec 128)) : (d.emit lat ws p m v st l).iss = d.iss := rfl
@[simp] theorem Die.emit_landings (d : Die) (lat : Nat) (ws : Bool) (p : Dest) (m : Mask) (v : Vec)
    (st : BitVec 10) (l : List (BitVec 128)) : (d.emit lat ws p m v st l).pipe.landings = d.pipe.landings := rfl
theorem Die.emit_due (d : Die) (lat : Nat) (ws : Bool) (p : Dest) (m : Mask) (v : Vec) (st : BitVec 10)
    (l : List (BitVec 128)) : (d.emit lat ws p m v st l).pipe.due =
      d.pipe.due ++ [⟨d.now + lat, d.now, p, ws, m, v, d.iss.slot.latch, st, l, []⟩] := rfl

/-! What an operand reads does not depend on the writes scheduled or the results in flight. -/

theorem Die.readS_congr {c d : Die} (hr : c.regs = d.regs) (hs : c.sr = d.sr) (hc : c.ctl = d.ctl) (x : BitVec 6) :
    c.readS x = d.readS x := by
  unfold Die.readS Die.sDest Die.inK; rw [hr, hs, hc]

@[simp] theorem Die.readS_noteS (d : Die) (a : SSrc) (x : BitVec 6) : (d.noteS a).readS x = d.readS x :=
  Die.readS_congr (by simp) (by simp) (by simp) x

@[simp] theorem Die.src_noteS (d : Die) (a b : SSrc) : (d.noteS a).src b = d.src b := by
  cases b <;> simp [Die.src, Die.readQ]

end Sys2Proof.Machine
end

