-- ==== Sys2Proof/Laws/Memory.lean ====
section
/-! SUPPORT. Memory: a byte reads what was last written to it, a write leaves every other byte alone, and every
operation on memory keeps the canonical form. -/
namespace Sys2Proof.Machine

/-! Reading back. -/

/-- A byte of one memory after a write of one byte. -/
theorem Pkg.byte_setByte (p : Pkg) (h g : Bool) (a b : Nat) (v : Byte) :
    (p.setByte h a v).byte g b = if g = h ∧ b = a then v else p.byte g b := by
  cases h <;> cases g <;> simp [Pkg.byte, Pkg.setByte, Store.get_set]

@[simp] theorem Pkg.byte_setByte_same (p : Pkg) (h : Bool) (a : Nat) (v : Byte) :
    (p.setByte h a v).byte h a = v := by simp [Pkg.byte_setByte]

theorem Pkg.byte_setByte_other (p : Pkg) {h g : Bool} {a b : Nat} (v : Byte) (hne : g ≠ h ∨ b ≠ a) :
    (p.setByte h a v).byte g b = p.byte g b := by
  rw [Pkg.byte_setByte, if_neg]
  rintro ⟨rfl, rfl⟩; simp at hne

/-- A byte after a write of several: the written one in the range, the old one elsewhere. -/
theorem Pkg.byte_setBytes (h : Bool) (l : List Byte) : ∀ (p : Pkg) (a : Nat) (g : Bool) (b : Nat),
    (p.setBytes h a l).byte g b =
      if g = h ∧ a ≤ b ∧ b < a + l.length then l.getD (b - a) 0#8 else p.byte g b := by
  induction l with
  | nil => intro p a g b; simp [Pkg.setBytes]
  | cons x rest ih =>
    intro p a g b
    rw [Pkg.setBytes, ih, Pkg.byte_setByte]
    by_cases hg : g = h
    · rcases lt_trichotomy b a with hb | rfl | hb
      · rw [if_neg (by omega), if_neg (by omega), if_neg (by omega)]
      · rw [if_neg (by omega), if_pos ⟨hg, rfl⟩, if_pos ⟨hg, le_refl _, by simp⟩]; simp
      · obtain ⟨n, rfl⟩ : ∃ n, b = a + 1 + n := ⟨b - a - 1, by omega⟩
        have h1 : a + 1 + n - (a + 1) = n := by omega
        have h2 : a + 1 + n - a = n + 1 := by omega
        simp only [hg, true_and, h1, h2, List.length_cons, List.getD_cons_succ]
        by_cases hn : n < rest.length
        · rw [if_pos (by omega), if_pos (by omega)]
        · rw [if_neg (by omega), if_neg (by omega), if_neg (by omega)]
    · simp [hg]

/-! The canonical form. -/

/-- The two memories' canonical form, apart. -/
theorem Pkg.memoriesWf_iff (p : Pkg) :
    p.memoriesWf = true ↔ Memory.wf p.mem = true ∧ Memory.wf p.host = true := by
  simp [Pkg.memoriesWf]

theorem Pkg.memoriesWf_setByte (p : Pkg) (h : Bool) (a : Nat) (v : Byte) (hp : p.memoriesWf = true) :
    (p.setByte h a v).memoriesWf = true := by
  rw [Pkg.memoriesWf_iff] at hp ⊢
  cases h
  · exact ⟨Store.wf_set _ _ _ _ hp.1, hp.2⟩
  · exact ⟨hp.1, Store.wf_set _ _ _ _ hp.2⟩

theorem Pkg.memoriesWf_setBytes (h : Bool) (l : List Byte) : ∀ (p : Pkg) (a : Nat), p.memoriesWf = true →
    (p.setBytes h a l).memoriesWf = true := by
  induction l with
  | nil => exact fun _ _ hp => hp
  | cons x rest ih => exact fun p a hp => ih _ _ (Pkg.memoriesWf_setByte p h a x hp)

theorem memoriesWf_flushBytes (l : L1Line) (h : Bool) (base : Nat) (is : List Nat) : ∀ p : Pkg,
    p.memoriesWf = true → (flushBytes l h base is p).memoriesWf = true := by
  induction is with
  | nil => exact fun _ hp => hp
  | cons i rest ih =>
    intro p hp
    refine ih _ ?_
    split
    · exact Pkg.memoriesWf_setByte p h _ _ hp
    · exact hp

theorem State.memoriesWf_goHome (s : State) (k line : Nat) (l : L1Line) (hs : s.pkg.memoriesWf = true) :
    (s.goHome k line l).pkg.memoriesWf = true := by
  unfold State.goHome
  split
  · exact hs
  · exact memoriesWf_flushBytes _ _ _ _ _ hs

theorem State.memoriesWf_writeBack (s : State) (k line : Nat) (hs : s.pkg.memoriesWf = true) :
    (s.writeBack k line).pkg.memoriesWf = true := by
  unfold State.writeBack
  split
  · exact hs
  · exact State.memoriesWf_goHome s k line _ hs

theorem State.memoriesWf_clean (s : State) (k line : Nat) (hs : s.pkg.memoriesWf = true) :
    (s.clean k line).pkg.memoriesWf = true := by
  unfold State.clean
  split
  · exact hs
  · exact State.memoriesWf_goHome s k line _ hs

/-- A list of steps that each keep the canonical form keeps it. -/
theorem memoriesWf_foldl {α : Type} (f : State → α → State)
    (hf : ∀ s x, s.pkg.memoriesWf = true → (f s x).pkg.memoriesWf = true) (l : List α) :
    ∀ s : State, s.pkg.memoriesWf = true → (l.foldl f s).pkg.memoriesWf = true := by
  induction l with
  | nil => exact fun _ hs => hs
  | cons x rest ih => exact fun s hs => ih _ (hf s x hs)

theorem State.memoriesWf_cohere (s : State) (line : Nat) (hs : s.pkg.memoriesWf = true) :
    (s.cohere line).pkg.memoriesWf = true :=
  memoriesWf_foldl _ (fun s k hs => State.memoriesWf_writeBack s k line hs) sockets s hs

theorem State.memoriesWf_release (s : State) (k : Nat) (hs : s.pkg.memoriesWf = true) :
    (s.release k).pkg.memoriesWf = true :=
  memoriesWf_foldl _ (fun s l hs => State.memoriesWf_clean s k l hs) _ s hs

theorem Pkg.memoriesWf_clearAt (p : Pkg) (l : Place) (off n : Nat) (hp : p.memoriesWf = true) :
    (p.clearAt l off n).memoriesWf = true := by
  rw [Pkg.memoriesWf_iff] at hp ⊢
  exact ⟨Store.wf_filter _ _ _ hp.1, Store.wf_filter _ _ _ hp.2⟩

/-- Moving a range of a sparse map keeps its canonical form (R405). -/
theorem wf_moveRange {α : Type} [DecidableEq α] (d : α) (m : Store α) (src dst n : Nat) (hm : Store.wf d m = true) :
    Store.wf d (moveRange d m src dst n) = true := by
  unfold moveRange
  have : ∀ (l r : Store α), Store.wf d r = true →
      Store.wf d (l.foldl (fun m e => Store.set d m (e.1 - src + dst) e.2) r) = true := by
    intro l
    induction l with
    | nil => exact fun _ hr => hr
    | cons e rest ih => exact fun r hr => ih _ (Store.wf_set _ _ _ _ hr)
  exact this _ _ (Store.wf_filter _ _ _ hm)

/-- The memory that reset leaves lists nothing. -/
theorem reset_memories : State.reset.pkg.mem = [] ∧ State.reset.pkg.host = [] := ⟨rfl, rfl⟩

end Sys2Proof.Machine
end

