-- ==== Sys2Proof/Laws/Ops.lean ====
section
/-! SUPPORT. What each shared operation can do: guards, releases, exceptions, scratchpad accesses, requests, and
that a slot runs as `exec` says. -/
namespace Sys2Proof.Machine

/-! Guards (R27, R37, R160, R171). -/

/-- A slot that executes runs the rest of its meaning. -/
theorem guarded_executes {p : BitVec 5} {s : State} (k : State → Out) (h : s.here.executes p = true) :
    guarded p s k = k s := by simp [guarded, h]

/-- A slot whose predicate is false does nothing. -/
theorem guarded_idle {p : BitVec 5} {s : State} (k : State → Out) (hw : s.here.iss.wait = false)
    (h : s.here.predicate p = false) : guarded p s k = .next s := by
  simp [guarded, Die.executes, hw, h]

/-- Outside a wait bundle the predicate decides. -/
theorem Die.executes_of_predicate {d : Die} {p : BitVec 5} (hw : d.iss.wait = false) :
    d.executes p = d.predicate p := by simp [Die.executes, hw]

theorem unlessWait_executes {p : BitVec 5} {s : State} (k : State → Out) (hw : s.here.iss.wait = false)
    (h : s.here.executes p = true) : unlessWait p s k = k s := by simp [unlessWait, guarded, h, hw]

theorem unlessWait_idle {p : BitVec 5} {s : State} (k : State → Out) (hw : s.here.iss.wait = false)
    (h : s.here.predicate p = false) : unlessWait p s k = .next s := by
  simp [unlessWait, guarded, Die.executes, hw, h]

theorem unlessDelay_executes {p : BitVec 5} {s : State} (k : State → Out) (hw : s.here.iss.wait = false)
    (hd : s.here.iss.delay = false) (h : s.here.executes p = true) : unlessDelay p s k = k s := by
  simp [unlessDelay, unlessWait, guarded, h, hw, hd]

theorem privileged_kernel {p : BitVec 5} {s : State} (k : State → Out) (hk : s.here.inK = true)
    (h : s.here.executes p = true) : privileged p false s k = k s := by simp [privileged, hk, guarded, h]

theorem privileged_user {p : BitVec 5} {s : State} (k : State → Out) (hk : s.here.inK = false) :
    privileged p false s k = raisePriv s := by simp [privileged, hk]

/-- An illegal operand of a slot that executes is met before the level is (R171). -/
theorem privileged_illegal {p : BitVec 5} {s : State} (k : State → Out) (h : s.here.executes p = true) :
    privileged p true s k = raiseIllegal s := by simp [privileged, h]

theorem kernelOnly_kernel {p : BitVec 5} {s : State} (k : State → Out) (hw : s.here.iss.wait = false)
    (hk : s.here.inK = true) (h : s.here.executes p = true) : kernelOnly p false s k = k s := by
  simp [kernelOnly, hw, privileged_kernel k hk h]

theorem kernelOnly_user {p : BitVec 5} {s : State} (k : State → Out) (hw : s.here.iss.wait = false)
    (hk : s.here.inK = false) : kernelOnly p false s k = raisePriv s := by
  simp [kernelOnly, hw, privileged_user k hk]

/-! Releases (R137). -/

/-- A release below `.pkg`, or one that has completed, leaves nothing to wait for. -/
theorem releaseThen_done {scope : Nat} {m : Bool} {s : State} (k : State → Out)
    (h : s.here.scope scope < 2 ∨ s.here.ctl.released = true) : releaseThen scope m s k = k s := by
  simp only [releaseThen, h, if_true]

/-- A release at `.pkg` or wider whose writes are acknowledged, with no error and no refused store to report, is
performed before the rest. -/
theorem releaseThen_now {scope : Nat} {m : Bool} {s : State} (k : State → Out)
    (h : ¬ (s.here.scope scope < 2 ∨ s.here.ctl.released = true)) (hw : s.releaseWaits (s.here.scope scope) = false)
    (hd : s.here.ctl.dataErr = none) (hr : m = true → s.here.ctl.refused = none)
    (he : (s.release s.cur).here.ctl.dataErr = none) : releaseThen scope m s k = k (s.release s.cur) := by
  have hm : (if m = true then s.here.mmexDue else none) = none := by
    cases m
    · rfl
    · simp [Die.mmexDue, hr rfl]
  rw [releaseThen]
  simp only [h, hw, hd, hm, he, if_false, Bool.false_eq_true]

/-- A release with something still to wait for freezes the bundle, with nothing done (R137). -/
theorem releaseThen_held {scope : Nat} {m : Bool} {s : State} (k : State → Out)
    (h : ¬ (s.here.scope scope < 2 ∨ s.here.ctl.released = true)) (hw : s.releaseWaits (s.here.scope scope) = true) :
    releaseThen scope m s k = held s .release := by simp only [releaseThen, h, hw, if_false, if_true]

/-! Exceptions (R42-R46, R346). -/

theorem takeTrap_outside {s : State} (t : TrapInfo) (mask : BitVec 10) (epc : Nat) (h : s.here.handler = false) :
    takeTrap s t mask epc = s.mod fun d => d.enterTrap s.pkg.clk t mask epc := by simp [takeTrap, takeTrapAt, h]

/-- Outside handler state a slot that raises a trap takes it: the acting die enters the handler, nothing else changes. -/
theorem raise_outside {s : State} (cause : Nat) (i0 i1 : Word) (h : s.here.handler = false) :
    ∃ t, raise s cause i0 i1 = .next t ∧ t.pkg = s.pkg ∧ t.cur = s.cur ∧
      t.here.iss.trap = some ⟨cause, i0, i1⟩ ∧ t.here.regs = s.here.regs ∧ t.here.arr = s.here.arr ∧
      t.here.tab = s.here.tab ∧ t.here.cache = s.here.cache ∧ t.here.ctl.snapshot = some (s.here.takeSnapshot s.pkg.clk) ∧
      t.here.sr.tcause = BitVec.ofNat 8 cause ∧ t.here.sr.tepc = BitVec.ofNat 15 s.here.ctl.pc ∧
      t.here.sr.tmask = s.here.iss.slot.bit := by
  refine ⟨_, rfl, ?_⟩
  simp [takeTrap, takeTrapAt, h, State.setIss, Die.enterTrap]

/-- With no handler work to land, a return restores the snapshot at once. -/
theorem Die.comeBack_settled {d : Die} (clk : Nat) (eret : Bool) (hd : d.pipe.due = []) (hl : d.pipe.landings = []) :
    d.comeBack clk eret = d.restore clk (d.skipsD eret) := by simp [Die.comeBack, hd, hl]

/-! Scratchpad accesses (R108). -/

@[simp] theorem Die.spWrite_sr (l : List Byte) : ∀ (d : Die) (a : Int), (d.spWrite a l).sr = d.sr := by
  induction l with
  | nil => exact fun _ _ => rfl
  | cons b rest ih => intro d a; rw [Die.spWrite, ih]; split <;> rfl

/-- A scratchpad byte after a write of one byte inside the partition. -/
theorem Die.spByte_setByte (d : Die) (a b : Int) (v : Byte) (ha : 0 ≤ a ∧ a < d.spsize) :
    ({ d with arr.sp := Store.set 0#8 d.arr.sp a.toNat v } : Die).spByte b = if b = a then v else d.spByte b := by
  unfold Die.spByte Die.spsize
  simp only [Store.get_set]
  by_cases hb : b = a
  · subst hb; simp [Die.spsize] at ha; simp [ha]
  · by_cases hr : 0 ≤ b ∧ b < (d.sr.spsize.toNat : Int)
    · have : b.toNat ≠ a.toNat := by omega
      simp [hr, hb, this]
    · simp [hr, hb]

/-- A scratchpad byte after a write of several: the bytes that lie in the partition, and no other. -/
theorem Die.spByte_spWrite (l : List Byte) : ∀ (d : Die) (a b : Int), (d.spWrite a l).spByte b =
    if a ≤ b ∧ b < a + l.length ∧ 0 ≤ b ∧ b < d.spsize then l.getD (b - a).toNat 0#8 else d.spByte b := by
  induction l with
  | nil => intro d a b; rw [if_neg (by simp; omega)]; rfl
  | cons v rest ih =>
    intro d a b
    rw [Die.spWrite]
    simp only [ih]
    by_cases hin : 0 ≤ a ∧ a < d.spsize
    · rw [if_pos hin, Die.spByte_setByte d a b v hin]
      have hs : ({ d with arr.sp := Store.set 0#8 d.arr.sp a.toNat v } : Die).spsize = d.spsize := rfl
      rw [hs]
      rcases lt_trichotomy b a with hb | rfl | hb
      · rw [if_neg (by omega), if_neg (by omega), if_neg (by omega)]
      · rw [if_neg (by omega), if_pos rfl, if_pos ⟨le_refl _, by simp, hin⟩]; simp
      · obtain ⟨n, rfl⟩ : ∃ n : Nat, b = a + 1 + n := ⟨(b - a - 1).toNat, by omega⟩
        have h1 : (a + 1 + n - (a + 1)).toNat = n := by omega
        have h2 : (a + 1 + n - a).toNat = n + 1 := by omega
        rw [h1, h2, List.getD_cons_succ, List.length_cons]
        by_cases hn : n < rest.length ∧ 0 ≤ a + 1 + n ∧ a + 1 + (n : Int) < d.spsize
        · rw [if_pos (by omega), if_pos (by omega)]
        · rw [if_neg (by omega), if_neg (by omega), if_neg (by omega)]
    · rw [if_neg hin]
      rcases lt_trichotomy b a with hb | rfl | hb
      · rw [if_neg (by omega), if_neg (by omega)]
      · rw [if_neg (by omega), if_neg (by omega)]
      · obtain ⟨n, rfl⟩ : ∃ n : Nat, b = a + 1 + n := ⟨(b - a - 1).toNat, by omega⟩
        have h1 : (a + 1 + n - (a + 1)).toNat = n := by omega
        have h2 : (a + 1 + n - a).toNat = n + 1 := by omega
        rw [h1, h2, List.getD_cons_succ, List.length_cons]
        by_cases hn : n < rest.length ∧ 0 ≤ a + 1 + n ∧ a + 1 + (n : Int) < d.spsize
        · rw [if_pos (by omega), if_pos (by omega)]
        · rw [if_neg (by omega), if_neg (by omega)]

/-! Requests and engine operations (R262, R277). -/

/-- A request sent joins the list with the next number; no die changes. -/
theorem State.sendReq_frame (s : State) (k : ReqKind) (va : Int) (size : Nat) (d1 d2 : Word) (op sc ord : Nat)
    (arv : Option Nat) : let u := s.sendReq k va size d1 d2 op sc ord arv
    u.1 = s.pkg.nextId ∧ u.2.dies = s.dies ∧ u.2.cur = s.cur ∧ u.2.pkg.mem = s.pkg.mem ∧
      u.2.pkg.nextId = s.pkg.nextId + 1 ∧ ∃ r, u.2.pkg.reqs = s.pkg.reqs ++ [r] ∧ r.id = s.pkg.nextId ∧ r.kind = k := by
  refine ⟨rfl, rfl, rfl, rfl, rfl, _, rfl, rfl, rfl⟩

/-- An engine operation sent joins the list with the next number; no die changes. -/
theorem State.sendEngine_frame (s : State) (flag : Nat) (status : Option Nat) (job : EngineJob) :
    let u := s.sendEngine flag status job
    u.dies = s.dies ∧ u.cur = s.cur ∧ u.pkg.mem = s.pkg.mem ∧ u.pkg.nextId = s.pkg.nextId + 1 ∧
      ∃ e, u.pkg.engines = s.pkg.engines ++ [e] ∧ e.id = s.pkg.nextId ∧ e.job = job ∧ e.stage = .sent := by
  refine ⟨rfl, rfl, rfl, rfl, _, rfl, rfl, rfl, rfl⟩

/-! Slots. -/

/-- A slot instruction of a bundle runs as `exec` says. -/
theorem runSlot_eq_exec {i : Instr} (s : State) (h : i.slotClass ≠ none) : runSlot i s = exec i s := by
  cases i <;> first | rfl | exact absurd rfl h

end Sys2Proof.Machine
end

