-- ==== Sys2Proof/Laws/PerInstr.lean ====
section
/-! SUPPORT. The family "Fits" of statements made per instruction: the word of a slot instruction has no bit
above its slot's width, whatever its operands. -/
namespace Sys2Proof

theorem SSrc.enc_lt (a : SSrc) : a.enc < 128 := by cases a <;> simp only [SSrc.enc] <;> omega
theorem VSrc.enc_lt (a : VSrc) : a.enc < 128 := by cases a <;> simp only [VSrc.enc] <;> omega
theorem MSrc.enc_lt (a : MSrc) : a.enc < 128 := by cases a <;> simp only [MSrc.enc] <;> omega
theorem MDst.enc_lt (a : MDst) : a.enc < 128 := by cases a <;> simp only [MDst.enc] <;> omega
theorem VType.enc_lt (t : VType) : t.enc < 32 := by cases t <;> decide
theorem bitVal_lt (b : Bool) : bitVal b < 2 := by cases b <;> decide

/-- A word fits when its opcode has six bits and its operand fields lie below the predicate's. -/
theorem enc32_lt {op o : Nat} (p : BitVec 5) (h : op < 64) (ho : o < 2 ^ 21) : enc32 op p o < 2 ^ 32 := by
  unfold enc32; omega
theorem enc40_lt {op o : Nat} (p : BitVec 5) (h : op < 64) (ho : o < 2 ^ 29) : enc40 op p o < 2 ^ 40 := by
  unfold enc40; omega
theorem enc48_lt {op o : Nat} (p : BitVec 5) (h : op < 64) (ho : o < 2 ^ 37) : enc48 op p o < 2 ^ 48 := by
  unfold enc48; omega

theorem SArgs.enc_lt (x : SArgs) {op : Nat} (h : op < 64) : x.enc op < 2 ^ 32 := by
  have := bitVal_lt x.ws; have := SSrc.enc_lt x.a; have := SSrc.enc_lt x.b
  unfold SArgs.enc; exact enc32_lt _ h (by omega)

theorem SOne.enc_lt (x : SOne) {op : Nat} (h : op < 64) : x.enc op < 2 ^ 32 := by
  have := bitVal_lt x.ws; have := SSrc.enc_lt x.a
  unfold SOne.enc; exact enc32_lt _ h (by omega)

theorem SImm.enc_lt (x : SImm) {op : Nat} (h : op < 64) : x.enc op < 2 ^ 32 := by
  have := bitVal_lt x.ws
  unfold SImm.enc; exact enc32_lt _ h (by omega)

theorem SCmp.enc_lt (x : SCmp) {op : Nat} (h : op < 64) : x.enc op < 2 ^ 32 := by
  have := SSrc.enc_lt x.a; have := SSrc.enc_lt x.b
  unfold SCmp.enc; exact enc32_lt _ h (by omega)

theorem SCvt.enc_lt (x : SCvt) {op : Nat} (h : op < 64) : x.enc op < 2 ^ 32 := by
  have := bitVal_lt x.ws; have := SSrc.enc_lt x.a
  unfold SCvt.enc; exact enc32_lt _ h (by omega)

theorem SPred.enc_lt (x : SPred) {op : Nat} (h : op < 64) : x.enc op < 2 ^ 32 := by
  have := bitVal_lt x.ny; have := bitVal_lt x.nz
  unfold SPred.enc; exact enc32_lt _ h (by omega)

theorem SPriv.enc_lt (x : SPriv) {op : Nat} (h : op < 64) : x.enc op < 2 ^ 32 := by
  have := SSrc.enc_lt x.a; have := SSrc.enc_lt x.b
  unfold SPriv.enc; exact enc32_lt _ h (by omega)

theorem SSink.enc_lt (x : SSink) {op : Nat} (h : op < 64) : x.enc op < 2 ^ 32 := by
  have := SSrc.enc_lt x.a
  unfold SSink.enc; exact enc32_lt _ h (by omega)

theorem LMem.enc_lt (x : LMem) {op : Nat} (h : op < 64) : x.enc op < 2 ^ 40 := by
  have := bitVal_lt x.ws; have := bitVal_lt x.hint
  unfold LMem.enc; exact enc40_lt _ h (by omega)

theorem LSp.enc_lt (x : LSp) {op : Nat} (h : op < 64) : x.enc op < 2 ^ 40 := by
  have := bitVal_lt x.ws; have := bitVal_lt x.sp
  unfold LSp.enc; exact enc40_lt _ h (by omega)

theorem LVec.enc_lt (x : LVec) {op : Nat} (h : op < 64) : x.enc op < 2 ^ 40 := by
  have := bitVal_lt x.ws; have := bitVal_lt x.sp
  unfold LVec.enc; exact enc40_lt _ h (by omega)

theorem LIdx.enc_lt (x : LIdx) {op : Nat} (h : op < 64) : x.enc op < 2 ^ 40 := by
  have := bitVal_lt x.ws; have := bitVal_lt x.sp
  unfold LIdx.enc; exact enc40_lt _ h (by omega)

theorem LStrong.enc_lt (x : LStrong) {op : Nat} (h : op < 64) (hx : x.n = 0#6 ∨ x.op = 0#4 ∧ x.arv = false) :
    x.enc op < 2 ^ 40 := by
  have := bitVal_lt x.ws
  have := bitVal_lt x.arv
  have := bitVal_lt x.hint
  unfold LStrong.enc
  refine enc40_lt _ h ?_
  rcases hx with hx | ⟨hx, ha⟩
  · have h0 : x.n.toNat = 0 := by rw [hx]; rfl
    rw [h0]; omega
  · have h0 : x.op.toNat = 0 := by rw [hx]; rfl
    have h1 : bitVal x.arv = 0 := by rw [ha]; rfl
    rw [h0, h1]; omega

theorem LFence.enc_lt (x : LFence) {kind : Nat} (h : kind < 8) : x.enc kind < 2 ^ 40 := by
  have := bitVal_lt x.ro
  unfold LFence.enc; exact enc40_lt _ (by omega) (by omega)

theorem LEng.enc_lt (x : LEng) {op : Nat} (h : op < 64) : x.enc op < 2 ^ 40 := by
  unfold LEng.enc; exact enc40_lt _ h (by omega)

theorem LLock.enc_lt (x : LLock) {op all : Nat} (h : op < 64) (ha : all < 2) : x.enc op all < 2 ^ 40 := by
  unfold LLock.enc; exact enc40_lt _ h (by omega)

theorem encV_lt {op d a b t : Nat} (p : BitVec 5) (k : BitVec 3) (ws : Bool) (h : op < 64) (hd : d < 64)
    (ha : a < 128) (hb : b < 128) (ht : t < 32) : encV op p k ws d a b t < 2 ^ 40 := by
  have := bitVal_lt ws
  unfold encV; exact enc40_lt _ h (by omega)

theorem VArgs.enc_lt (x : VArgs) {op : Nat} (h : op < 64) : x.enc op < 2 ^ 40 :=
  encV_lt _ _ _ h x.d.isLt x.a.enc_lt x.b.enc_lt x.ty.enc_lt

theorem VOne.enc_lt (x : VOne) {op : Nat} (h : op < 64) : x.enc op < 2 ^ 40 :=
  encV_lt _ _ _ h x.d.isLt x.a.enc_lt (by omega) x.ty.enc_lt

theorem KArgs.enc_lt (x : KArgs) {op : Nat} (h : op < 64) : x.enc op < 2 ^ 40 :=
  encV_lt _ _ _ h x.d.isLt (by omega) (by omega) (by omega)

theorem MArgs.enc_lt (x : MArgs) {op src : Nat} (h : op < 64) (hs : src < 128) : x.enc op src < 2 ^ 32 := by
  have := bitVal_lt x.sw
  unfold MArgs.enc; exact enc32_lt _ h (by omega)

theorem TArgs.enc_lt (x : TArgs) {op : Nat} (h : op < 64) : x.enc op < 2 ^ 32 := by
  have := bitVal_lt x.sw
  unfold TArgs.enc; exact enc32_lt _ h (by omega)

theorem XArgs.enc_lt (x : XArgs) {op swap : Nat} (h : op < 64) (hs : swap < 2) : x.enc op swap < 2 ^ 48 := by
  have := bitVal_lt x.sw
  have := bitVal_lt x.back
  unfold XArgs.enc; exact enc48_lt _ h (by omega)

end Sys2Proof

/-- A well-formed slot instruction's word fits its slot. -/
def Sys2Proof.Laws.Fits.Statement (i : Sys2Proof.Instr) : Prop :=
  i.wf = true → ∀ k, i.slotClass = some k → Sys2Proof.encode i < 2 ^ k.width

namespace Sys2Proof

/-- The statement of a slot's instruction, from its word's bound. -/
theorem Laws.Fits.of {i : Instr} {k : Slot} (hk : i.slotClass = some k) (h : encode i < 2 ^ k.width) :
    Laws.Fits.Statement i := by
  intro _ j hj; rw [hk] at hj; cases hj; exact h

/-- The statement of a slot's instruction, from the bound that its well-formedness gives. -/
theorem Laws.Fits.of_wf {i : Instr} {k : Slot} (hk : i.slotClass = some k) (h : i.wf = true → encode i < 2 ^ k.width) :
    Laws.Fits.Statement i := by
  intro hw j hj; rw [hk] at hj; cases hj; exact h hw

/-- A step of the machine has no word. -/
theorem Laws.Fits.none {i : Instr} (h : i.slotClass = Option.none) : Laws.Fits.Statement i := by
  intro _ j hj; rw [h] at hj; cases hj

theorem Laws.Fits.snop : ∀ p, Laws.Fits.Statement (.snop p) := fun p => Laws.Fits.of rfl
  (enc32_lt p (by decide) (by omega))
theorem Laws.Fits.add : ∀ x, Laws.Fits.Statement (.add x) := fun x => Laws.Fits.of rfl
  (x.enc_lt (by decide))
theorem Laws.Fits.sub : ∀ x, Laws.Fits.Statement (.sub x) := fun x => Laws.Fits.of rfl
  (x.enc_lt (by decide))
theorem Laws.Fits.and : ∀ x, Laws.Fits.Statement (.and x) := fun x => Laws.Fits.of rfl
  (x.enc_lt (by decide))
theorem Laws.Fits.or : ∀ x, Laws.Fits.Statement (.or x) := fun x => Laws.Fits.of rfl
  (x.enc_lt (by decide))
theorem Laws.Fits.xor : ∀ x, Laws.Fits.Statement (.xor x) := fun x => Laws.Fits.of rfl
  (x.enc_lt (by decide))
theorem Laws.Fits.andn : ∀ x, Laws.Fits.Statement (.andn x) := fun x => Laws.Fits.of rfl
  (x.enc_lt (by decide))
theorem Laws.Fits.shl : ∀ x, Laws.Fits.Statement (.shl x) := fun x => Laws.Fits.of rfl
  (x.enc_lt (by decide))
theorem Laws.Fits.shr : ∀ x, Laws.Fits.Statement (.shr x) := fun x => Laws.Fits.of rfl
  (x.enc_lt (by decide))
theorem Laws.Fits.sra : ∀ x, Laws.Fits.Statement (.sra x) := fun x => Laws.Fits.of rfl
  (x.enc_lt (by decide))
theorem Laws.Fits.rotr : ∀ x, Laws.Fits.Statement (.rotr x) := fun x => Laws.Fits.of rfl
  (x.enc_lt (by decide))
theorem Laws.Fits.mul : ∀ x, Laws.Fits.Statement (.mul x) := fun x => Laws.Fits.of rfl
  (x.enc_lt (by decide))
theorem Laws.Fits.mulh : ∀ x, Laws.Fits.Statement (.mulh x) := fun x => Laws.Fits.of rfl
  (x.enc_lt (by decide))
theorem Laws.Fits.mulhz : ∀ x, Laws.Fits.Statement (.mulhz x) := fun x => Laws.Fits.of rfl
  (x.enc_lt (by decide))
theorem Laws.Fits.div : ∀ x, Laws.Fits.Statement (.div x) := fun x => Laws.Fits.of rfl
  (x.enc_lt (by decide))
theorem Laws.Fits.divz : ∀ x, Laws.Fits.Statement (.divz x) := fun x => Laws.Fits.of rfl
  (x.enc_lt (by decide))
theorem Laws.Fits.rem : ∀ x, Laws.Fits.Statement (.rem x) := fun x => Laws.Fits.of rfl
  (x.enc_lt (by decide))
theorem Laws.Fits.remz : ∀ x, Laws.Fits.Statement (.remz x) := fun x => Laws.Fits.of rfl
  (x.enc_lt (by decide))
theorem Laws.Fits.min : ∀ x, Laws.Fits.Statement (.min x) := fun x => Laws.Fits.of rfl
  (x.enc_lt (by decide))
theorem Laws.Fits.max : ∀ x, Laws.Fits.Statement (.max x) := fun x => Laws.Fits.of rfl
  (x.enc_lt (by decide))
theorem Laws.Fits.minz : ∀ x, Laws.Fits.Statement (.minz x) := fun x => Laws.Fits.of rfl
  (x.enc_lt (by decide))
theorem Laws.Fits.maxz : ∀ x, Laws.Fits.Statement (.maxz x) := fun x => Laws.Fits.of rfl
  (x.enc_lt (by decide))
theorem Laws.Fits.cmp : ∀ x, Laws.Fits.Statement (.cmp x) := fun x => Laws.Fits.of rfl
  (x.enc_lt (by decide))
theorem Laws.Fits.sel : ∀ x, Laws.Fits.Statement (.sel x) := fun x => Laws.Fits.of rfl
  (x.enc_lt (by decide))
theorem Laws.Fits.movi : ∀ x, Laws.Fits.Statement (.movi x) := fun x => Laws.Fits.of rfl
  (x.enc_lt (by decide))
theorem Laws.Fits.movh : ∀ x, Laws.Fits.Statement (.movh x) := fun x => Laws.Fits.of rfl
  (x.enc_lt (by decide))
theorem Laws.Fits.popc : ∀ x, Laws.Fits.Statement (.popc x) := fun x => Laws.Fits.of rfl
  (x.enc_lt (by decide))
theorem Laws.Fits.clz : ∀ x, Laws.Fits.Statement (.clz x) := fun x => Laws.Fits.of rfl
  (x.enc_lt (by decide))
theorem Laws.Fits.ctz : ∀ x, Laws.Fits.Statement (.ctz x) := fun x => Laws.Fits.of rfl
  (x.enc_lt (by decide))
theorem Laws.Fits.brev : ∀ x, Laws.Fits.Statement (.brev x) := fun x => Laws.Fits.of rfl
  (x.enc_lt (by decide))
theorem Laws.Fits.gray : ∀ x, Laws.Fits.Statement (.gray x) := fun x => Laws.Fits.of rfl
  (x.enc_lt (by decide))
theorem Laws.Fits.igray : ∀ x, Laws.Fits.Statement (.igray x) := fun x => Laws.Fits.of rfl
  (x.enc_lt (by decide))
theorem Laws.Fits.ext : ∀ x, Laws.Fits.Statement (.ext x) := fun x => Laws.Fits.of rfl
  (x.enc_lt (by decide))
theorem Laws.Fits.ins : ∀ x, Laws.Fits.Statement (.ins x) := fun x => Laws.Fits.of rfl
  (x.enc_lt (by decide))
theorem Laws.Fits.fadd : ∀ x, Laws.Fits.Statement (.fadd x) := fun x => Laws.Fits.of rfl
  (x.enc_lt (by decide))
theorem Laws.Fits.fsub : ∀ x, Laws.Fits.Statement (.fsub x) := fun x => Laws.Fits.of rfl
  (x.enc_lt (by decide))
theorem Laws.Fits.fmul : ∀ x, Laws.Fits.Statement (.fmul x) := fun x => Laws.Fits.of rfl
  (x.enc_lt (by decide))
theorem Laws.Fits.fmin : ∀ x, Laws.Fits.Statement (.fmin x) := fun x => Laws.Fits.of rfl
  (x.enc_lt (by decide))
theorem Laws.Fits.fmax : ∀ x, Laws.Fits.Statement (.fmax x) := fun x => Laws.Fits.of rfl
  (x.enc_lt (by decide))
theorem Laws.Fits.fcmp : ∀ x, Laws.Fits.Statement (.fcmp x) := fun x => Laws.Fits.of rfl
  (x.enc_lt (by decide))
theorem Laws.Fits.fcvt : ∀ x, Laws.Fits.Statement (.fcvt x) := fun x => Laws.Fits.of rfl
  (x.enc_lt (by decide))
theorem Laws.Fits.pand : ∀ x, Laws.Fits.Statement (.pand x) := fun x => Laws.Fits.of rfl
  (x.enc_lt (by decide))
theorem Laws.Fits.por : ∀ x, Laws.Fits.Statement (.por x) := fun x => Laws.Fits.of rfl
  (x.enc_lt (by decide))
theorem Laws.Fits.pxor : ∀ x, Laws.Fits.Statement (.pxor x) := fun x => Laws.Fits.of rfl
  (x.enc_lt (by decide))
theorem Laws.Fits.srd : ∀ p ws d n, Laws.Fits.Statement (.srd p ws d n) := fun p ws d n => Laws.Fits.of rfl
  (enc32_lt p (by decide) (by have := bitVal_lt ws; omega))
theorem Laws.Fits.swr : ∀ p s n, Laws.Fits.Statement (.swr p s n) := fun p s n => Laws.Fits.of rfl
  (enc32_lt p (by decide) (by omega))
theorem Laws.Fits.shw : ∀ p e r a f, Laws.Fits.Statement (.shw p e r a f) := fun p e r a f => Laws.Fits.of rfl
  (enc32_lt p (by decide) (by have := SSrc.enc_lt a; omega))
theorem Laws.Fits.tidr : ∀ p ws d a f, Laws.Fits.Statement (.tidr p ws d a f) := fun p ws d a f => Laws.Fits.of rfl
  (enc32_lt p (by decide) (by have := bitVal_lt ws; have := SSrc.enc_lt a; omega))
theorem Laws.Fits.tidw : ∀ p f a b, Laws.Fits.Statement (.tidw p f a b) := fun p f a b => Laws.Fits.of rfl
  (enc32_lt p (by decide) (by have := SSrc.enc_lt a; have := SSrc.enc_lt b; omega))
theorem Laws.Fits.agw : ∀ p n a f, Laws.Fits.Statement (.agw p n a f) := fun p n a f => Laws.Fits.of rfl
  (enc32_lt p (by decide) (by have := SSrc.enc_lt a; omega))
theorem Laws.Fits.flgs : ∀ x, Laws.Fits.Statement (.flgs x) := fun x => Laws.Fits.of rfl
  (x.enc_lt (by decide))
theorem Laws.Fits.flgc : ∀ x, Laws.Fits.Statement (.flgc x) := fun x => Laws.Fits.of rfl
  (x.enc_lt (by decide))
theorem Laws.Fits.partner : ∀ x, Laws.Fits.Statement (.partner x) := fun x => Laws.Fits.of rfl
  (x.enc_lt (by decide))
theorem Laws.Fits.krd : ∀ x, Laws.Fits.Statement (.krd x) := fun x => Laws.Fits.of rfl
  (x.enc_lt (by decide))
theorem Laws.Fits.kwrDiestateFence : ∀ x, Laws.Fits.Statement (.kwrDiestateFence x) := fun x => Laws.Fits.of rfl
  (x.enc_lt (by decide))
theorem Laws.Fits.kwrDiestateReset : ∀ x, Laws.Fits.Statement (.kwrDiestateReset x) := fun x => Laws.Fits.of rfl
  (x.enc_lt (by decide))
theorem Laws.Fits.kwrDiestateAdmit : ∀ x, Laws.Fits.Statement (.kwrDiestateAdmit x) := fun x => Laws.Fits.of rfl
  (x.enc_lt (by decide))
theorem Laws.Fits.kwrTqctl : ∀ x, Laws.Fits.Statement (.kwrTqctl x) := fun x => Laws.Fits.of rfl
  (x.enc_lt (by decide))
theorem Laws.Fits.kwrArrctr : ∀ x, Laws.Fits.Statement (.kwrArrctr x) := fun x => Laws.Fits.of rfl
  (x.enc_lt (by decide))
theorem Laws.Fits.kwrBarctl : ∀ x, Laws.Fits.Statement (.kwrBarctl x) := fun x => Laws.Fits.of rfl
  (x.enc_lt (by decide))
theorem Laws.Fits.tlbinv : ∀ x, Laws.Fits.Statement (.tlbinv x) := fun x => Laws.Fits.of rfl
  (x.enc_lt (by decide))
theorem Laws.Fits.ctxsv : ∀ x, Laws.Fits.Statement (.ctxsv x) := fun x => Laws.Fits.of rfl
  (x.enc_lt (by decide))
theorem Laws.Fits.ctxrs : ∀ x, Laws.Fits.Statement (.ctxrs x) := fun x => Laws.Fits.of rfl
  (x.enc_lt (by decide))
theorem Laws.Fits.lkmw : ∀ x, Laws.Fits.Statement (.lkmw x) := fun x => Laws.Fits.of rfl
  (x.enc_lt (by decide))
theorem Laws.Fits.rtbw : ∀ x, Laws.Fits.Statement (.rtbw x) := fun x => Laws.Fits.of rfl
  (x.enc_lt (by decide))
theorem Laws.Fits.cnop : ∀ p, Laws.Fits.Statement (.cnop p) := fun p => Laws.Fits.of rfl
  (enc32_lt p (by decide) (by omega))
theorem Laws.Fits.br : ∀ p o, Laws.Fits.Statement (.br p o) := fun p o => Laws.Fits.of rfl
  (enc32_lt p (by decide) (by omega))
theorem Laws.Fits.jmp : ∀ p r, Laws.Fits.Statement (.jmp p r) := fun p r => Laws.Fits.of rfl
  (enc32_lt p (by decide) (by omega))
theorem Laws.Fits.call : ∀ p o, Laws.Fits.Statement (.call p o) := fun p o => Laws.Fits.of rfl
  (enc32_lt p (by decide) (by omega))
theorem Laws.Fits.ret : ∀ p, Laws.Fits.Statement (.ret p) := fun p => Laws.Fits.of rfl
  (enc32_lt p (by decide) (by omega))
theorem Laws.Fits.loop : ∀ p r s e, Laws.Fits.Statement (.loop p r s e) := fun p r s e => Laws.Fits.of rfl
  (enc32_lt p (by decide) (by omega))
theorem Laws.Fits.bloop : ∀ p r e, Laws.Fits.Statement (.bloop p r e) := fun p r e => Laws.Fits.of rfl
  (enc32_lt p (by decide) (by omega))
theorem Laws.Fits.wait : ∀ p r a, Laws.Fits.Statement (.wait p r a) := fun p r a => Laws.Fits.of rfl
  (enc32_lt p (by decide) (by have := bitVal_lt a; omega))
theorem Laws.Fits.brf : ∀ p f s o, Laws.Fits.Statement (.brf p f s o) := fun p f s o => Laws.Fits.of rfl
  (enc32_lt p (by decide) (by have := bitVal_lt s; omega))
theorem Laws.Fits.brsw : ∀ p a, Laws.Fits.Statement (.brsw p a) := fun p a => Laws.Fits.of rfl
  (enc32_lt p (by decide) (by omega))
theorem Laws.Fits.ifence : ∀ p, Laws.Fits.Statement (.ifence p) := fun p => Laws.Fits.of rfl
  (enc32_lt p (by decide) (by omega))
theorem Laws.Fits.trap : ∀ p c, Laws.Fits.Statement (.trap p c) := fun p c => Laws.Fits.of rfl
  (enc32_lt p (by decide) (by omega))
theorem Laws.Fits.tret : ∀ p, Laws.Fits.Statement (.tret p) := fun p => Laws.Fits.of rfl
  (enc32_lt p (by decide) (by omega))
theorem Laws.Fits.halt : ∀ p c, Laws.Fits.Statement (.halt p c) := fun p c => Laws.Fits.of rfl
  (enc32_lt p (by decide) (by omega))
theorem Laws.Fits.mwait : ∀ p r, Laws.Fits.Statement (.mwait p r) := fun p r => Laws.Fits.of rfl
  (enc32_lt p (by decide) (by omega))
theorem Laws.Fits.sleept : ∀ p, Laws.Fits.Statement (.sleept p) := fun p => Laws.Fits.of rfl
  (enc32_lt p (by decide) (by omega))
theorem Laws.Fits.kcall : ∀ p, Laws.Fits.Statement (.kcall p) := fun p => Laws.Fits.of rfl
  (enc32_lt p (by decide) (by omega))
theorem Laws.Fits.brkpt : ∀ p, Laws.Fits.Statement (.brkpt p) := fun p => Laws.Fits.of rfl
  (enc32_lt p (by decide) (by omega))
theorem Laws.Fits.eret : ∀ p, Laws.Fits.Statement (.eret p) := fun p => Laws.Fits.of rfl
  (enc32_lt p (by decide) (by omega))
theorem Laws.Fits.kstopKill : ∀ p c, Laws.Fits.Statement (.kstopKill p c) := fun p c => Laws.Fits.of rfl
  (enc32_lt p (by decide) (by omega))
theorem Laws.Fits.kstopFault : ∀ p c, Laws.Fits.Statement (.kstopFault p c) := fun p c => Laws.Fits.of rfl
  (enc32_lt p (by decide) (by omega))
theorem Laws.Fits.kstopDesched : ∀ p c, Laws.Fits.Statement (.kstopDesched p c) := fun p c => Laws.Fits.of rfl
  (enc32_lt p (by decide) (by omega))
theorem Laws.Fits.lnop : ∀ p, Laws.Fits.Statement (.lnop p) := fun p => Laws.Fits.of rfl
  (enc40_lt p (by decide) (by omega))
theorem Laws.Fits.ld : ∀ x, Laws.Fits.Statement (.ld x) := fun x => Laws.Fits.of rfl
  (x.enc_lt (by decide))
theorem Laws.Fits.st : ∀ x, Laws.Fits.Statement (.st x) := fun x => Laws.Fits.of rfl
  (x.enc_lt (by decide))
theorem Laws.Fits.ldro : ∀ x, Laws.Fits.Statement (.ldro x) := fun x => Laws.Fits.of rfl
  (x.enc_lt (by decide))
theorem Laws.Fits.ldsp : ∀ x, Laws.Fits.Statement (.ldsp x) := fun x => Laws.Fits.of rfl
  (x.enc_lt (by decide))
theorem Laws.Fits.stsp : ∀ x, Laws.Fits.Statement (.stsp x) := fun x => Laws.Fits.of rfl
  (x.enc_lt (by decide))
theorem Laws.Fits.vld : ∀ x, Laws.Fits.Statement (.vld x) := fun x => Laws.Fits.of rfl
  (x.enc_lt (by decide))
theorem Laws.Fits.vst : ∀ x, Laws.Fits.Statement (.vst x) := fun x => Laws.Fits.of rfl
  (x.enc_lt (by decide))
theorem Laws.Fits.vldx : ∀ x, Laws.Fits.Statement (.vldx x) := fun x => Laws.Fits.of rfl
  (x.enc_lt (by decide))
theorem Laws.Fits.vstx : ∀ x, Laws.Fits.Statement (.vstx x) := fun x => Laws.Fits.of rfl
  (x.enc_lt (by decide))
theorem Laws.Fits.atom : ∀ x, Laws.Fits.Statement (.atom x) := fun x => Laws.Fits.of_wf rfl fun h => by
  simp [Instr.wf] at h; exact x.enc_lt (by decide) (by simp [h])
theorem Laws.Fits.cas : ∀ x, Laws.Fits.Statement (.cas x) := fun x => Laws.Fits.of_wf rfl fun h => by
  simp [Instr.wf] at h; exact x.enc_lt (by decide) (by simp [h])
theorem Laws.Fits.red : ∀ x, Laws.Fits.Statement (.red x) := fun x => Laws.Fits.of_wf rfl fun h => by
  simp [Instr.wf] at h; exact x.enc_lt (by decide) (by simp [h])
theorem Laws.Fits.heapins : ∀ x, Laws.Fits.Statement (.heapins x) := fun x => Laws.Fits.of_wf rfl fun h => by
  simp [Instr.wf] at h; exact x.enc_lt (by decide) (by simp [h])
theorem Laws.Fits.fenceAcq : ∀ x, Laws.Fits.Statement (.fenceAcq x) := fun x => Laws.Fits.of rfl
  (x.enc_lt (by decide))
theorem Laws.Fits.fenceRel : ∀ x, Laws.Fits.Statement (.fenceRel x) := fun x => Laws.Fits.of rfl
  (x.enc_lt (by decide))
theorem Laws.Fits.fenceAcqrel : ∀ x, Laws.Fits.Statement (.fenceAcqrel x) := fun x => Laws.Fits.of rfl
  (x.enc_lt (by decide))
theorem Laws.Fits.fenceSc : ∀ x, Laws.Fits.Statement (.fenceSc x) := fun x => Laws.Fits.of rfl
  (x.enc_lt (by decide))
theorem Laws.Fits.fenceRo : ∀ p, Laws.Fits.Statement (.fenceRo p) := fun p => Laws.Fits.of rfl
  (enc40_lt p (by decide) (by omega))
theorem Laws.Fits.mon : ∀ p b, Laws.Fits.Statement (.mon p b) := fun p b => Laws.Fits.of rfl
  (enc40_lt p (by decide) (by omega))
theorem Laws.Fits.monOff : ∀ p b, Laws.Fits.Statement (.monOff p b) := fun p b => Laws.Fits.of rfl
  (enc40_lt p (by decide) (by omega))
theorem Laws.Fits.copy : ∀ p b, Laws.Fits.Statement (.copy p b) := fun p b => Laws.Fits.of rfl
  (enc40_lt p (by decide) (by omega))
theorem Laws.Fits.take : ∀ x, Laws.Fits.Statement (.take x) := fun x => Laws.Fits.of rfl
  (x.enc_lt (by decide))
theorem Laws.Fits.enqt : ∀ x, Laws.Fits.Statement (.enqt x) := fun x => Laws.Fits.of rfl
  (x.enc_lt (by decide))
theorem Laws.Fits.enqtClose : ∀ x, Laws.Fits.Statement (.enqtClose x) := fun x => Laws.Fits.of rfl
  (x.enc_lt (by decide))
theorem Laws.Fits.arrive : ∀ x, Laws.Fits.Statement (.arrive x) := fun x => Laws.Fits.of rfl
  (x.enc_lt (by decide))
theorem Laws.Fits.arriveSet : ∀ x, Laws.Fits.Statement (.arriveSet x) := fun x => Laws.Fits.of rfl
  (x.enc_lt (by decide))
theorem Laws.Fits.barinit : ∀ x, Laws.Fits.Statement (.barinit x) := fun x => Laws.Fits.of rfl
  (x.enc_lt (by decide))
theorem Laws.Fits.bararv : ∀ x, Laws.Fits.Statement (.bararv x) := fun x => Laws.Fits.of rfl
  (x.enc_lt (by decide))
theorem Laws.Fits.lktxn : ∀ x, Laws.Fits.Statement (.lktxn x) := fun x => Laws.Fits.of rfl
  (x.enc_lt (by decide) (by decide))
theorem Laws.Fits.lkacq : ∀ x, Laws.Fits.Statement (.lkacq x) := fun x => Laws.Fits.of rfl
  (x.enc_lt (by decide) (by decide))
theorem Laws.Fits.lkup : ∀ x, Laws.Fits.Statement (.lkup x) := fun x => Laws.Fits.of rfl
  (x.enc_lt (by decide) (by decide))
theorem Laws.Fits.lkdn : ∀ x, Laws.Fits.Statement (.lkdn x) := fun x => Laws.Fits.of rfl
  (x.enc_lt (by decide) (by decide))
theorem Laws.Fits.lkrel : ∀ x, Laws.Fits.Statement (.lkrel x) := fun x => Laws.Fits.of rfl
  (x.enc_lt (by decide) (by decide))
theorem Laws.Fits.lkrelAll : ∀ x, Laws.Fits.Statement (.lkrelAll x) := fun x => Laws.Fits.of rfl
  (x.enc_lt (by decide) (by decide))
theorem Laws.Fits.lkabt : ∀ x, Laws.Fits.Statement (.lkabt x) := fun x => Laws.Fits.of rfl
  (x.enc_lt (by decide) (by decide))
theorem Laws.Fits.lkqry : ∀ x, Laws.Fits.Statement (.lkqry x) := fun x => Laws.Fits.of rfl
  (x.enc_lt (by decide) (by decide))
theorem Laws.Fits.enql : ∀ x, Laws.Fits.Statement (.enql x) := fun x => Laws.Fits.of rfl
  (x.enc_lt (by decide))
theorem Laws.Fits.vnop : ∀ p, Laws.Fits.Statement (.vnop p) := fun p => Laws.Fits.of rfl
  (enc40_lt p (by decide) (by omega))
theorem Laws.Fits.vadd : ∀ x, Laws.Fits.Statement (.vadd x) := fun x => Laws.Fits.of rfl
  (x.enc_lt (by decide))
theorem Laws.Fits.vsub : ∀ x, Laws.Fits.Statement (.vsub x) := fun x => Laws.Fits.of rfl
  (x.enc_lt (by decide))
theorem Laws.Fits.vmul : ∀ x, Laws.Fits.Statement (.vmul x) := fun x => Laws.Fits.of rfl
  (x.enc_lt (by decide))
theorem Laws.Fits.vfma : ∀ x, Laws.Fits.Statement (.vfma x) := fun x => Laws.Fits.of rfl
  (x.enc_lt (by decide))
theorem Laws.Fits.vfms : ∀ x, Laws.Fits.Statement (.vfms x) := fun x => Laws.Fits.of rfl
  (x.enc_lt (by decide))
theorem Laws.Fits.vmin : ∀ x, Laws.Fits.Statement (.vmin x) := fun x => Laws.Fits.of rfl
  (x.enc_lt (by decide))
theorem Laws.Fits.vmax : ∀ x, Laws.Fits.Statement (.vmax x) := fun x => Laws.Fits.of rfl
  (x.enc_lt (by decide))
theorem Laws.Fits.vabs : ∀ x, Laws.Fits.Statement (.vabs x) := fun x => Laws.Fits.of rfl
  (x.enc_lt (by decide))
theorem Laws.Fits.vneg : ∀ x, Laws.Fits.Statement (.vneg x) := fun x => Laws.Fits.of rfl
  (x.enc_lt (by decide))
theorem Laws.Fits.vand : ∀ x, Laws.Fits.Statement (.vand x) := fun x => Laws.Fits.of rfl
  (x.enc_lt (by decide))
theorem Laws.Fits.vor : ∀ x, Laws.Fits.Statement (.vor x) := fun x => Laws.Fits.of rfl
  (x.enc_lt (by decide))
theorem Laws.Fits.vxor : ∀ x, Laws.Fits.Statement (.vxor x) := fun x => Laws.Fits.of rfl
  (x.enc_lt (by decide))
theorem Laws.Fits.vshl : ∀ x, Laws.Fits.Statement (.vshl x) := fun x => Laws.Fits.of rfl
  (x.enc_lt (by decide))
theorem Laws.Fits.vshr : ∀ x, Laws.Fits.Statement (.vshr x) := fun x => Laws.Fits.of rfl
  (x.enc_lt (by decide))
theorem Laws.Fits.vsra : ∀ x, Laws.Fits.Statement (.vsra x) := fun x => Laws.Fits.of rfl
  (x.enc_lt (by decide))
theorem Laws.Fits.vcmp : ∀ x, Laws.Fits.Statement (.vcmp x) := fun x => Laws.Fits.of rfl
  (encV_lt _ _ _ (by decide) (by omega) x.a.enc_lt x.b.enc_lt x.ty.enc_lt)
theorem Laws.Fits.vsel : ∀ x, Laws.Fits.Statement (.vsel x) := fun x => Laws.Fits.of rfl
  (x.enc_lt (by decide))
theorem Laws.Fits.vmov : ∀ x, Laws.Fits.Statement (.vmov x) := fun x => Laws.Fits.of rfl
  (x.enc_lt (by decide))
theorem Laws.Fits.vbcast : ∀ x, Laws.Fits.Statement (.vbcast x) := fun x => Laws.Fits.of rfl
  (encV_lt _ _ _ (by decide) x.d.isLt x.a.enc_lt (by decide) x.ty.enc_lt)
theorem Laws.Fits.viota : ∀ x, Laws.Fits.Statement (.viota x) := fun x => Laws.Fits.of rfl
  (x.enc_lt (by decide))
theorem Laws.Fits.vexp2 : ∀ x, Laws.Fits.Statement (.vexp2 x) := fun x => Laws.Fits.of rfl
  (x.enc_lt (by decide))
theorem Laws.Fits.vlog2 : ∀ x, Laws.Fits.Statement (.vlog2 x) := fun x => Laws.Fits.of rfl
  (x.enc_lt (by decide))
theorem Laws.Fits.vrcp : ∀ x, Laws.Fits.Statement (.vrcp x) := fun x => Laws.Fits.of rfl
  (x.enc_lt (by decide))
theorem Laws.Fits.vrsq : ∀ x, Laws.Fits.Statement (.vrsq x) := fun x => Laws.Fits.of rfl
  (x.enc_lt (by decide))
theorem Laws.Fits.vrsum : ∀ x, Laws.Fits.Statement (.vrsum x) := fun x => Laws.Fits.of rfl
  (x.enc_lt (by decide))
theorem Laws.Fits.vrmax : ∀ x, Laws.Fits.Statement (.vrmax x) := fun x => Laws.Fits.of rfl
  (x.enc_lt (by decide))
theorem Laws.Fits.vrmin : ∀ x, Laws.Fits.Statement (.vrmin x) := fun x => Laws.Fits.of rfl
  (x.enc_lt (by decide))
theorem Laws.Fits.vargmax : ∀ x, Laws.Fits.Statement (.vargmax x) := fun x => Laws.Fits.of rfl
  (x.enc_lt (by decide))
theorem Laws.Fits.vscan : ∀ x, Laws.Fits.Statement (.vscan x) := fun x => Laws.Fits.of rfl
  (x.enc_lt (by decide))
theorem Laws.Fits.vperm : ∀ x, Laws.Fits.Statement (.vperm x) := fun x => Laws.Fits.of rfl
  (x.enc_lt (by decide))
theorem Laws.Fits.vrotl : ∀ x, Laws.Fits.Statement (.vrotl x) := fun x => Laws.Fits.of rfl
  (x.enc_lt (by decide))
theorem Laws.Fits.vcvt : ∀ x, Laws.Fits.Statement (.vcvt x) := fun x => Laws.Fits.of rfl
  (encV_lt _ _ _ (by decide) x.d.isLt x.a.enc_lt (by decide) (by omega))
theorem Laws.Fits.vpack : ∀ x, Laws.Fits.Statement (.vpack x) := fun x => Laws.Fits.of rfl
  (x.enc_lt (by decide))
theorem Laws.Fits.vunpk : ∀ x, Laws.Fits.Statement (.vunpk x) := fun x => Laws.Fits.of rfl
  (encV_lt _ _ _ (by decide) x.d.isLt x.a.enc_lt (by have := bitVal_lt x.h; omega) x.ty.enc_lt)
theorem Laws.Fits.vout : ∀ x, Laws.Fits.Statement (.vout x) := fun x => Laws.Fits.of rfl
  (encV_lt _ _ _ (by decide) (by omega) x.a.enc_lt (by decide) x.ty.enc_lt)
theorem Laws.Fits.kand : ∀ x, Laws.Fits.Statement (.kand x) := fun x => Laws.Fits.of rfl
  (x.enc_lt (by decide))
theorem Laws.Fits.kor : ∀ x, Laws.Fits.Statement (.kor x) := fun x => Laws.Fits.of rfl
  (x.enc_lt (by decide))
theorem Laws.Fits.knot : ∀ x, Laws.Fits.Statement (.knot x) := fun x => Laws.Fits.of rfl
  (x.enc_lt (by decide))
theorem Laws.Fits.kpopc : ∀ x, Laws.Fits.Statement (.kpopc x) := fun x => Laws.Fits.of rfl
  (x.enc_lt (by decide))
theorem Laws.Fits.vexts : ∀ x, Laws.Fits.Statement (.vexts x) := fun x => Laws.Fits.of rfl
  (encV_lt _ _ _ (by decide) x.d.isLt x.a.enc_lt x.b.enc_lt x.ty.enc_lt)
theorem Laws.Fits.vinss : ∀ x, Laws.Fits.Statement (.vinss x) := fun x => Laws.Fits.of rfl
  (encV_lt _ _ _ (by decide) x.d.isLt x.a.enc_lt x.b.enc_lt x.ty.enc_lt)
theorem Laws.Fits.vmulh : ∀ x, Laws.Fits.Statement (.vmulh x) := fun x => Laws.Fits.of rfl
  (x.enc_lt (by decide))
theorem Laws.Fits.vadds : ∀ x, Laws.Fits.Statement (.vadds x) := fun x => Laws.Fits.of rfl
  (x.enc_lt (by decide))
theorem Laws.Fits.vsubs : ∀ x, Laws.Fits.Statement (.vsubs x) := fun x => Laws.Fits.of rfl
  (x.enc_lt (by decide))
theorem Laws.Fits.mnop : ∀ p, Laws.Fits.Statement (.mnop p) := fun p => Laws.Fits.of rfl
  (enc32_lt p (by decide) (by omega))
theorem Laws.Fits.mpush : ∀ x s, Laws.Fits.Statement (.mpush x s) := fun x s => Laws.Fits.of rfl
  (x.enc_lt (by decide) s.enc_lt)
theorem Laws.Fits.mpushw : ∀ x, Laws.Fits.Statement (.mpushw x) := fun x => Laws.Fits.of rfl
  (x.enc_lt (by decide) (by decide))
theorem Laws.Fits.mswapw : ∀ x, Laws.Fits.Statement (.mswapw x) := fun x => Laws.Fits.of rfl
  (x.enc_lt (by decide) (by decide))
theorem Laws.Fits.mmul : ∀ x s, Laws.Fits.Statement (.mmul x s) := fun x s => Laws.Fits.of rfl
  (x.enc_lt (by decide) s.enc_lt)
theorem Laws.Fits.macc : ∀ x s, Laws.Fits.Statement (.macc x s) := fun x s => Laws.Fits.of rfl
  (x.enc_lt (by decide) s.enc_lt)
theorem Laws.Fits.mdrain : ∀ x d, Laws.Fits.Statement (.mdrain x d) := fun x d => Laws.Fits.of rfl
  (x.enc_lt (by decide) d.enc_lt)
theorem Laws.Fits.mclr : ∀ x, Laws.Fits.Statement (.mclr x) := fun x => Laws.Fits.of rfl
  (x.enc_lt (by decide) (by decide))
theorem Laws.Fits.tnop : ∀ p, Laws.Fits.Statement (.tnop p) := fun p => Laws.Fits.of rfl
  (enc32_lt p (by decide) (by omega))
theorem Laws.Fits.texp : ∀ x, Laws.Fits.Statement (.texp x) := fun x => Laws.Fits.of rfl
  (x.enc_lt (by decide))
theorem Laws.Fits.tqnt : ∀ x, Laws.Fits.Statement (.tqnt x) := fun x => Laws.Fits.of rfl
  (x.enc_lt (by decide))
theorem Laws.Fits.tcvt : ∀ x, Laws.Fits.Statement (.tcvt x) := fun x => Laws.Fits.of rfl
  (x.enc_lt (by decide))
theorem Laws.Fits.ttrni : ∀ x, Laws.Fits.Statement (.ttrni x) := fun x => Laws.Fits.of rfl
  (x.enc_lt (by decide))
theorem Laws.Fits.ttrno : ∀ x, Laws.Fits.Statement (.ttrno x) := fun x => Laws.Fits.of rfl
  (x.enc_lt (by decide))
theorem Laws.Fits.xnop : ∀ p, Laws.Fits.Statement (.xnop p) := fun p => Laws.Fits.of rfl
  (enc48_lt p (by decide) (by omega))
theorem Laws.Fits.xch : ∀ x, Laws.Fits.Statement (.xch x) := fun x => Laws.Fits.of rfl
  (x.enc_lt (by decide) (by decide))
theorem Laws.Fits.xcb : ∀ x, Laws.Fits.Statement (.xcb x) := fun x => Laws.Fits.of rfl
  (x.enc_lt (by decide) (by decide))
theorem Laws.Fits.xsib : ∀ x, Laws.Fits.Statement (.xsib x) := fun x => Laws.Fits.of rfl
  (x.enc_lt (by decide) (by decide))
theorem Laws.Fits.xring : ∀ x, Laws.Fits.Statement (.xring x) := fun x => Laws.Fits.of rfl
  (x.enc_lt (by decide) (by decide))
theorem Laws.Fits.xsend : ∀ x, Laws.Fits.Statement (.xsend x) := fun x => Laws.Fits.of rfl
  (x.enc_lt (by decide) (by decide))
theorem Laws.Fits.xrecv : ∀ x, Laws.Fits.Statement (.xrecv x) := fun x => Laws.Fits.of rfl
  (x.enc_lt (by decide) (by decide))
theorem Laws.Fits.xfan : ∀ x, Laws.Fits.Statement (.xfan x) := fun x => Laws.Fits.of rfl
  (x.enc_lt (by decide) (by decide))
theorem Laws.Fits.xbar : ∀ x, Laws.Fits.Statement (.xbar x) := fun x => Laws.Fits.of rfl
  (x.enc_lt (by decide) (by decide))
theorem Laws.Fits.xbarSwap : ∀ x, Laws.Fits.Statement (.xbarSwap x) := fun x => Laws.Fits.of rfl
  (x.enc_lt (by decide) (by decide))
theorem Laws.Fits.chw : ∀ x, Laws.Fits.Statement (.chw x) := fun x => Laws.Fits.of rfl
  (x.enc_lt (by decide) (by decide))
theorem Laws.Fits.resultLanding : Laws.Fits.Statement .resultLanding := Laws.Fits.none rfl
theorem Laws.Fits.landingDataArrival : ∀ a0, Laws.Fits.Statement (.landingDataArrival a0) := fun _ => Laws.Fits.none rfl
theorem Laws.Fits.freezeWatchdogExpiry : Laws.Fits.Statement .freezeWatchdogExpiry := Laws.Fits.none rfl
theorem Laws.Fits.yieldBoundExpiry : Laws.Fits.Statement .yieldBoundExpiry := Laws.Fits.none rfl
theorem Laws.Fits.waitBundle : Laws.Fits.Statement .waitBundle := Laws.Fits.none rfl
theorem Laws.Fits.yieldPoint : Laws.Fits.Statement .yieldPoint := Laws.Fits.none rfl
theorem Laws.Fits.bundleBreakpoint : Laws.Fits.Statement .bundleBreakpoint := Laws.Fits.none rfl
theorem Laws.Fits.illfetch : Laws.Fits.Statement .illfetch := Laws.Fits.none rfl
theorem Laws.Fits.literalFetch : Laws.Fits.Statement .literalFetch := Laws.Fits.none rfl
theorem Laws.Fits.tepcWrite : ∀ a0, Laws.Fits.Statement (.tepcWrite a0) := fun _ => Laws.Fits.none rfl
theorem Laws.Fits.portFetch : ∀ a0, Laws.Fits.Statement (.portFetch a0) := fun _ => Laws.Fits.none rfl
theorem Laws.Fits.portVectorArrival : ∀ a0, Laws.Fits.Statement (.portVectorArrival a0) := fun _ => Laws.Fits.none rfl
theorem Laws.Fits.outputPortWrite : ∀ a0, Laws.Fits.Statement (.outputPortWrite a0) := fun _ => Laws.Fits.none rfl
theorem Laws.Fits.refreshWindow : Laws.Fits.Statement .refreshWindow := Laws.Fits.none rfl
theorem Laws.Fits.statRecordWrite : Laws.Fits.Statement .statRecordWrite := Laws.Fits.none rfl
theorem Laws.Fits.pushRowLand : Laws.Fits.Statement .pushRowLand := Laws.Fits.none rfl
theorem Laws.Fits.planeSwap : Laws.Fits.Statement .planeSwap := Laws.Fits.none rfl
theorem Laws.Fits.accRowClear : Laws.Fits.Statement .accRowClear := Laws.Fits.none rfl
theorem Laws.Fits.beatUpdate : Laws.Fits.Statement .beatUpdate := Laws.Fits.none rfl
theorem Laws.Fits.transposerBlockOutput : Laws.Fits.Statement .transposerBlockOutput := Laws.Fits.none rfl
theorem Laws.Fits.copyStart : ∀ a0 a1, Laws.Fits.Statement (.copyStart a0 a1) := fun _ _ => Laws.Fits.none rfl
theorem Laws.Fits.copyComplete : ∀ a0, Laws.Fits.Statement (.copyComplete a0) := fun _ => Laws.Fits.none rfl
theorem Laws.Fits.engineCompletion : ∀ a0, Laws.Fits.Statement (.engineCompletion a0) := fun _ => Laws.Fits.none rfl
theorem Laws.Fits.takeDeliver : ∀ a0, Laws.Fits.Statement (.takeDeliver a0) := fun _ => Laws.Fits.none rfl
theorem Laws.Fits.woundDelivery : Laws.Fits.Statement .woundDelivery := Laws.Fits.none rfl
theorem Laws.Fits.wgraceExpiry : ∀ a0, Laws.Fits.Statement (.wgraceExpiry a0) := fun _ => Laws.Fits.none rfl
theorem Laws.Fits.exchangePairing : ∀ a0 a1, Laws.Fits.Statement (.exchangePairing a0 a1) := fun _ _ => Laws.Fits.none rfl
theorem Laws.Fits.exchangeComplete : ∀ a0, Laws.Fits.Statement (.exchangeComplete a0) := fun _ => Laws.Fits.none rfl
theorem Laws.Fits.xfanArrival : ∀ a0 a1 a2, Laws.Fits.Statement (.xfanArrival a0 a1 a2) := fun _ _ _ => Laws.Fits.none rfl
theorem Laws.Fits.swapDecision : ∀ a0 a1, Laws.Fits.Statement (.swapDecision a0 a1) := fun _ _ => Laws.Fits.none rfl
theorem Laws.Fits.backlogStore : ∀ a0, Laws.Fits.Statement (.backlogStore a0) := fun _ => Laws.Fits.none rfl
theorem Laws.Fits.linkDetour : ∀ a0 a1 a2, Laws.Fits.Statement (.linkDetour a0 a1 a2) := fun _ _ _ => Laws.Fits.none rfl
theorem Laws.Fits.storeAcknowledge : ∀ a0, Laws.Fits.Statement (.storeAcknowledge a0) := fun _ => Laws.Fits.none rfl
theorem Laws.Fits.releaseComplete : Laws.Fits.Statement .releaseComplete := Laws.Fits.none rfl
theorem Laws.Fits.directoryRequest : ∀ a0, Laws.Fits.Statement (.directoryRequest a0) := fun _ => Laws.Fits.none rfl
theorem Laws.Fits.strongAccessPerform : ∀ a0, Laws.Fits.Statement (.strongAccessPerform a0) := fun _ => Laws.Fits.none rfl
theorem Laws.Fits.mwaitTimeout : Laws.Fits.Statement .mwaitTimeout := Laws.Fits.none rfl
theorem Laws.Fits.pageWalk : ∀ a0, Laws.Fits.Statement (.pageWalk a0) := fun _ => Laws.Fits.none rfl
theorem Laws.Fits.faultRecordWrite : Laws.Fits.Statement .faultRecordWrite := Laws.Fits.none rfl
theorem Laws.Fits.frctlWrite : ∀ a0, Laws.Fits.Statement (.frctlWrite a0) := fun _ => Laws.Fits.none rfl
theorem Laws.Fits.fransRetry : ∀ a0, Laws.Fits.Statement (.fransRetry a0) := fun _ => Laws.Fits.none rfl
theorem Laws.Fits.fransKill : ∀ a0, Laws.Fits.Statement (.fransKill a0) := fun _ => Laws.Fits.none rfl
theorem Laws.Fits.fransAbort : ∀ a0, Laws.Fits.Statement (.fransAbort a0) := fun _ => Laws.Fits.none rfl
theorem Laws.Fits.migrationStart : Laws.Fits.Statement .migrationStart := Laws.Fits.none rfl
theorem Laws.Fits.migrationDone : ∀ a0, Laws.Fits.Statement (.migrationDone a0) := fun _ => Laws.Fits.none rfl
theorem Laws.Fits.dieResetDone : Laws.Fits.Statement .dieResetDone := Laws.Fits.none rfl
theorem Laws.Fits.uncorrectableError : ∀ a0, Laws.Fits.Statement (.uncorrectableError a0) := fun _ => Laws.Fits.none rfl
theorem Laws.Fits.launchEnqueue : ∀ a0 a1 a2, Laws.Fits.Statement (.launchEnqueue a0 a1 a2) := fun _ _ _ => Laws.Fits.none rfl
theorem Laws.Fits.launchSelect : Laws.Fits.Statement .launchSelect := Laws.Fits.none rfl
theorem Laws.Fits.agePromotion : ∀ a0, Laws.Fits.Statement (.agePromotion a0) := fun _ => Laws.Fits.none rfl
theorem Laws.Fits.launchReadyReport : ∀ a0 a1, Laws.Fits.Statement (.launchReadyReport a0 a1) := fun _ _ => Laws.Fits.none rfl
theorem Laws.Fits.startTimeBroadcast : ∀ a0 a1, Laws.Fits.Statement (.startTimeBroadcast a0 a1) := fun _ _ => Laws.Fits.none rfl
theorem Laws.Fits.gangStart : ∀ a0 a1, Laws.Fits.Statement (.gangStart a0 a1) := fun _ _ => Laws.Fits.none rfl
theorem Laws.Fits.saveComplete : Laws.Fits.Statement .saveComplete := Laws.Fits.none rfl
theorem Laws.Fits.completionAction : ∀ a0, Laws.Fits.Statement (.completionAction a0) := fun _ => Laws.Fits.none rfl
theorem Laws.Fits.kcEnqueue : Laws.Fits.Statement .kcEnqueue := Laws.Fits.none rfl
theorem Laws.Fits.kcYield : Laws.Fits.Statement .kcYield := Laws.Fits.none rfl
theorem Laws.Fits.kcTqopen : Laws.Fits.Statement .kcTqopen := Laws.Fits.none rfl
theorem Laws.Fits.kcBarreset : Laws.Fits.Statement .kcBarreset := Laws.Fits.none rfl
theorem Laws.Fits.kcRegion : Laws.Fits.Statement .kcRegion := Laws.Fits.none rfl
theorem Laws.Fits.retopo : Laws.Fits.Statement .retopo := Laws.Fits.none rfl
theorem Laws.Fits.relight : Laws.Fits.Statement .relight := Laws.Fits.none rfl
theorem Laws.Fits.partnew : Laws.Fits.Statement .partnew := Laws.Fits.none rfl
theorem Laws.Fits.partend : Laws.Fits.Statement .partend := Laws.Fits.none rfl
theorem Laws.Fits.portDrained : ∀ a0, Laws.Fits.Statement (.portDrained a0) := fun _ => Laws.Fits.none rfl
theorem Laws.Fits.drainTimeout : ∀ a0, Laws.Fits.Statement (.drainTimeout a0) := fun _ => Laws.Fits.none rfl
theorem Laws.Fits.portGoDark : ∀ a0, Laws.Fits.Statement (.portGoDark a0) := fun _ => Laws.Fits.none rfl
theorem Laws.Fits.darkusExpiry : ∀ a0, Laws.Fits.Statement (.darkusExpiry a0) := fun _ => Laws.Fits.none rfl
theorem Laws.Fits.lanesTrained : ∀ a0, Laws.Fits.Statement (.lanesTrained a0) := fun _ => Laws.Fits.none rfl
theorem Laws.Fits.trainingTimeout : ∀ a0, Laws.Fits.Statement (.trainingTimeout a0) := fun _ => Laws.Fits.none rfl
theorem Laws.Fits.identityFlit : ∀ a0 a1 a2 a3, Laws.Fits.Statement (.identityFlit a0 a1 a2 a3) := fun _ _ _ _ => Laws.Fits.none rfl
theorem Laws.Fits.verifyTimeout : ∀ a0, Laws.Fits.Statement (.verifyTimeout a0) := fun _ => Laws.Fits.none rfl
theorem Laws.Fits.linkErrorBudgetExceeded : ∀ a0, Laws.Fits.Statement (.linkErrorBudgetExceeded a0) := fun _ => Laws.Fits.none rfl
theorem Laws.Fits.flitReplay : Laws.Fits.Statement .flitReplay := Laws.Fits.none rfl
theorem Laws.Fits.timeSyncExchange : ∀ a0 a1 a2 a3 a4, Laws.Fits.Statement (.timeSyncExchange a0 a1 a2 a3 a4) := fun _ _ _ _ _ => Laws.Fits.none rfl
theorem Laws.Fits.timeHold : Laws.Fits.Statement .timeHold := Laws.Fits.none rfl
theorem Laws.Fits.bar2Access : ∀ a0 a1 a2 a3 a4, Laws.Fits.Statement (.bar2Access a0 a1 a2 a3 a4) := fun _ _ _ _ _ => Laws.Fits.none rfl
theorem Laws.Fits.functionLevelReset : ∀ a0, Laws.Fits.Statement (.functionLevelReset a0) := fun _ => Laws.Fits.none rfl
theorem Laws.Fits.powerOn : ∀ a0 a1 a2 a3 a4, Laws.Fits.Statement (.powerOn a0 a1 a2 a3 a4) := fun _ _ _ _ _ => Laws.Fits.none rfl
theorem Laws.Fits.mext : ∀ a0, Laws.Fits.Statement (.mext a0) := fun _ => Laws.Fits.none rfl
theorem Laws.Fits.attcmdGo : Laws.Fits.Statement .attcmdGo := Laws.Fits.none rfl
theorem Laws.Fits.attestationReportDone : Laws.Fits.Statement .attestationReportDone := Laws.Fits.none rfl
theorem Laws.Fits.clockStepDown : ∀ a0, Laws.Fits.Statement (.clockStepDown a0) := fun _ => Laws.Fits.none rfl
theorem Laws.Fits.clockStepUp : Laws.Fits.Statement .clockStepUp := Laws.Fits.none rfl
theorem Laws.Fits.thermalFence : Laws.Fits.Statement .thermalFence := Laws.Fits.none rfl
theorem Laws.Fits.correctedError : Laws.Fits.Statement .correctedError := Laws.Fits.none rfl
theorem Laws.Fits.stackReadmission : ∀ a0, Laws.Fits.Statement (.stackReadmission a0) := fun _ => Laws.Fits.none rfl
theorem Laws.Fits.admissionComplete : ∀ a0 a1, Laws.Fits.Statement (.admissionComplete a0 a1) := fun _ _ => Laws.Fits.none rfl
theorem Laws.Fits.unassignedOpcode : Laws.Fits.Statement .unassignedOpcode := Laws.Fits.none rfl
theorem Laws.Fits.emptyBundle : Laws.Fits.Statement .emptyBundle := Laws.Fits.none rfl
theorem Laws.Fits.unassignedManagementOpcode : Laws.Fits.Statement .unassignedManagementOpcode := Laws.Fits.none rfl

end Sys2Proof
end

