-- ==== Sys2Proof/Tests/Slice0.lean ====
section
/-! SUPPORT. Tests: ill-formed instructions are refused; words of the spec decode; and, for every statement with
hypotheses, a state and operands that meet them. -/
namespace Sys2Proof.Tests
open Sys2Proof.Machine Sys2Proof.Claims
set_option Elab.async false
/-! States for the witnesses. -/

/-- The reset state with a change of die 0. -/
def onDie (f : Die → Die) : State := State.reset.put (f State.reset.here)

/-- A stream that runs on die 0. -/
def streaming : State := onDie fun d => { d with ctl.run := .running }

/-- The same, in K with a trap taken. -/
def inKernel : State := streaming.mod fun d => d.enterTrap 0 ⟨0x17, 0#64, 0#64⟩ 4#10 0

/-- `s4` of a stream. -/
def withS4 (v : Word) : State := onDie fun d => { d with regs.s := [(4, v)] }

def two : SArgs := ⟨0#5, false, 5#6, .reg 3#6, .reg 4#6⟩
def one : SOne := ⟨0#5, false, 5#6, .reg 4#6⟩
def priv : SPriv := ⟨0#5, .reg 3#6, .reg 4#6⟩
def sink : SSink := ⟨0#5, .reg 3#6⟩

theorem wit_IntegerResults :
    (∃ i x lat f, integerRule i = some (x, lat, f) ∧ State.reset.here.executes x.p = true) ∧
    (∃ i x zero f, divisionRule i = some (x, zero, f) ∧ State.reset.here.executes x.p = true ∧
      State.reset.here.src x.b = 0#64) ∧
    (∃ i x zero f, divisionRule i = some (x, zero, f) ∧ (withS4 1#64).here.executes x.p = true ∧
      (withS4 1#64).here.src x.b ≠ 0#64) :=
  ⟨⟨.add two, two, 1, _, rfl, by decide⟩, ⟨.div two, two, _, _, rfl, by decide, by decide⟩,
    ⟨.div two, two, _, _, rfl, by decide, by decide⟩⟩

theorem wit_BitAndFieldResults :
    (∃ i x f, bitRule i = some (x, f) ∧ State.reset.here.executes x.p = true) ∧
    State.reset.here.executes two.p = true ∧ State.reset.here.iss.wait = false :=
  ⟨⟨.popc one, one, _, rfl, by decide⟩, by decide, rfl⟩

theorem wit_PredicateResults :
    State.reset.here.executes 0#5 = true ∧
    (∃ i x f, predicateRule i = some (x, f) ∧ State.reset.here.executes x.p = true) :=
  ⟨by decide, .pand ⟨0#5, 8#4, false, 9#4, false, 0#4⟩, _, _, rfl, by decide⟩

theorem wit_FloatResults : ∃ i x f, floatRule i = some (x, f) ∧ State.reset.here.executes x.p = true :=
  ⟨.fadd two, two, _, rfl, by decide⟩

theorem wit_NopsLeaveTheState :
    nopRule (.snop 0#5) = some 0#5 ∧ State.reset.here.executes 0#5 = true ∧ State.reset.here.handler = false ∧
    nopRule (.mnop 0#5) = some 0#5 ∧ inKernel.here.executes 0#5 = true ∧ inKernel.here.handler = true :=
  ⟨rfl, by decide, rfl, rfl, by decide, rfl⟩

theorem wit_SpecialRegisterAndTableResults :
    State.reset.here.executes 0#5 = true ∧ srdFate State.reset.here.inK 0 = none ∧
    swrFate State.reset.here.inK 0x100 = none ∧ srdFate inKernel.here.inK 0x802 = none := by decide

/-- Die 0 with set 0 bound and ready to arm on port `j0`. -/
def bound0 : State := onDie fun d => { d with tab.ag := [(2, 8#32)] }

/-- The same with its port taken by another set, with a misaligned base, and bound to an output port with `WEIGHT`. -/
def bound0Taken : State := bound0.mod fun d =>
  { d with tab.inp := [(0, some ⟨true, false, 1, 0, false, [1, 1, 1, 1], [0, 0, 0, 0], 0, 0, 0, []⟩)] }
def bound0Odd : State := onDie fun d => { d with tab.ag := [(0, 1#32), (2, 8#32)] }
def bound0Out : State := onDie fun d => { d with tab.ag := [(1, 1#32), (2, 12#32)] }

theorem wit_GeneratorAndFlagWrites_arming :
    bound0Taken.here.portTaken 0 (bound0Taken.here.agPort 0) = true ∧
    ((bound0Odd.here.agField 0 2).getLsbD 3 = true ∧ bound0Odd.here.agPort 0 < 4 ∧
      bound0Odd.here.portTaken 0 (bound0Odd.here.agPort 0) = false ∧ bound0Odd.here.agMisaligned 0 = some 1) ∧
    4 ≤ bound0Out.here.agPort 0 ∧ (bound0Out.here.agField 0 1).getLsbD 0 = true := by decide

theorem wit_GeneratorAndFlagWrites :
    bound0.here.executes 0#5 = true ∧ (bound0.here.agField 0 2).getLsbD 3 = true ∧ bound0.here.agPort 0 < 6 ∧
    ¬ 4 ≤ bound0.here.agPort 0 ∧ bound0.here.portTaken 0 (bound0.here.agPort 0) = false ∧
    bound0.here.agMisaligned 0 = none ∧ (State.reset.here.agField 0 2).getLsbD 3 = false ∧
    List.all [(0, Later.flagSet 1#32), (1, .flagClear 2#32)] flagWrite = true := by decide

/-- K with `s3` naming the socket register of die 1, and `s4` a command. -/
def commanding (v : Word) : State := inKernel.mod fun d => { d with regs.s := [(3, 1#64), (4, v)] }

theorem wit_ControlSpaceRequests :
    (commanding 1#64).here.inK = true ∧ (commanding 1#64).here.executes 0#5 = true ∧
    (objOf ((commanding 1#64).here.src (.reg 3#6)).toNat).isSome = true ∧ (commanding 1#64).here.landingFull = false ∧
    controlWrite (.kwrDiestateFence priv) = some priv ∧
    commandOk 0 ((commanding 1#64).here.src priv.a) ((commanding 1#64).here.src priv.b) = true ∧
    commandOk 0 ((commanding 4#64).here.src priv.a) ((commanding 4#64).here.src priv.b) = false := by decide

theorem wit_PrivilegedOpcodesTrapInUser :
    privilegedRule State.reset (.eret 0#5) = some (0#5, false) ∧
    privilegedRule State.reset (.kstopDesched 0#5 0#16) = some (0#5, true) ∧ State.reset.here.executes 0#5 = true ∧
    State.reset.here.iss.wait = false ∧ State.reset.here.inK = false ∧ State.reset.here.handler = false := by decide

theorem wit_TrapEntry : State.reset.here.handler = false := rfl

theorem wit_TrapReturn : ∃ x, inKernel.here.ctl.snapshot = some x ∧ inKernel.here.pipe.due = [] ∧
    inKernel.here.pipe.landings = [] := ⟨_, rfl, rfl, rfl⟩

theorem wit_SoftwareTrapsAndReturns :
    (State.reset.here.iss.wait = false ∧ State.reset.here.executes 0#5 = true ∧ State.reset.here.iss.shared = false ∧
      State.reset.here.handler = false) ∧
    Proceeds inKernel 0#5 ∧ inKernel.here.handler = true ∧ inKernel.here.inK = true :=
  ⟨by decide, ⟨rfl, rfl, by decide⟩, rfl, rfl⟩

/-- Die 0 with a transaction of its kernel. -/
def inTransaction : State := streaming.modPkg fun p => { p with
  garnet := { p.garnet with txns := [⟨5#64, 0, 0, 0, 1, 0, 0, false, 0, false⟩] } }

theorem wit_StreamEnds :
    (State.reset.here.iss.wait = false ∧ State.reset.here.executes 0#5 = true ∧ State.reset.outstanding = false ∧
      State.reset.pkg.garnet.txns = [] ∧ State.reset.pkg.faults = [] ∧ State.reset.pkg.badStacks = [] ∧
      State.reset.releaseWaits 5 = false ∧ State.reset.here.ctl.dataErr = none ∧ State.reset.here.ctl.refused = none ∧
      ∃ u, mayRelease 5 true ((State.reset.quitFlight 0).quitBarriers 0) = some u) ∧
    (let v := inTransaction.quitFlight 0
     inTransaction.outstanding = false ∧ (v.pkg.garnet.txnAt v.cur v.here.sr.kernid.toNat).isSome = true ∧
      ∃ w, mayRelease 2 false v = some w ∧ ∃ u, mayRelease 5 true ((locksQuit w).quitBarriers (locksQuit w).cur) = some u) ∧
    (inKernel.here.iss.wait = false ∧ inKernel.here.inK = true ∧ inKernel.here.executes 0#5 = true ∧
      inKernel.here.ctl.run ≠ .idle) ∧
    (inKernel.mod fun d => { d with sr.kstat := 64#8 }).here.sr.kstat.getLsbD 6 = true :=
  ⟨⟨rfl, by decide, by decide, rfl, rfl, rfl, by decide, rfl, rfl, Option.isSome_iff_exists.mp (by decide)⟩,
    ⟨by decide, by decide, _, rfl, Option.isSome_iff_exists.mp (by decide)⟩, ⟨rfl, rfl, by decide, by decide⟩, by decide⟩

theorem wit_TransferResults :
    Proceeds State.reset 0#5 ∧ reaches State.reset (0x7FFF#21).toInt ∧ ¬ reaches State.reset (0x8000#21).toInt ∧
    reaches State.reset (0#15).toInt ∧ ¬ reaches State.reset (0x7FFF#15).toInt ∧ State.reset.here.handler = false ∧
    decide (16384 ≤ (0x4000#15).toNat) ≠ State.reset.here.ctl.bank ∧
    decide (16384 ≤ (0x3FFF#15).toNat) = State.reset.here.ctl.bank :=
  ⟨⟨rfl, rfl, by decide⟩, ⟨by decide, by decide⟩, fun h => absurd h.2 (by decide), ⟨by decide, by decide⟩,
    fun h => absurd h.1 (by decide), rfl, by decide, by decide⟩

theorem wit_TransfersTakeEffect :
    (∃ (d : Die) (x : Transfer), d.ctl.transfer = some x ∧ x.left = 3 ∧ d.ctl.loops = []) ∧
    (∀ n : Nat, ∃ (d : Die) (l : Loop), d.ctl.loops = [l] ∧ d.handler = false ∧ d.ctl.transfer = none ∧
      l.table = false ∧ l.last = d.ctl.pc ∧ l.remain = n) :=
  ⟨⟨{ Die.cold with ctl.transfer := some ⟨7, 3, false⟩ }, _, rfl, rfl, rfl⟩,
    fun n => ⟨{ Die.cold with ctl.loops := [⟨false, 0, 0, n, 0, 1, 0⟩] }, _, rfl, rfl, rfl, rfl, rfl, rfl⟩⟩

/-- A table of one entry at offset 0 of a scratchpad of one bank. -/
def tabled : State := onDie fun d => { d with sr.spsize := 0x100000#26, arr.sp := [(0, 1#8)] }

theorem wit_LoopEntry :
    (Proceeds (withS4 3#64) 0#5 ∧ (withS4 3#64).here.handler = false ∧ 6 / 16384 = 0 / 16384 ∧
      (withS4 3#64).here.readS 4#6 = 3#64 ∧ (withS4 3#64).here.ctl.loops.length < 4) ∧
    ((withS4 0#64).here.readS 4#6).toNat = 0 ∧
    State.reset.here.tableCount 0 = 0 ∧ tabled.here.tableCount 0 ≠ 0 ∧ (tabled.here.noteOob 0 8).tableCount 0 ≠ 0 :=
  ⟨⟨⟨rfl, rfl, by decide⟩, rfl, rfl, rfl, by decide⟩, rfl, by decide, by decide, by decide⟩

/-- A wait bundle with no flag set, and with `f0` set. -/
def inWait (f : BitVec 32) : State := onDie fun d => { d with iss.wait := true, sr.flg := f }

theorem wit_WaitResults :
    ((inWait 1#32).here.iss.wait = true ∧ ∃ i < 32, (BitVec.ofNat 32 ((inWait 1#32).here.readS 4#6).toNat |||
        BitVec.ofNat 32 (2 ^ (0#5).toNat)).getLsbD i = true ∧ (inWait 1#32).here.sr.flg.getLsbD i = true) ∧
    (¬ ∃ i < 32, (BitVec.ofNat 32 ((inWait 0#32).here.readS 4#6).toNat |||
        BitVec.ofNat 32 (2 ^ (0#5).toNat)).getLsbD i = true ∧ (inWait 0#32).here.sr.flg.getLsbD i = true) ∧
    (State.reset.here.predicate 0#5 = true ∧ State.reset.here.ctl.sleep = .none) ∧
    ({ State.reset.here with ctl.sleep := .monitor 0 } : Die).sleepOver = true ∧
    ({ (withS4 5#64).here with ctl.sleep := .monitor 5, sr.monstat := 1#3 } : Die).sleepOver = false ∧
    (State.reset.here.iss.wait = false ∧ State.reset.here.executes 0#5 = true ∧
      ∀ x ∈ State.reset.here.arr.ibOld, x.seen = true) :=
  ⟨⟨rfl, by decide⟩, by decide, ⟨by decide, rfl⟩, by decide, by decide, rfl, by decide, fun _ h => nomatch h⟩

/-! Page tables for one page of 1 GiB of host memory, at address 0 (R385, R386). -/

/-- K on die 0, the partition's first GiB mapped to host memory, the translation entered in both TLBs; one load is not
yet translated. -/
def mapped : State :=
  let e : TlbEntry := ⟨0, 0, 6, ⟨0, true, false, false, true⟩⟩
  (inKernel.mod fun d => { d with ctl.released := true }).modPkg fun p => { p with
    mem := [(0x1000, 1), (0x1001, 0x20), (0x2000, 1), (0x2001, 0x30), (0x3000, 0x47), (0x3001, 6)]
    regs.ptroot := [(0, 0x1001#64)]
    tlb := [(0, [e]), (16, [e])]
    reqs := [⟨1, 0, 0, 0, 0, .load, 64, 8, .issued, none, 5#64, 6#64, 0, 2, 0, none, .waiting, none⟩] }

theorem walk_mapped (va : Nat) (h : va < 2 ^ 30) :
    mapped.walk 0 va = .ok (⟨va, true, false, false, true⟩, 6) := by
  have h4 : bitsAt va 48 9 = 0 := by unfold bitsAt; omega
  have h3 : bitsAt va 39 9 = 0 := by unfold bitsAt; omega
  have h2 : bitsAt va 30 9 = 0 := by unfold bitsAt; omega
  have hr : ¬ ((va : Int) < 0 ∨ 2 ^ 57 ≤ (va : Int)) := by omega
  have e4 : mapped.pte 0x1000 0 = 0x2001 := by decide
  have e3 : mapped.pte 0x2000 0 = 0x3001 := by decide
  have e2 : mapped.pte 0x3000 0 = 0x647 := by decide
  have b (l : Nat) : mapped.pkg.lineBad l = false := by
    have h1 : mapped.pkg.lost = [] := rfl
    have h2 : mapped.pkg.badStacks = [] := rfl
    unfold Pkg.lineBad; rw [h1, h2]; simp [Store.get]
  have hg : groupOk mapped 0x3000 0 6 = true := by decide
  have root : (Store.get 0#64 mapped.pkg.regs.ptroot 0).toNat = 0x1001 := by decide
  have hl : leafOf mapped 0x3000 0 2 va = .ok (⟨va, true, false, false, true⟩, 6) := by
    have hm : va % 1073741824 = va := Nat.mod_eq_of_lt (by omega)
    have hb : mapped.pkg.lineBad (lineOf false 0x3000) = false := b _
    simp [leafOf, e2, pteSize, bitsAt, pageLevel, hg, pageGroup, pageBytes, ptePa, hm, hb]
  unfold State.walk
  rw [if_neg hr]
  simp only [root]
  rw [if_neg (by decide)]
  simp [walkFrom, bitsAt, b, pteValid, pteReserved, pteLeaf, ptePa] at h4 h3 h2 ⊢
  simp [h4, h3, h2, e4, e3, e2, hl]

theorem translate_mapped (va : Nat) (w : Bool) (h : va < 2 ^ 30) :
    mapped.translate 0 0 va w = (.ok ⟨va, true, false, false, true⟩, mapped) := by
  have t0 : mapped.pkg.tlbOf 0 = [⟨0, 0, 6, ⟨0, true, false, false, true⟩⟩] := by decide
  have t1 : mapped.pkg.tlbOf 16 = [⟨0, 0, 6, ⟨0, true, false, false, true⟩⟩] := by decide
  have hm : va % 1073741824 = va := Nat.mod_eq_of_lt (by omega)
  have hd : va / 1073741824 = 0 := by omega
  have hn : ¬ ((va : Int) < 0) := by omega
  simp [State.translate, walk_mapped va h, t0, t1, tlbFind, pageBytes, hm, hd, hn, Except.toOption]

theorem pages_mapped (w : Bool) (n : Nat) : ∀ va : Nat, va + 4096 * n ≤ 2 ^ 30 →
    ∃ l, translatePages w n va mapped = (.ok l, mapped) := by
  induction n with
  | zero => exact fun _ _ => ⟨[], rfl⟩
  | succ n ih =>
    intro va h
    obtain ⟨l, hl⟩ := ih (va + 4096) (by omega)
    refine ⟨(true, va) :: l, ?_⟩
    have hc : mapped.cur = 0 := rfl
    have hp : mapped.here.sr.partid.toNat = 0 := by decide
    have hv : ((va : Int) + 4096) = ((va + 4096 : Nat) : Int) := by push_cast; rfl
    rw [translatePages, hc, hp, translate_mapped va w (by omega)]
    simp only [hv, hl]
    rfl

theorem wit_ContextSavedAndRestored (w : Bool) : mapped.here.inK = true ∧ mapped.here.executes 0#5 = true ∧
    (mapped.here.src (.reg 3#6)).toNat % 4096 = 0 ∧ mayRelease 2 false (readDone mapped [.reg 3#6]) = some mapped ∧
    contextReq mapped = none ∧ mapped.here.landingsIn = true ∧
    ∃ l, translatePages w ctxPages (bitsAt (mapped.here.src (.reg 3#6)).toNat 0 57) mapped = (.ok l, mapped) :=
  ⟨by decide, by decide, by decide, by decide, by decide, by decide, pages_mapped w ctxPages 0 (by decide)⟩

/-- K with `s3` and `s4` given. -/
def kernelWith (a b : Word) : State := inKernel.mod fun d => { d with regs.s := [(3, a), (4, b)] }

theorem wit_TablesOfTheKernelLevel :
    (inKernel.here.inK = true ∧ inKernel.here.executes 0#5 = true) ∧
    (matrixOk ((kernelWith 0x01010101010101FF#64 0#64).here.src (.reg 3#6)) = true ∧
      matrixOk ((kernelWith 0#64 0#64).here.src (.reg 3#6)) = false) ∧
    (routeOk inKernel.pkg.regs.rtact 0x401 0x80 = true ∧ routeOk inKernel.pkg.regs.rtact 0x1301 0x97 = true ∧
      routeOk inKernel.pkg.regs.rtact 0x1401 0x97 = false ∧ routeOk inKernel.pkg.regs.rtact 0x400 0x80 = false) ∧
    (inKernel.pkg.regs.swaplk = false ∧
      (inKernel.modPkg fun p => { p with regs.swaplk := true }).pkg.regs.swaplk = true) ∧
    inKernel.pkg.inbound = [] ∧ inKernel.pkg.windowQ = [] ∧
    ∃ u, mayRelease 2 false (readDone inKernel [.reg 3#6, .reg 4#6]) = some u :=
  ⟨by decide, by decide, by decide, by decide, rfl, rfl, Option.isSome_iff_exists.mp (by decide)⟩

/-! Memory instructions. -/

def access : LMem := ⟨0#5, false, 5#6, 4#6, 0#6, 3#2, 1#7, false⟩
def strong : LStrong := ⟨0#5, false, 9#6, 4#6, 0#4, 0#6, false, 3#2, 2#3, 0#2, false⟩
def strongRel : LStrong := { strong with order := 2#2 }
def eng : LEng := ⟨0#5, 4#6, 5#6, 6#6, 3#5, 0#5⟩
def lock : LLock := ⟨0#5, 4#6, 6#6, 3#5, 0#3⟩

/-- A stream whose landing buffer is full. -/
def fullLandings : State :=
  onDie fun d => { d with pipe.landings := List.replicate 32 ⟨0, 8, 0, .none, false, 5, .waiting, false⟩ }

theorem wit_MemoryRequests :
    (loadRule (.ld access) = some (access, .load) ∧ State.reset.here.executes access.p = true ∧
      memAddress State.reset access % (2 ^ access.size.toNat : Nat) = 0 ∧ State.reset.here.pipe.landings.length < 32) ∧
    (fullLandings.here.executes access.p = true ∧ memAddress fullLandings access % (2 ^ access.size.toNat : Nat) = 0 ∧
      32 ≤ fullLandings.here.pipe.landings.length) :=
  ⟨⟨rfl, by decide, by decide, by decide⟩, by decide, by decide, by decide⟩

def scratch (sp : Bool) : LSp := ⟨0#5, false, 5#6, 4#6, 0#12, 1#2, sp⟩
def whole (sp : Bool) : LVec := ⟨0#5, false, 5#6, 4#6, 0#14, sp⟩

theorem wit_MemoryAccessTraps :
    ((withS4 7#64).here.executes 0#5 = true ∧ (withS4 7#64).here.handler = false) ∧
    memAddress (withS4 7#64) access % (2 ^ access.size.toNat : Nat) ≠ 0 ∧
    ((scratch false).sp = false ∧ spAddress (withS4 7#64) (scratch false) % (2 ^ (scratch false).size.toNat : Nat) ≠ 0) ∧
    (scratch true).sp = true ∧ (whole true).sp = true := by decide

/-- A gather under the mask `k1`. -/
def gather : LIdx := ⟨0#5, false, 5#6, 4#6, 6#6, 2#2, 1#3, false⟩

/-- `s4` aligned for an engine, `s6` not, and lane 0 of `k1` set. -/
def withStatus : State := onDie fun d => { d with regs.s := [(4, 64), (6, 7)] }
def withLane : State := onDie fun d => { d with regs.s := [(4, 7)], regs.k := [(1, 1#512)] }

theorem wit_MemoryAccessTraps_more :
    ((whole false).sp = false ∧ vecAddress (withS4 7#64) (whole false) % 64 ≠ 0) ∧
    (gather.sp = false ∧ ∃ e, (withLane.here.lanes gather).find? (fun l : Nat × Int => decide (l.2 % (2 ^ gather.size.toNat : Nat) ≠ 0)) = some e) ∧
    (strongAlignment (.atom strong) = some (strong, 8) ∧ strongAddress (withS4 7#64) strong % ((8 : Nat) : Int) ≠ 0) ∧
    (engineRule (withS4 7#64) (.take eng) = some (eng, 64, .take 0 7) ∧ ((withS4 7#64).here.readS eng.a).toNat % 64 ≠ 0) ∧
    (engineRule withStatus (.take eng) = some (eng, 64, .take 0 64) ∧ (withStatus.here.readS eng.a).toNat % 64 = 0 ∧
      ¬ statusAligned withStatus eng.s 8) ∧
    (lockRule (.lkacq lock) = some (lock, 1) ∧ ¬ statusAligned withStatus lock.s 32) ∧
    ((withS4 7#64).here.readS 4#6).toNat % 128 ≠ 0 ∧ ((withS4 7#64).here.readS 4#6).toNat % 64 ≠ 0 ∧
    withStatus.here.executes 0#5 = true ∧ withStatus.here.handler = false ∧
    withLane.here.executes 0#5 = true ∧ withLane.here.handler = false := by
  refine ⟨by decide, ⟨rfl, Option.isSome_iff_exists.mp ?_⟩, by decide, by decide, ⟨rfl, by decide, by unfold statusAligned; decide⟩,
    ⟨rfl, by unfold statusAligned; decide⟩, by decide, by decide, by decide, by decide, by decide, by decide⟩
  decide +kernel

theorem wit_ScratchpadResults :
    (State.reset.here.executes 0#5 = true ∧ spAddress State.reset (scratch false) % (2 ^ (scratch false).size.toNat : Nat) = 0 ∧
      (scratch false).sp = false) ∧
    (withS4 64#64).here.executes 0#5 = true ∧ vecAddress (withS4 64#64) (whole false) % 64 = 0 := by decide

theorem wit_GatherAndScatter : State.reset.here.executes gather.p = true ∧
    (∀ e ∈ State.reset.here.lanes gather, e.2 % ((2 ^ gather.size.toNat : Nat) : Int) = 0) ∧ gather.sp = false := by
  refine ⟨by decide, ?_, rfl⟩
  have hr : State.reset.here.regs.k = [] := rfl
  have hk : State.reset.here.readK gather.k = 0#512 := by simp [Die.readK, gather, hr, Store.get]
  intro e he
  simp [Die.lanes, hk] at he

theorem wit_StrongRequests :
    (strongRule (.atom strong) = some (strong, .atom, 8, 8) ∧ State.reset.here.executes strong.p = true ∧
      strongAddress State.reset strong % ((8 : Nat) : Int) = 0 ∧ State.reset.here.pipe.landings.length < 32 ∧
      orderedState strong State.reset = some State.reset) ∧
    (∃ u, orderedState strongRel State.reset = some u) ∧
    strongAddress State.reset strong % (2 ^ strong.size.toNat : Nat) = 0 :=
  ⟨⟨rfl, by decide, by decide, by decide, rfl⟩, Option.isSome_iff_exists.mp (by decide), by decide⟩

/-- Die 0 waits for the reply of an `ATOM`, or for the acknowledgement of a store, of an earlier bundle. -/
def later (s : State) : State := s.setIss fun c => { c with first := s.pkg.nextId }
def awaited : State := later (streaming.sendReq .atom 0 8 0#64 0#64 0 2 0 none).2
def storing : State := later (streaming.sendReq .store 0 8 0#64 0#64 0 0 0 none).2

theorem wit_FencesAndMonitors :
    State.reset.here.executes 0#5 = true ∧
    State.reset.pkg.strongReadsOut State.reset.cur State.reset.here.iss.first = false ∧
    (∃ u, mayRelease 2 true State.reset = some u) ∧
    awaited.here.executes 0#5 = true ∧ awaited.pkg.strongReadsOut awaited.cur awaited.here.iss.first = true ∧
    MustWait 2 awaited ∧ MustWait 2 storing ∧ storing.pkg.strongReadsOut storing.cur storing.here.iss.first = false :=
  ⟨by decide, by decide, Option.isSome_iff_exists.mp (by decide), by decide, by decide,
    by unfold MustWait; decide, by unfold MustWait; decide, by decide⟩

theorem wit_EngineOperationsAreSent :
    (∃ x n job, engineRule State.reset (.take eng) = some (x, n, job) ∧ State.reset.here.executes x.p = true ∧
      (n = 1 ∨ (State.reset.here.readS x.a).toNat % n = 0) ∧ statusAligned State.reset x.s 8) ∧
    (lockRule (.lkacq lock) = some (lock, 1) ∧ State.reset.here.executes lock.p = true ∧ statusAligned State.reset lock.s 32) ∧
    (State.reset.here.readS 4#6).toNat % 128 = 0 ∧ State.reset.here.handler = false ∧
    (State.reset.here.readS 4#6).toNat % 64 = 0 :=
  ⟨⟨_, _, _, rfl, by decide, by decide, .inr (by decide)⟩, ⟨rfl, by decide, .inr (by decide)⟩, by decide, rfl, by decide⟩

/-! Vectors. -/

def vec : VArgs := ⟨0#5, 0#3, false, 5#6, .reg 3#6, .reg 4#6, .f32⟩
def vecOne : VOne := ⟨0#5, 0#3, false, 5#6, .reg 3#6, .f32⟩
def vecInt : VOne := { vecOne with ty := .i32 }

/-- Die 0 with port `j0` armed over one vector, which is present. -/
def fed : State := streaming.mod fun d =>
  { d with tab.inp := [(0, some ⟨true, false, 0, 0, false, [1, 1, 1, 1], [0, 0, 0, 0], 1, 0, 0, [(0, 0#16384)]⟩)] }

/-- Die 0 with port `y0` armed over one address. -/
def outArmed : State := streaming.mod fun d =>
  { d with tab.outp := [(0, some ⟨true, false, 0, 0, [1, 1, 1, 1], [0, 0, 0, 0], 0, 1⟩)] }

theorem wit_LaneResults :
    (∃ i x lat f t a b, laneRule i = some (x, lat, f) ∧ State.reset.here.executes x.p = true ∧
      vecOperands x.ty State.reset x.a x.b = some (a, b, t)) ∧
    (∃ i x lat f t a, laneRuleOne i = some (x, lat, f) ∧ fed.here.executes x.p = true ∧
      vecOperand x.ty fed x.a = some (a, t)) ∧
    (∃ i x neg f t a b, fusedRule i = some (x, neg) ∧ vFmt x.ty = some f ∧ State.reset.here.executes x.p = true ∧
      vecOperands x.ty State.reset x.a x.b = some (a, b, t)) := by
  refine ⟨⟨.vadd vec, vec, 2, _, _, _, _, rfl, by decide, rfl⟩, ?_, .vfms vec, vec, true, _, _, _, _, rfl, rfl, by decide, rfl⟩
  have hp : (vecOperand .f32 fed (.port 0#2)).isSome = true := by decide
  obtain ⟨⟨a, t⟩, h⟩ := Option.isSome_iff_exists.mp hp
  exact ⟨.vneg { vecOne with a := .port 0#2 }, _, _, _, t, a, rfl, by decide, h⟩

theorem wit_VectorArrangement :
    (State.reset.here.executes 0#5 = true ∧ ∃ a b t, vecOperands .f32 State.reset (.reg 3#6) (.latch 2#3) = some (a, b, t)) ∧
    (∃ a t, vecOperand .f32 State.reset (.reg 3#6) = some (a, t)) ∧
    (∃ i x f, maskRule i = some (x, f) ∧ State.reset.here.executes x.p = true) ∧
    ∃ o, OutReady outArmed.here 0 2 o :=
  ⟨⟨by decide, _, _, _, rfl⟩, ⟨_, _, rfl⟩, ⟨.kand ⟨0#5, false, 1#6, 2#3, 3#3⟩, _, _, rfl, by decide⟩,
    ⟨true, false, 0, 0, [1, 1, 1, 1], [0, 0, 0, 0], 0, 1⟩, by decide, by decide, rfl, rfl, by decide, by decide⟩

theorem wit_ReductionResults :
    (∃ i x fop fid iop iid a t, reductionRule i = some (x, fop, fid, iop, iid) ∧ State.reset.here.executes x.p = true ∧
      vecOperand x.ty State.reset x.a = some (a, t) ∧ vFmt x.ty = some .f32) ∧
    (∃ i x fop fid iop iid a t, reductionRule i = some (x, fop, fid, iop, iid) ∧ State.reset.here.executes x.p = true ∧
      vecOperand x.ty State.reset x.a = some (a, t) ∧ vFmt x.ty = none) :=
  ⟨⟨.vrsum vecOne, vecOne, _, _, _, _, _, _, rfl, by decide, rfl, rfl⟩,
    .vrsum vecInt, vecInt, _, _, _, _, _, _, rfl, by decide, rfl, rfl⟩

theorem wit_VectorConversions :
    State.reset.here.executes 0#5 = true ∧ VType.isPack .i16 = true ∧ VType.isUnpack .i8 = true ∧
    (∃ a t, vecOperand (vcvtSource 0) State.reset (.reg 3#6) = some (a, t)) ∧
    (∃ a b t, vecOperands (packFrom .i16).1 State.reset (.reg 3#6) (.reg 4#6) = some (a, b, t)) :=
  ⟨by decide, by decide, by decide, ⟨_, _, rfl⟩, _, _, _, rfl⟩

/-! Engine slots. -/

def mat : MArgs := ⟨0#5, false, 1#2, 0#11⟩
def tra (fmt : BitVec 6) : TArgs := ⟨0#5, false, 1#2, 5#6, 4#6, fmt⟩

/-- Die 0 with shape register 1 of `ma` for BF16 rows of a 64-row plane into one accumulator row, at given cursors. -/
def shaped (rowcur pushcur : BitVec 32) : State := streaming.mod fun d => { d with
  iss.slot := .m0
  tab.shape := [(shapeKey 0 1 0 0, 64#32), (shapeKey 0 1 0 1, 8#32), (shapeKey 0 1 0 2, pushcur),
    (shapeKey 0 1 0 3, rowcur), (shapeKey 0 1 0 4, 1#32), (shapeKey 0 1 0 8, 1#32), (shapeKey 0 1 0 9, 1#32),
    (shapeKey 0 1 0 11, 0x100#32), (shapeKey 0 1 0 12, 0x100#32)] }

theorem wit_MatrixPushResults :
    MatrixReady (shaped 0#32 0#32) mat ∧ MatrixReady (shaped 1#32 64#32) mat ∧
    (shapeOf (shaped 0#32 0#32) mat).rowcur < (shapeOf (shaped 0#32 0#32) mat).rowlim ∧
    (shapeOf (shaped 1#32 64#32) mat).rowlim ≤ (shapeOf (shaped 1#32 64#32) mat).rowcur ∧
    (shapeOf (shaped 0#32 0#32) mat).mode = some .bf16 ∧
    (swapped (shaped 0#32 0#32) mat).here.scaleTensorOk .bf16 (shapeOf (shaped 0#32 0#32) mat).wsct = true ∧
    (shapeOf (shaped 0#32 0#32) mat).pushcur < (shapeOf (shaped 0#32 0#32) mat).planeRows .bf16 ∧
    (shapeOf (shaped 1#32 64#32) mat).planeRows .bf16 ≤ (shapeOf (shaped 1#32 64#32) mat).pushcur ∧
    (shapeOf (shaped 0#32 0#32) mat).wsaddr % 64 = 0 ∧
    wsRefreshing 64 (shapeOf (shaped 0#32 0#32) mat).wsaddr 512 = false ∧
    ∃ v t, matOperand (swapped (shaped 0#32 0#32) mat) (.reg 4#6) = some (v, t) :=
  ⟨⟨by decide, rfl, rfl⟩, ⟨by decide, rfl, rfl⟩, by decide, by decide, by decide, by decide, by decide, by decide, by decide,
    by decide, _, _, rfl⟩

/-- The same with port `j0` fed and port `y0` armed. -/
def shapedPorts (rowcur : BitVec 32) : State := (shaped rowcur 0#32).mod fun d =>
  { d with tab.inp := fed.here.tab.inp, tab.outp := outArmed.here.tab.outp }

/-- A masked beat whose source is a port. -/
theorem wit_MatrixBeatResults_masked : MatrixReady (shapedPorts 1#32) mat ∧
    (shapeOf (shapedPorts 1#32) mat).mode = some .bf16 ∧
    (swapped (shapedPorts 1#32) mat).here.scaleTensorOk .bf16 (shapeOf (shapedPorts 1#32) mat).asct = true ∧
    (shapeOf (shapedPorts 1#32) mat).rowlim ≤ (shapeOf (shapedPorts 1#32) mat).rowcur ∧
    (∃ v t, matOperand (swapped (shapedPorts 1#32) mat) (.port 0#2) = some (v, t)) ∧
    (∃ o, Store.get none (swapped (shapedPorts 1#32) mat).here.tab.outp (0#1).toNat = some o ∧ o.armed = true ∧
      o.drained = false) ∧
    (shapeOf (shapedPorts 0#32) mat).rowcur < (shapeOf (shapedPorts 0#32) mat).rowlim ∧
    ∃ o, OutReady (swapped (shapedPorts 0#32) mat).here 0 8 o := by
  refine ⟨⟨by decide, rfl, rfl⟩, by decide, by decide, by decide, ?_, ⟨_, rfl, rfl, rfl⟩, by decide,
    ⟨true, false, 0, 0, [1, 1, 1, 1], [0, 0, 0, 0], 0, 1⟩, by decide, by decide, rfl, rfl, by decide, by decide⟩
  have hp : (matOperand (swapped (shapedPorts 1#32) mat) (.port 0#2)).isSome = true := by decide
  obtain ⟨⟨v, t⟩, h⟩ := Option.isSome_iff_exists.mp hp
  exact ⟨v, t, h⟩

theorem wit_MatrixBeatResults :
    MatrixReady (shaped 0#32 0#32) mat ∧ MatrixReady (shaped 1#32 0#32) mat ∧
    (shapeOf (shaped 0#32 0#32) mat).mode = some .bf16 ∧
    (swapped (shaped 0#32 0#32) mat).here.scaleTensorOk .bf16 (shapeOf (shaped 0#32 0#32) mat).asct = true ∧
    (∃ v t, matOperand (swapped (shaped 0#32 0#32) mat) (.latch 4#3) = some (v, t)) ∧
    (shapeOf (shaped 0#32 0#32) mat).rowcur < (shapeOf (shaped 0#32 0#32) mat).rowlim ∧
    (shapeOf (shaped 1#32 0#32) mat).rowlim ≤ (shapeOf (shaped 1#32 0#32) mat).rowcur ∧
    (∃ w conv, drainConv (shapeOf (shaped 0#32 0#32) mat).ofmt = some (w, conv)) ∧
    (shapeOf (shaped 0#32 0#32) mat).drctl < 2 ∧
    ∃ o, OutReady outArmed.here 0 8 o :=
  ⟨⟨by decide, rfl, rfl⟩, ⟨by decide, rfl, rfl⟩, by decide, by decide, ⟨_, _, rfl⟩, by decide, by decide, ⟨_, _, rfl⟩,
    by decide, ⟨true, false, 0, 0, [1, 1, 1, 1], [0, 0, 0, 0], 0, 1⟩, by decide, by decide, rfl, rfl, by decide, by decide⟩

/-- Die 0 with shape register 1 of `ta` for blocks of 32 lanes and no scale tensor. -/
def quantising : State := streaming.mod fun d => { d with
  iss.slot := .t
  tab.shape := [(shapeKey 2 1 0 1, 5#32), (shapeKey 2 1 0 2, 32#32), (shapeKey 2 1 0 3, 0x100#32), (shapeKey 2 1 0 4, 16#32)] }

theorem wit_TransformResults :
    TransformReady quantising (tra 0#6) ∧ tField quantising (tra 0#6) 0 = 0 ∧ tField quantising (tra 0#6) 1 = 5 ∧
    tField quantising (tra 0#6) 2 = 32 ∧
    (tSwapped quantising (tra 0#6)).here.quantTensorOk (tField quantising (tra 0#6) 3) = true ∧
    TransformReady State.reset (tra 0#6) ∧ tField State.reset (tra 0#6) 0 = 0 ∧ tField State.reset (tra 0#6) 1 < 3 :=
  ⟨⟨by decide, rfl, rfl⟩, by decide, by decide, by decide, by decide, ⟨by decide, rfl, rfl⟩, by decide, by decide⟩

/-- Die 0 with the low half of a 32-bit block loaded, and an output block of a width. -/
def transposing (part : Option Vec) (wid : Nat) : State := streaming.mod fun d =>
  { d with arr.trans := ⟨part, [], some (wid, 0#32768), false⟩ }

theorem wit_TransposerResults :
    (TransformReady (transposing none 0) (tra 0#6) ∧ (tra 0#6).fmt.toNat % 4 = 0 ∧
      (tSwapped (transposing none 0) (tra 0#6)).here.arr.trans.part = none ∧
      (tSwapped (transposing none 0) (tra 0#6)).here.arr.trans.out = some (0, 0#32768)) ∧
    (TransformReady (transposing (some 0#16384) 0) (tra 0#6) ∧
      (tSwapped (transposing (some 0#16384) 0) (tra 0#6)).here.arr.trans.part = some 0#16384) ∧
    ((tra 1#6).fmt.toNat % 4 = 1 ∧ (tra 1#6).fmt.getLsbD 2 = false ∧ (tra 6#6).fmt.toNat % 4 = 2) ∧
    (tSwapped (transposing none 1) (tra 1#6)).here.arr.trans.out = some (1, 0#32768) ∧
    (tSwapped (transposing none 2) (tra 6#6)).here.arr.trans.out = some (2, 0#32768) :=
  ⟨⟨⟨by decide, rfl, rfl⟩, by decide, rfl, rfl⟩, ⟨⟨by decide, rfl, rfl⟩, rfl⟩, by decide, rfl, rfl⟩

def xargs : XArgs := ⟨0#5, false, 0#2, 0#5, 2#6, 3#5, 1#4, 0#6, false, 0#5⟩

/-- Die 0 in a subcube of one dimension. -/
def paired : State := streaming.mod fun d => { d with iss.slot := .x, sr.ndim := 1#5, sr.present := 1#24 }

theorem wit_ExchangesAreSent :
    exchangeRule (.xcb xargs) = some (xargs, 2, false) ∧ paired.here.executes xargs.p = true ∧
    paired.here.handler = false ∧ paired.here.iss.trap = none ∧ SubcubeAllows (formed paired xargs 2 false) ∧
    (formed paired xargs 2 false).misaligned (autoinc paired xargs) = none :=
  ⟨rfl, by decide, rfl, rfl, ⟨fun _ => by decide, fun h => absurd h (by decide), fun h => absurd h (by decide),
    fun h => absurd h (by decide), fun h => absurd h (by decide)⟩, by decide⟩

/-! Encodings, results, frames. -/

theorem wit_EncodeThenDecode : (Instr.add two).wf = true ∧ (Instr.add two).slotClass = some .s0 ∧
    sharesItsWord (.add two) = false := by decide

theorem wit_DecodeThenEncode : 0x040202E1 < 2 ^ Slot.s0.width ∧
    Slot.s0.decode 0x040202E1 = .ok (.add ⟨0#5, false, 8#6, .reg 5#6, .imm 1#5⟩) := by decide

/-- A bundle of one slot, placed where the next step fetches, with one edge in the script. -/
def placed (k : Slot) (w : Nat) : State := { State.reset.place (oneSlotBundle k w) with inputs := [.edge] }
def atEdge (k : Slot) (w : Nat) : State := { placed k w with inputs := [] }

theorem ready_placed (k : Slot) (w : Nat) : Ready (atEdge k w) :=
  ⟨rfl, rfl, Nat.zero_le _, .inl rfl, ⟨rfl, rfl, rfl, rfl⟩, ⟨rfl, rfl⟩⟩

theorem wit_StepRunsTheDecodedBundle :
    (∃ t u i, (placed .s0 0x040202E1).pkg.stopped = false ∧ (placed .s0 0x040202E1).inputs = [.edge] ∧
      meets (atEdge .s0 0x040202E1) = some (oneSlotBundle .s0 0x040202E1, 1, t) ∧ NothingIssued t.here ∧
      OneSlot (oneSlotBundle .s0 0x040202E1) .s0 (.ok i) ∧ exec i (slotState t (oneSlotBundle .s0 0x040202E1) 1 .s0 i) = .next u ∧
      u.here.iss.trap = none ∧ u.here.iss.hold = none ∧ u.here.iss.undone = false ∧ u.here.iss.leaves = false ∧
      scratchCost (oneUses t (oneSlotBundle .s0 0x040202E1) 1 .s0 i) = 0 ∧ LandingRoom t u) ∧
    (∃ t u x, meets (atEdge .c 0x44000000) = some (oneSlotBundle .c 0x44000000, 1, t) ∧ NothingIssued t.here ∧
      OneSlot (oneSlotBundle .c 0x44000000) .c (.ok (.brkpt 0#5)) ∧
      exec (.brkpt 0#5) (slotState t (oneSlotBundle .c 0x44000000) 1 .c (.brkpt 0#5)) = .next u ∧
      u.here.iss.trap = some x ∧ orderFive x.cause = true) ∧
    (∃ t e, meets (atEdge .s0 0xDC000000) = some (oneSlotBundle .s0 0xDC000000, 1, t) ∧ NothingIssued t.here ∧
      OneSlot (oneSlotBundle .s0 0xDC000000) .s0 (.error e)) := by
  refine ⟨⟨_, _, .add ⟨0#5, false, 8#6, .reg 5#6, .imm 1#5⟩, by decide, rfl, rfl, ?_, ⟨by decide, by decide, by decide, by decide⟩, rfl, rfl, rfl, rfl, rfl, by decide, .inr rfl⟩, ⟨_, _, _, rfl, ?_, ⟨by decide, by decide, by decide, by decide⟩, rfl, rfl, by decide⟩,
    ⟨_, _, rfl, ?_, ⟨rfl, by decide, by decide, by decide⟩⟩⟩
  all_goals (refine ⟨?_, ?_, ?_⟩ <;> first | rfl | decide)
theorem wit_StepKeepsInv : State.reset.Inv ∧ ∃ t, step State.reset = .next t :=
  ⟨by decide, _, rfl⟩

theorem wit_ResultsLand : ∃ x : Due, x.stats = [] ∧ x.dest = .v 3 ∧ x.drop = false ∧ x.latch = some 2 :=
  ⟨⟨2, 0, .v 3, false, 0#512, 0#16384, some 2, 0#10, [], []⟩, rfl, rfl, rfl, rfl⟩

theorem wit_FalsePredicateHasNoEffect :
    predicateOf (.snop 1#5) = some 1#5 ∧ State.reset.here.iss.wait = false ∧ State.reset.here.predicate 1#5 = false ∧
    faultsByItsBits (.snop 1#5) State.reset = false := by decide

theorem wit_FrameOfResultInstructions : resultsOnly (.add two) = true ∧
    ∃ t, exec (.add two) State.reset = .next t ∧ t.here.iss.trap = none := ⟨rfl, _, rfl, rfl⟩

theorem wit_FrameOfSendingInstructions : sendsOnly (.ld access) = true ∧ exchangesOnly (.xcb xargs) = true ∧
    ordersOnly (.fenceRo 0#5) = true ∧
    (∃ t, exec (.ld access) State.reset = .next t ∧ t.here.iss.trap = none) ∧
    (∃ t, exec (.xcb xargs) paired = .next t ∧ t.here.iss.trap = none) ∧
    (∃ t, exec (.fenceRo 0#5) State.reset = .next t ∧ t.here.iss.trap = none ∧ t.here.iss.leaves = false) ∧
    State.reset.cur < 16 ∧ ∀ k, k < 16 → (State.reset.die k).cache.l1 = [] :=
  ⟨rfl, rfl, rfl, ⟨_, rfl, rfl⟩, ⟨_, rfl, rfl⟩, ⟨_, rfl, rfl, rfl⟩, by decide, by decide⟩

theorem wit_FrameOfTransfersAndTransposer : staysOnItsDie (.br 0#5 2#21) = true ∧ staysOnItsDie (.ttrni (tra 0#6)) = true ∧
    (∃ t, exec (.br 0#5 2#21) State.reset = .next t ∧ t.here.iss.trap = none) ∧
    (∃ t, exec (.ttrni (tra 0#6)) (transposing none 0) = .next t ∧ t.here.iss.trap = none) ∧ (tra 0#6).sw = false :=
  ⟨rfl, rfl, ⟨_, rfl, rfl⟩, ⟨_, rfl, rfl⟩, rfl⟩

theorem wit_ScratchpadStores : State.reset.here.executes 0#5 = true ∧ (scratch false).sp = false ∧
    State.reset.here.pipe.next = [] ∧ spAddress State.reset (scratch false) % (2 ^ (scratch false).size.toNat : Nat) = 0 ∧
    (whole false).sp = false ∧ vecAddress State.reset (whole false) % 64 = 0 ∧
    gather.sp = false ∧ ∀ e : Nat, (State.reset.here.readK gather.k).getLsbD e = false := by
  have hr : State.reset.here.regs.k = [] := rfl
  have hk : State.reset.here.readK gather.k = 0#512 := by simp [Die.readK, gather, hr, Store.get]
  exact ⟨by decide, rfl, by decide, by decide, rfl, by decide, rfl, fun e => by simp [hk]⟩

/-! The steps of a stream by itself. -/

/-- Die 0 over one bank of scratchpad. -/
def banked : State := streaming.mod fun d => { d with sr.spsize := 0x100000#26, arr.sp := [(0, 0xA5#8), (100, 7#8)] }

/-- Port `j0` armed and empty. -/
def hungry : State := banked.mod fun d =>
  { d with tab.inp := [(0, some ⟨true, false, 0, 64, false, [1, 1, 1, 1], [0, 0, 0, 0], 0, 0, 0, []⟩)] }

def outVec : OutVec := ⟨0, 0, 0, 128, 5#16384, true, 1, true⟩
def outLanded : State := banked.mod fun d => { d with tab.outq := [outVec] }

/-- One record waits, for a ring of so many places. -/
def recorded (size : BitVec 16) : State := banked.mod fun d => { d with pipe.statq := [9#128], sr.statsize := size }

def woundDue : State := streaming.mod fun d => { d with ctl.wounds := [(3#64, 4#64)] }
def asleep : State := streaming.mod fun d => { d with ctl.sleep := .monitor 0 }
def atRelease : State := streaming.mod fun d => { d with ctl.releasing := true }
def tired : State := streaming.mod fun d => { d with ctl.watchdog := 0x100000 }
def overdue : State := streaming.mod fun d => { d with ctl.yieldCount := 0x100001 }

theorem wit_StreamSteps :
    (streaming.streaming = true ∧ streaming.here.late = false ∧ streaming.here.failedLanding = none) ∧
    (tired.streaming = true ∧ tired.here.sr.freezemax.toNat ≤ tired.here.ctl.watchdog) ∧
    (overdue.here.ctl.run = .running ∧ overdue.here.ctl.bound < overdue.here.ctl.yieldCount) ∧
    (inKernel.here.inK = true ∧ ∃ x, inKernel.here.ctl.snapshot = some x) ∧
    (hungry.streaming = true ∧ hungry.here.handler = false ∧ ∃ x, Store.get none hungry.here.tab.inp (0#2).toNat = some x ∧
      hungry.here.mayFetch { hungry.pkg with clk := 0 }.clk [] x = true ∧ x.weight = false) ∧
    (fed.streaming = true ∧ fed.here.handler = false ∧ ∃ x, Store.get none fed.here.tab.inp (0#2).toNat = some x) ∧
    (outLanded.here.handler = false ∧ outLanded.here.tab.outq = [outVec] ∧ outVec.landed = true ∧
      outVec.port = (0#1).toNat) ∧
    (∀ size : BitVec 16, size ≠ 0#16 → (recorded size).streaming = true ∧ (recorded size).here.pipe.statq = [9#128] ∧
      (recorded size).here.sr.statsize ≠ 0#16 ∧ (recorded size).here.iss.banks = []) ∧
    (woundDue.here.ctl.run = .running ∧ woundDue.here.handler = false ∧ woundDue.here.ctl.wounds = (3#64, 4#64) :: [] ∧
      woundDue.here.pipe.next = [] ∧ woundDue.here.ctl.stall = 0 ∧ woundDue.here.late = false ∧
      woundDue.here.ctl.fetched = none) ∧
    (asleep.here.ctl.sleep = .monitor 0 ∧ asleep.here.ctl.fetched = none) ∧
    (atRelease.here.ctl.releasing = true ∧ atRelease.here.ctl.released = false ∧
      atRelease.pkg.unacknowledged atRelease.cur atRelease.pkg.nextId = false ∧
      atRelease.enginesOut atRelease.cur atRelease.here.sr.kernid.toNat atRelease.pkg.nextId 7 = false ∧
      atRelease.here.ctl.refused = none ∧ atRelease.here.ctl.dataErr = none ∧ atRelease.pkg.badStacks = []) :=
  ⟨⟨by decide, by decide, by decide⟩, ⟨by decide, by decide⟩, ⟨rfl, by decide⟩, ⟨rfl, _, rfl⟩,
    ⟨by decide, rfl, _, rfl, by decide, rfl⟩, ⟨by decide, rfl, _, rfl⟩, ⟨rfl, rfl, rfl, rfl⟩,
    fun _ h => ⟨rfl, rfl, h, rfl⟩, ⟨rfl, rfl, rfl, rfl, rfl, by decide, rfl⟩, ⟨rfl, rfl⟩, by decide, by decide, by decide, by decide, rfl, rfl, rfl⟩

/-- One piece of matrix work due now. -/
def working (w : MWork) : State := streaming.mod fun d => { d with pipe.mdue := [⟨0, w⟩] }

theorem wit_MatrixWorkLands (w : MWork) : MatrixRuns (working w) ∧ (working w).here.pipe.mdue = [⟨(working w).here.now, w⟩] :=
  ⟨⟨rfl, rfl, rfl⟩, rfl⟩

/-- A die whose bundle at the program counter is given by its bits and header bits above. -/
def holding (k : Slot) (w head : Nat) : State := State.reset.place (oneSlotBundle k w + head)

theorem ready_holding (k : Slot) (w head : Nat) : Ready (holding k w head) :=
  ⟨rfl, rfl, Nat.zero_le _, .inl rfl, ⟨rfl, rfl, rfl, rfl⟩, ⟨rfl, rfl⟩⟩

/-- The index word of a literal bundle (R153). -/
def literal : State := (State.reset.place 0).mod fun d => { d with arr.ib := (List.range 25).map fun i => (i, 0xFFFF#16) }

/-- An index word that names no dictionary entry. -/
def unmapped : State := (State.reset.place 0).mod fun d => { d with arr.ib := [(0, 0x7FFF#16)] }

theorem wit_BundleKinds :
    (∀ head, head = 0x800 ∨ head = 0x400 → ∃ t u, Runs (holding .s0 0x040202E1 head)
      (oneSlotBundle .s0 0x040202E1 + head) 1 .s0 (.add ⟨0#5, false, 8#6, .reg 5#6, .imm 1#5⟩) t u) ∧
    ((decodeBundle (oneSlotBundle .s0 0x040202E1 + 0x800)).wait = true ∧
      (decodeBundle (oneSlotBundle .s0 0x040202E1 + 0x400)).wait = false ∧
      (decodeBundle (oneSlotBundle .s0 0x040202E1 + 0x400)).yields = true) ∧
    (∃ i0 i1 t, unmapped.here.ctl.fetched = none ∧ fetch (opened unmapped) = (.fault i0 i1, t)) ∧
    (∃ w next t, literal.here.ctl.fetched = none ∧ fetch (opened literal) = (.bundle w next true, t)) := by
  refine ⟨?_, by decide, ⟨_, _, _, rfl, rfl⟩, _, _, _, rfl, rfl⟩
  rintro head (rfl | rfl)
  all_goals
    refine ⟨_, _, rfl, ⟨?_, ?_, rfl⟩, rfl, ⟨by decide, by decide⟩, by decide, ⟨by decide, ?_⟩, rfl, ⟨rfl, rfl, rfl⟩,
      by decide⟩
    · decide
    · decide
    · exact .inr rfl

/-- A bundle with its `D` bit set, on a die that takes bundle breakpoints. -/
def broken : State := (holding .s0 0x040202E1 0x1000).mod fun d => { d with sr.kstat := 4#8 }

theorem wit_BundleKinds_more :
    (∃ w t, meets broken = some (w, 1, t) ∧ (decodeBundle w).dbit = true ∧ t.here.sr.kstat.getLsbD 2 = true ∧
      t.here.ctl.dskip = false ∧ ∃ i u, (Slot.s0, Except.ok i) ∈ (decodeBundle w).slots ∧
        runSlot i (slotState t w 1 .s0 i) = .next u) ∧
    (∃ w t, meets (State.reset.place 0) = some (w, 1, t) ∧ (decodeBundle w).slots = [] ∧
      (decodeBundle w).reserved = false ∧ (decodeBundle w).dbit = false ∧ (decodeBundle w).wait = false ∧
      scratchCost t.here.iss.banks = 0) ∧
    (∃ w t e, meets (holding .s0 0xDC000000 0) = some (w, 1, t) ∧ (decodeBundle w).slots = [(.s0, .error e)] ∧
      (decodeBundle w).dbit = false) :=
  ⟨⟨_, _, rfl, by decide, rfl, rfl, .add ⟨0#5, false, 8#6, .reg 5#6, .imm 1#5⟩, _, by decide, rfl⟩,
    ⟨_, _, rfl, by decide, by decide, by decide, by decide, by decide⟩, _, _, _, rfl, rfl, by decide⟩

/-- A ready stream with a bundle of one `SNOP`, its header bits above, and the flags. -/
def idling (head : Nat) (f : BitVec 32) : State :=
  ((State.reset.place (oneSlotBundle .s0 0 + head)).mod fun d => { d with sr.flg := f })

theorem meetsNop_idling (head : Nat) (f : BitVec 32) (h : head = 0x800 ∨ head = 0x400) (hf : f = 1#32 ∨ f = 2#32) :
    ∃ t, MeetsNop (idling head f) (oneSlotBundle .s0 0 + head) 1 .s0 (.snop 0#5) 0#5 t ∧ t.here.sr.flg = f := by
  rcases h with rfl | rfl <;> rcases hf with rfl | rfl
  all_goals
    refine ⟨_, ⟨⟨rfl, rfl, Nat.zero_le _, .inl rfl, ⟨rfl, rfl, rfl, rfl⟩, ⟨rfl, rfl⟩⟩, rfl, rfl,
      by decide, rfl, by decide, ⟨by decide, by decide⟩, ⟨?_, ?_, rfl⟩, rfl, ?_, ?_⟩, rfl⟩
  all_goals decide

theorem wit_BundleKinds_completes :
    (∃ t, MeetsNop (idling 0x800 1#32) (oneSlotBundle .s0 0 + 0x800) 1 .s0 (.snop 0#5) 0#5 t ∧
      t.here.sr.flg.getLsbD (0#5).toNat = true) ∧
    (∃ t, MeetsNop (idling 0x800 2#32) (oneSlotBundle .s0 0 + 0x800) 1 .s0 (.snop 0#5) 0#5 t ∧
      t.here.sr.flg.getLsbD (0#5).toNat = false) ∧
    (decodeBundle (oneSlotBundle .s0 0 + 0x800)).wait = true ∧
    (∃ t, MeetsNop (idling 0x400 1#32) (oneSlotBundle .s0 0 + 0x400) 1 .s0 (.snop 0#5) 0#5 t) ∧
    (decodeBundle (oneSlotBundle .s0 0 + 0x400)).wait = false ∧
    (decodeBundle (oneSlotBundle .s0 0 + 0x400)).yields = true ∧
    (let s := (State.reset.place 0x1000).mod fun d => { d with sr.kstat := 4#8 }
     Ready s ∧ s.here.handler = false ∧ ∃ w t, meets s = some (w, 1, t) ∧ (decodeBundle w).slots = [] ∧
      (decodeBundle w).dbit = true ∧ t.here.sr.kstat.getLsbD 2 = true ∧ t.here.ctl.dskip = false ∧ t.here.pipe.next = []) := by
  obtain ⟨t, h, g⟩ := meetsNop_idling 0x800 1#32 (.inl rfl) (.inl rfl)
  obtain ⟨u, k, m⟩ := meetsNop_idling 0x800 2#32 (.inl rfl) (.inr rfl)
  obtain ⟨v, n, -⟩ := meetsNop_idling 0x400 1#32 (.inr rfl) (.inl rfl)
  exact ⟨⟨t, h, g ▸ rfl⟩, ⟨u, k, m ▸ rfl⟩, by decide, ⟨v, n⟩, by decide, by decide,
    ⟨⟨rfl, rfl, Nat.zero_le _, .inl rfl, ⟨rfl, rfl, rfl, rfl⟩, ⟨rfl, rfl⟩⟩, rfl, _, _, rfl, by decide, by decide, rfl, rfl, rfl⟩⟩

/-! Requests. -/

def phys : Phys := ⟨64, false, false, false, true⟩
def reqOf (k : ReqKind) : Req :=
  ⟨1, 0, 0, 0, 0, k, 64, 8, .walked, some phys, 5#64, 6#64, 0, 2, 0, none, .waiting, none⟩

/-- One request, of a stream on die 0, over memory that holds 5 at address 64. -/
def asking (r : Req) : State := streaming.modPkg fun p => { p with reqs := [r], nextId := 2, mem := [(64, 5)] }

/-- The line has a write, from 3, that nothing orders before the request. -/
def missing (r : Req) : State := (asking r).modPkg fun p => { p with late := [⟨0, 64, 8, 3, [1], []⟩] }

/-- The line is another die's, unpublished. -/
def racing (r : Req) : State := (asking r).modPkg fun p => { p with tags := [(0, ⟨1, 0⟩)] }

theorem served_asking (k : ReqKind) : Served (asking (reqOf k)) 1 (reqOf k) phys := ⟨rfl, rfl, rfl, by cases k <;> decide⟩
theorem served_racing (k : ReqKind) : Served (racing (reqOf k)) 1 (reqOf k) phys := ⟨rfl, rfl, rfl, by cases k <;> decide⟩

/-- Caches that hold nothing are as the directory keeps them. -/
theorem caches_empty (s : State) (h : ∀ k, k < 16 → (s.die k).cache.l1 = []) : CachesWf s :=
  fun k line l hk e => by rw [State.dirtyCopy, h k hk] at e; exact nomatch e

theorem l1_streaming : ∀ k, k < 16 → (streaming.die k).cache.l1 = [] := by decide

theorem line_asking (k : ReqKind) : OneLine (asking (reqOf k)) (reqOf k) phys :=
  ⟨show 0 < 16 by decide, show 64 % 128 + 8 ≤ 128 ∧ 64 < 2 ^ 57 by decide, rfl, caches_empty _ l1_streaming⟩

theorem served_missing (k : ReqKind) : Served (missing (reqOf k)) 1 (reqOf k) phys := ⟨rfl, rfl, rfl, by cases k <;> decide⟩
theorem line_missing (k : ReqKind) : OneLine (missing (reqOf k)) (reqOf k) phys :=
  ⟨show 0 < 16 by decide, show 64 % 128 + 8 ≤ 128 ∧ 64 < 2 ^ 57 by decide, rfl, caches_empty _ l1_streaming⟩

theorem line_racing (k : ReqKind) : OneLine (racing (reqOf k)) (reqOf k) phys :=
  ⟨show 0 < 16 by decide, show 64 % 128 + 8 ≤ 128 ∧ 64 < 2 ^ 57 by decide, rfl, caches_empty _ l1_streaming⟩

/-- A request not yet translated, with no page tables; the same over `mapped`. -/
def issuedReq (k : ReqKind) : Req := { reqOf k with stage := .issued, phys := none }
def unmappedReq : State := asking (issuedReq .load)

theorem wit_MemoryRequestSteps_walks :
    (mapped.pkg.req 1 = some (issuedReq .load) ∧ (issuedReq .load).stage = .issued ∧
      (issuedReq .load).kind.memory = true ∧ ∃ ph s1, mapped.translate (issuedReq .load).sock (issuedReq .load).part
        (issuedReq .load).va (issuedReq .load).kind.writes = (.ok ph, s1) ∧ ph.mig = false) ∧
    (unmappedReq.pkg.req 1 = some (issuedReq .load) ∧ ∃ f s1, unmappedReq.translate (issuedReq .load).sock
        (issuedReq .load).part (issuedReq .load).va (issuedReq .load).kind.writes = (.error f, s1) ∧
      (issuedReq .load).kind ≠ .monitor ∧ s1.resident (issuedReq .load).sock (issuedReq .load).kern = true) :=
  ⟨⟨rfl, rfl, rfl, _, _, translate_mapped 64 false (by decide), rfl⟩, rfl, _, _, rfl, by decide, by decide⟩

/-- A request of the control space, and one performed. -/
def controlReq (k : ReqKind) : Req := { reqOf k with va := 0x10000 }
def doneReq (k : ReqKind) : Req := { reqOf k with stage := .performed }

theorem wit_MemoryRequestSteps :
    (∀ k, Served (asking (reqOf k)) 1 (reqOf k) phys ∧ OneLine (asking (reqOf k)) (reqOf k) phys ∧
      (asking (reqOf k)).pkg.lineBad (lineOf phys.host phys.pa) = false ∧ (reqOf k).kind = k ∧ (reqOf k).size = 8 ∧
      (reqOf k).arv = none ∧ (reqOf k).op < 10 ∧
      (asking (reqOf k)).pkg.races (reqOf k).sock (lineOf phys.host phys.pa) = false ∧
      (asking (reqOf k)).pkg.missable (reqOf k) phys = none ∧
      (∃ x, (missing (reqOf k)).pkg.missable (reqOf k) phys = some x) ∧ Served (missing (reqOf k)) 1 (reqOf k) phys ∧
      OneLine (missing (reqOf k)) (reqOf k) phys ∧
      Store.get none ((asking (reqOf k)).die (reqOf k).sock).cache.ro (lineOf phys.host phys.pa) = none) ∧
    (Served (racing (reqOf .store)) 1 (reqOf .store) phys ∧ OneLine (racing (reqOf .store)) (reqOf .store) phys ∧
      (racing (reqOf .store)).pkg.races (reqOf .store).sock (lineOf phys.host phys.pa) = true) ∧
    (∃ s, Served s 1 (reqOf .monitor) phys ∧ (s.die (reqOf .monitor).sock).cache.monArming = some (reqOf .monitor).id) ∧
    (∀ k, k = .krd ∨ k = .kwr → (asking (controlReq k)).pkg.req 1 = some (controlReq k) ∧
      (controlReq k).stage = .walked ∧ (asking (controlReq k)).pkg.controlBehind (controlReq k) = false ∧
      ∃ o, objOf (controlReq k).va.toNat = some o) ∧
    (∀ k, (asking (doneReq k)).pkg.req 1 = some (doneReq k) ∧ (doneReq k).stage = .performed ∧
      (asking (doneReq k)).resident (doneReq k).sock (doneReq k).kern = true) ∧
    ReqKind.load.lands = true := by
  refine ⟨fun k => ⟨served_asking k, line_asking k, rfl, rfl, rfl, rfl, show 0 < 10 by decide, rfl, rfl,
      ⟨_, rfl⟩, served_missing k, line_missing k, rfl⟩,
    ⟨served_racing _, line_racing _, by decide⟩,
    ⟨(asking (reqOf .monitor)).mod fun d => { d with cache.monArming := some 1 }, ⟨rfl, rfl, rfl, by decide⟩, by decide⟩,
    ?_, fun k => ⟨rfl, rfl, rfl⟩, rfl⟩
  rintro k (rfl | rfl) <;> exact ⟨rfl, rfl, by decide, _, rfl⟩

theorem wit_HeapInsertKeepsTheHeap :
    (IsHeap [] ∧ ([] : List Nat).length < 1) ∧
    (IsHeap [0x3F80000000000001] ∧ [0x3F80000000000001].length = 1 ∧
      keyLess ([0x3F80000000000001].headD 0) 0x4000000000000000 = true ∧
      keyLess ([0x3F80000000000001].headD 0) 0x3F80000000000001 = false) := by
  refine ⟨⟨fun i _ h => absurd h (Nat.not_lt_zero i), by decide⟩, fun i h0 h1 => ?_, rfl, by decide, by decide⟩
  simp at h1; omega

/-! Engine operations. -/

/-- A tensor of 4 elements of format F32 in the scratchpad. -/
def vec4 (base : Nat) : Tensor :=
  ⟨1, BitVec.ofNat 512 (2 ^ 5 + 2 ^ 9 + base * 2 ^ 16 + 4 * 2 ^ 120 + 4 * 2 ^ 144), 0#512⟩

/-- A copy of one dimension of 4 elements from offset 0 to offset 64. -/
def copy4 : CopyJob := ⟨BitVec.ofNat 1024 (1 + 2 * 2 ^ 8 + 2 ^ 16 + 4 * 2 ^ 128), true, vec4 0, vec4 64, false, 0, 0#24, 31⟩
def outsideCopy : CopyJob := { copy4 with inside := false }
def badCopy : CopyJob := { copy4 with desc := 0#1024 }

def engineOf (j : EngineJob) (st : EngineStage) (n : Nat) : Engine :=
  ⟨1, 0, 0, 1, 0, 0, 3, 0, none, j, st, { Progress.none with moved := n }, none, [], false⟩

/-- A stream on die 0 with a scratchpad and one engine operation outstanding. -/
def engaged (e : Engine) : State :=
  (streaming.mod fun d => { d with sr.spsize := 0x100000#26, arr.sp := [(0, 5#8)] }).modPkg fun p =>
    { p with engines := [e], nextId := 2 }

theorem pending_engaged (j : EngineJob) (n : Nat) (st : EngineStage) :
    Pending (engaged (engineOf j st n)) 1 (engineOf j st n) st := ⟨rfl, rfl, rfl, show streaming.resident 0 0 = true by decide⟩

theorem copies : copy4.moves = true ∧ copy4.total = 4 ∧ copy4.src.loc = 1 ∧ copy4.dst.loc = 1 ∧
    copy4.dst.fmt = copy4.src.fmt ∧ copy4.src.fmt ≠ 5 ∧ copy4.desc.getLsbD 24 = false ∧ badCopy.check ≠ 0 := by decide +kernel

/-- The same with one object of region 1 each. -/
def owning (e : Engine) : State := (engaged e).modPkg fun p => { p with
  counters := [(0, ⟨7#32, ⟨0, 1⟩, true⟩)]
  tiles := [(0, ⟨false, ⟨0, 1⟩, 1, [], [⟨0, 9#384, 0xFFFF, 0, 0, some 0⟩], [1]⟩)] }

/-- A lock held by an older-wounded transaction whose grace is over. -/
def wounded : State := streaming.modPkg fun p => { p with
  garnet := { p.garnet with
    txns := [⟨5#64, 0, 0, 0, 1, 0, 0, true, 0, false⟩]
    locks := [⟨0, 9#64, 0, [(5#64, 4)], []⟩] } }

theorem wit_EngineSteps :
    (∃ e, (engaged e).pkg.copyOf 1 = some (e, copy4) ∧ e.stage = .sent ∧ (engaged e).copyReady e = true) ∧
    (∃ e, (engaged e).pkg.copyOf 1 = some (e, copy4) ∧ e.stage = .begun ∧ copy4.moves = true ∧
      Pending (engaged e) 1 e .begun ∧ e.job = .copy copy4 ∧ e.prog.moved < copy4.total ∧
      inRange (moveFrom e copy4) (moveBytes copy4) ((engaged e).die e.sock).spsize = true ∧
      inRange (moveTo e copy4) (moveBytes copy4) ((engaged e).die e.sock).spsize = true) ∧
    (∃ e, (engaged e).pkg.copyOf 1 = some (e, copy4) ∧ e.stage = .begun ∧ e.prog.moved = copy4.total ∧ e.prog.acked = e.prog.sent) ∧
    (∃ e, (engaged e).pkg.copyOf 1 = some (e, outsideCopy) ∧ e.stage = .begun ∧ outsideCopy.inside = false) ∧
    (∃ e, (engaged e).pkg.copyOf 1 = some (e, badCopy) ∧ e.stage = .begun ∧ badCopy.inside = true ∧ badCopy.check ≠ 0) ∧
    (∃ e code value, (engaged e).pkg.engine 1 = some e ∧ e.stage = .decided code value) ∧
    (∀ j, j = .arrive 0 2#32 ∨ j = .arriveSet 0 2#32 ∨ j = .enqtClose 0 →
      ∃ e, Pending (owning e) 1 e .sent ∧ (owning e).mayAct e = true ∧ e.status = none ∧ e.job = j ∧
        e.owns ((owning e).pkg.counter 0).owner = true ∧ e.owns ((owning e).pkg.pair 0).owner = true) ∧
    (∃ e x, Pending (owning e) 1 e .begun ∧ e.id = 1 ∧ e.job = .take 0 64 ∧ e.status = none ∧
      ((owning e).pkg.pair (0#6).toNat).takers = [1] ∧ ((owning e).pkg.pair (0#6).toNat).choose = some (false, x) ∧
      x.ctr = 0xFFFF ∧ 64 + 64 ≤ ((owning e).die e.sock).spsize) ∧
    (∃ x, wounded.pkg.garnet.txnOf 5#64 = some x ∧ x.wounded = true ∧ x.revoked = false ∧
      x.graceEnd ≤ wounded.pkg.ptime.toNat ∧
      (revokeTxn wounded.pkg.ptime.toNat ⟨wounded.pkg.garnet, [], [], [], []⟩ 5#64).2 = some 9#64) := by
  refine ⟨⟨engineOf (.copy copy4) .sent 0, rfl, rfl, by decide +kernel⟩,
    ⟨engineOf (.copy copy4) .begun 0, rfl, rfl, copies.1, pending_engaged _ _ _, rfl, by decide +kernel, by decide +kernel, by decide +kernel⟩,
    ⟨engineOf (.copy copy4) .begun 4, rfl, rfl, by decide +kernel, rfl⟩, ⟨engineOf (.copy outsideCopy) .begun 0, rfl, rfl, rfl⟩,
    ⟨engineOf (.copy badCopy) .begun 0, rfl, rfl, rfl, copies.2.2.2.2.2.2.2⟩,
    ⟨engineOf (.arrive 0 0#32) (.decided 0 0) 0, 0, 0, rfl, rfl⟩, ?_,
    ⟨engineOf (.take 0 64) .begun 0, _, ⟨rfl, rfl, rfl, by decide⟩, rfl, rfl, rfl, rfl, rfl, rfl, by decide⟩,
    ⟨_, rfl, rfl, rfl, by decide, by decide⟩⟩
  rintro j (rfl | rfl | rfl) <;> exact ⟨engineOf _ .sent 0, ⟨rfl, rfl, rfl, by decide⟩, by decide, rfl, rfl, by decide, by decide⟩

/-! Exchanges. -/

/-- A launch of the package. -/
def launchOf (st : LaunchStage) (fenced : List Nat) : Launch :=
  ⟨0, 3#1024, 33, 0, 0, 1, 0, 0, some 0, st, [0, 1], [0, 1], [], [], fenced, 0#16, [], 0, false, false, 0, false, false, [],
    [], false, [], 0#64, 0, false, [], [], []⟩

/-- An exchange of rank 0 or 1 over a dimension. -/
def exch (opcode rank dim present : Nat) (fail : Nat) : Exchange :=
  ⟨opcode, false, 0, 0, 0, 0, false, 1#512 <<< 36 ||| 2#512 <<< 40, 2, 2, 0, 64, 0, none, if opcode = 8 then 1 else 0, rank, 1,
    [dim], BitVec.ofNat 24 present, 0, fail, 0, 0, none, XResult.none⟩

def exchOp (x : Exchange) (st : EngineStage) : Engine := engineOf (.exchange x) st 0

/-- Both dies of a pair run, each with its operation. -/
def twoEnds (x y : Exchange) (fenced : List Nat) : State :=
  (engaged (exchOp x .begun)).modPkg fun p => { p with
    engines := [exchOp x .begun, { exchOp y .begun with id := 2, sock := 1 }], launches := [launchOf .running fenced] }
def bothRun (x y : Exchange) (fenced : List Nat) : State := (twoEnds x y fenced).setDie 1 (streaming.here)

/-- The kernel of an exchange is away, its image in memory. -/
def away (x : Exchange) : State :=
  (State.reset).modPkg fun p => { p with
    engines := [exchOp x .begun], launches := [launchOf .descheduled []]
    images := [⟨0x100000, [], false, 0, 0, 1, streaming.here, 0, 0#32, 0#32, true, true⟩] }

/-- Dimension 5 has no link, the first detour register names dimension 6, whose link is up. -/
def detoured (x : Exchange) : State := (engaged (exchOp x .begun)).modPkg fun p => { p with
  regs := { p.regs with detour := 6#5 }, routes := [(6, 0x80#64)], ports := [(0, { Port.reset with state := .up })] }

def vote : Vote := ⟨1, 0, 3#1024, 0#64, 1, 0, 0, true, true, 2⟩

/-- The kernel of one end of a pair is away, that of the other on its die. -/
def oneAway (x y : Exchange) : State :=
  ((State.reset).modPkg fun p => { p with
    engines := [exchOp x .begun, { exchOp y .begun with id := 2, sock := 1 }], launches := [launchOf .running []]
    images := [⟨0x100000, [], false, 0, 0, 1, streaming.here, 0, 0#32, 0#32, true, true⟩] }).setDie 1 (streaming.here)

theorem resident_engaged (e : Engine) : (engaged e).resident 0 0 = true := show streaming.resident 0 0 = true by decide

theorem wit_ExchangeSteps :
    (let s := bothRun (exch 1 0 0 1 0) (exch 1 1 0 1 0) []
     ∃ e f x y, Posted s 1 e x .begun ∧ x.pairwise = true ∧ x.fail = 0 ∧ x.absentRank x.toRank = false ∧
      x.peer e.sock x.toRank = .here 1 ∧ s.pkg.fencedDie e.kern 1 = false ∧ s.pkg.partner e x 1 = some (f, y) ∧
      f.stage = .begun ∧ s.resident f.sock f.kern = true) ∧
    (let s := engaged (exchOp (exch 1 0 0 0 0) .begun)
     ∃ e x, Posted s 1 e x .begun ∧ x.pairwise = true ∧ x.fail = 0 ∧ x.absentRank x.toRank = true) ∧
    (let s := bothRun (exch 1 0 0 1 0) (exch 1 1 0 1 0) [1]
     ∃ e x, Posted s 1 e x .begun ∧ x.pairwise = true ∧ x.fail = 0 ∧ x.absentRank x.toRank = false ∧
      x.peer e.sock x.toRank = .here 1 ∧ s.pkg.fencedDie e.kern 1 = true) ∧
    (let s := engaged (exchOp (exch 1 0 0 1 0) (.decided 0 2))
     ∃ e x, Posted s 1 e x (.decided 0 2) ∧ e.id = 1 ∧ s.pkg.exchangeBehind e x = false ∧
      x.statusAt + 8 ≤ (s.die e.sock).spsize) ∧
    (let s := engaged (exchOp (exch 7 0 0 1 0) .sent)
     ∃ e x, Posted s 1 e x .sent ∧ x.opcode = 7 ∧ s.waitsFor e = false) ∧
    (let s := (engaged (exchOp (exch 7 0 0 1 0) .begun)).modPkg fun p => { p with launches := [launchOf .running []] }
     ∃ e x l, Posted s 1 e x .begun ∧ e.id = 1 ∧ x.opcode = 7 ∧ x.res.got = false ∧ s.pkg.launch e.kern = some l) ∧
    (let s := (engaged (exchOp (exch 8 0 0 1 0) .begun)).modPkg fun p => { p with votes := [vote] }
     s.pkg.votes = [vote] ∧ vote.id = 1 ∧ s.pkg.farVotes = [] ∧ s.pkg.heldRoutes = [] ∧
      ∃ e x, s.pkg.swapArrivals vote = [(e, x)] ∧ s.pkg.engine e.id = some e) ∧
    (let s := away (exch 1 0 0 1 3)
     ∃ e x, s.pkg.exchangeOf 1 = some (e, x) ∧ e.stage = .begun ∧ x.pairwise = true ∧ x.fail ≠ 0 ∧
      s.isAway e.sock e.kern = true ∧ s.pkg.exchangeBehind e x = false ∧ s.ringFits e.sock e.kern (ringRecords e x x (Given.only x.fail) true) = true) ∧
    (let s := oneAway (exch 1 0 0 1 0) (exch 1 1 0 1 0)
     ∃ e f x y, s.pkg.exchangeOf 1 = some (e, x) ∧ e.stage = .begun ∧ x.pairwise = true ∧ x.fail = 0 ∧
      x.absentRank x.toRank = false ∧ x.peer e.sock x.toRank = .here 1 ∧ s.pkg.fencedDie e.kern 1 = false ∧
      s.pkg.partner e x 1 = some (f, y) ∧ f.stage = .begun ∧ s.isAway e.sock e.kern = true ∧
      s.resident f.sock f.kern = true ∧ s.pkg.exchangeBehind e x = false ∧
      s.ringFits e.sock e.kern (ringRecords e x x (pairGiven x x.end_ y.end_) true) = true) ∧
    (exch 1 0 0 1 0).writes ⟨[(0, 5)], 0, [], [], 0⟩ ≠ [] ∧
    (let s := detoured (exch 1 0 5 1 0)
     ∃ e x, Posted s 1 e x .begun ∧ x.opcode ≠ 8 ∧ (x.crosses.filter fun d => !s.pkg.linkUp d) = [5] ∧
      s.pkg.regs.detour.toNat = 6 ∧ s.pkg.detourFor 5 6 = true ∧ 6 ∉ ([] : List Nat)) := by
  refine ⟨⟨exchOp (exch 1 0 0 1 0) .begun, _, exch 1 0 0 1 0, _, ⟨⟨rfl, rfl, rfl, by decide⟩, rfl⟩, rfl, rfl, by decide,
      by decide, by decide, rfl, rfl, by decide⟩,
    ⟨exchOp (exch 1 0 0 0 0) .begun, _, ⟨⟨rfl, rfl, rfl, resident_engaged _⟩, rfl⟩, rfl, rfl, by decide⟩,
    ⟨exchOp (exch 1 0 0 1 0) .begun, _, ⟨⟨rfl, rfl, rfl, by decide⟩, rfl⟩, rfl, rfl, by decide, by decide, by decide⟩,
    ⟨exchOp (exch 1 0 0 1 0) (.decided 0 2), _, ⟨⟨rfl, rfl, rfl, resident_engaged _⟩, rfl⟩, rfl, by decide, by decide +kernel⟩,
    ⟨exchOp (exch 7 0 0 1 0) .sent, _, ⟨⟨rfl, rfl, rfl, resident_engaged _⟩, rfl⟩, rfl, by decide⟩,
    ⟨exchOp (exch 7 0 0 1 0) .begun, _, _, ⟨⟨rfl, rfl, rfl, resident_engaged (exchOp (exch 7 0 0 1 0) .begun)⟩, rfl⟩, rfl, rfl, rfl,
      rfl⟩,
    ⟨rfl, rfl, rfl, rfl, exchOp (exch 8 0 0 1 0) .begun, exch 8 0 0 1 0, rfl, rfl⟩,
    ⟨exchOp (exch 1 0 0 1 3) .begun, exch 1 0 0 1 3, rfl, rfl, rfl, by decide, by decide, rfl, by decide +kernel⟩,
    ⟨exchOp (exch 1 0 0 1 0) .begun, _, exch 1 0 0 1 0, _, rfl, rfl, rfl, rfl, by decide, by decide, by decide, rfl, rfl,
      by decide, by decide, rfl, by decide +kernel⟩, by decide,
    ⟨exchOp (exch 1 0 5 1 0) .begun, exch 1 0 5 1 0, ⟨⟨rfl, rfl, rfl, resident_engaged (exchOp (exch 1 0 5 1 0) .begun)⟩, rfl⟩,
      by decide, by decide, rfl, by decide, by simp⟩⟩

/-! The fault service, migration, errors. -/

def faultOf (index : Option Nat) (w : Waiter) : FaultRec := ⟨index, 0, 5, 0x5000#64, 0, 1, 0, 0, 1, 0, true, 0, 7#64, [w]⟩

/-- One fault record, over a request and an engine operation. -/
def faulted (r : FaultRec) : State := (asking { reqOf .load with stage := .held }).modPkg fun p => { p with
  regs := { p.regs with frsize := 4#16, frbase := 0x1000#64 }, faults := [r]
  engines := [{ engineOf (.copy copy4) .stalled 0 with held := some (true, 0x5000) }] }

theorem wit_FaultServiceSteps :
    streaming.pkg.faults = [] ∧
    (let s := faulted (faultOf none (.request 1))
     s.pkg.faults.find? (fun x => x.recorded && x.index.isNone) = some (faultOf none (.request 1)) ∧
      s.pkg.regs.frsize ≠ 0#16 ∧ s.pkg.regs.frbase.toNat < 2 ^ 48 ∧
      (s.pkg.regs.frhead.toNat + 1) % s.pkg.regs.frsize.toNat ≠ s.pkg.regs.frtail.toNat) ∧
    (let s := faulted (faultOf (some 0) (.request 1))
     s.pkg.faults = [faultOf (some 0) (.request 1)] ∧ (faultOf (some 0) (.request 1)).recorded = true ∧ (faultOf (some 0) (.request 1)).index = some (0#16).toNat ∧
      (faultOf (some 0) (.request 1)).waiters = [.request 1] ∧ s.pkg.regs.frsize ≠ 0#16 ∧
      ∃ q, s.pkg.req 1 = some q ∧ s.resident q.sock q.kern = true) ∧
    (let s := faulted (faultOf (some 0) (.engine 1))
     s.pkg.faults = [faultOf (some 0) (.engine 1)] ∧ (faultOf (some 0) (.engine 1)).recorded = true ∧ (faultOf (some 0) (.engine 1)).index = some (0#16).toNat ∧
      (faultOf (some 0) (.engine 1)).waiters = [.engine 1] ∧ s.pkg.regs.frsize ≠ 0#16 ∧
      ∃ e a, s.pkg.engine 1 = some e ∧ e.id = 1 ∧ e.held = some a ∧ e.stage = .stalled) :=
  ⟨rfl, ⟨rfl, by decide, by decide, by decide⟩, ⟨rfl, rfl, rfl, rfl, by decide, _, rfl, by decide⟩,
    rfl, rfl, rfl, rfl, by decide, _, _, rfl, rfl, rfl, rfl⟩

/-- A line moves from address 0 to address 128. -/
def moving : State := streaming.modPkg fun p => { p with
  migration := some ⟨0, 128, 128⟩, mem := [(3, 7)], regs := { p.regs with migcmd := 2#4 } }

/-- Stack of the line at 0 fenced. -/
def stackOut : State := streaming.modPkg fun p => { p with badStacks := [Config.homeStack 0 % 16], mem := [(3, 7)] }

theorem wit_MigrationAndErrorSteps :
    streaming.pkg.regs.migcmd.getLsbD 1 = false ∧
    (moving.pkg.migration = some ⟨0, 128, 128⟩ ∧ moving.pkg.drained ⟨0, 128, 128⟩ = true ∧ moving.pkg.lost = [] ∧
      moving.pkg.badStacks = [] ∧ CachesWf moving ∧ moving.Inv) ∧
    ((streaming.modPkg (·.setSock 1 .active)).die 1).ctl.run = .idle ∧
    (streaming.modPkg (·.setSock 1 .active)).pkg.sock 1 = .active ∧ (streaming.die 0).ctl.run ≠ .idle ∧ stackOut.pkg.badStacks.contains (BitVec.ofNat 4 (Config.homeStack 0)).toNat = true ∧
    (streaming.modPkg (·.setSock 0 .resetting)).pkg.sock 0 = .resetting ∧
    (streaming.modPkg (·.setSock 0 .active)).pkg.sock 0 = .active ∧
    (streaming.modPkg (·.setSock 0 .admitting)).pkg.sock (0#4).toNat = .admitting := by
  refine ⟨rfl, ⟨rfl, by decide, rfl, rfl, caches_empty _ l1_streaming, by decide⟩, by decide, rfl, by decide, ?_, rfl,
    rfl, rfl⟩
  simp [stackOut, BitVec.toNat_ofNat, State.modPkg]

/-! Launches. -/

/-- Packet for one die: descriptor at 4096, region control block at 256. -/
def packet1 : BitVec 1024 := 1#1024 <<< 652 ||| 1#1024 <<< 712 ||| 1#1024 <<< 816

/-- One for a subcube of dimension 4, in two packages. -/
def packet2 : BitVec 1024 := packet1 ||| 1#1024 <<< 704 ||| 1#1024 <<< 796 ||| 1#1024 <<< 834

def queued1 : Launch := { launchOf .queued [] with
  packet := packet1, origin := 0, region := 1, rcb := 256, part := 1, reserved := [], running := [] }

/-- A package in service, with that descriptor and block in memory, and launches. -/
def serving (l : List Launch) : State := State.reset.modPkg fun p => { p with
  regs := { p.regs with bootStep := 8#4, agep := 0#32 }, launches := l, nextKern := 7
  mem := [(256, 1), (262, 1), (272, 0x24), (281, 15), (288, 1), (308, 4), (4096, 1), (4098, 1)]
  partitions := [⟨1, 0, 0#24, 0#24, 0, true⟩], socks := [(0, .active)], rounds := [(0, [(256, 0)])] }

/-- Die 0 serves a call of the runtime for region 1. -/
def calling (n arg : Word) : State := (inKernel.mod fun d => { d with
    regs.s := [(3, n), (4, arg)], sr.regionid := 1#32, sr.spsize := 0x100000#26 }).modPkg fun p => { p with
  launches := [launchOf .running []], tiles := [(1, ⟨true, ⟨0, 1⟩, 1, [], [], []⟩)], barriers := [(2, ⟨1, 2, true, ⟨0, 1⟩, [], [], [], []⟩)] }

def isRead (x : Except PrepStop KernelData × State) : Bool := match x with
  | (.ok _, _) => true
  | _ => false

theorem read_of (x : Except PrepStop KernelData × State) (h : isRead x = true) : ∃ k s, x = (.ok k, s) := by
  obtain ⟨_ | k, s⟩ := x
  · simp [isRead] at h
  · exact ⟨k, s, rfl⟩

/-- The host's launch ring holds one packet, in host memory at 0. -/
def posting (b : BitVec 1024) : State := (serving []).modPkg fun p => { p.setRing 0 { Ring.reset with size := 1, prod := 1 } with
  host := ((natBytes 128 b.toNat).zipIdx.map fun b => (b.2, b.1)).filter (·.2 != 0#8) }

theorem wit_LaunchSteps :
    Enqueued (posting packet1) packet1 0 ∧
    ((serving []).pkg.regs.bootStep = 8#4 ∧ (serving []).enqueueCode 1#1024 0 ((serving []).packetLevel 1#1024) ≠ 0) ∧
    (let s := serving [queued1]
     s.pkg.launches = [queued1] ∧ queued1.stage = .queued ∧ queued1.runnable.isSome = true ∧ queued1.rcb = 256 ∧
      queued1.level < 16 ∧ s.regionFaulted 256 = false ∧ pktStartv queued1.packet = false ∧
      Store.get [] s.pkg.rounds queued1.level = [(256, 0)] ∧ (s.pkg.wanted queued1).length ≤ s.effDies 256 ∧
      (∀ k ∈ queued1.saved, k < 16) ∧ queued1.waits = true ∧ queued1.runnable = some 0 ∧ 0 + s.pkg.regs.agep.toNat ≤ s.pkg.ptime.toNat) ∧
    (let l := { queued1 with stage := .selected, origin := 33, packet := packet2, reserved := [0] }
     (serving [l]).pkg.launch 0 = some l ∧ l.stage = .selected ∧ l.multi = true ∧ (serving [l]).diesFree l = true ∧
      l.id = 0 ∧ 33 ≤ l.origin) ∧
    (let l := { queued1 with stage := .ready, origin := 33 }
     (serving [l]).pkg.launch 0 = some l ∧ l.stage = .ready ∧ 33 ≤ l.origin) ∧
    (let l := { queued1 with stage := .ready, packet := packet2, readyFrom := [1] }
     (serving [l]).pkg.launch 0 = some l ∧ l.stage = .ready ∧ l.origin < 33 ∧ l.resume = false ∧ l.id = 0 ∧
      ∀ k ∈ otherPackages (serving [l]).pkg.regs.pkgid.toNat l.packet, k ∈ l.readyFrom) ∧
    (let l := { queued1 with stage := .selected, reserved := [0] }
     let s := serving [l]
     s.pkg.launch 0 = some l ∧ s.startDue l = true ∧ s.doomed l = false ∧ s.pkg.wanted l ≠ [] ∧ s.diesFree l = true ∧
      s.fits .dies l.rcb (s.pkg.wanted l).length = true ∧ ∃ x s1, s.readKernel l = (.ok x, s1)) ∧
    (let s := onDie fun d => { d with ctl.run := .saving }
     s.here.ctl.run = .saving ∧ s.pkg.unacknowledged s.cur s.pkg.nextId = false ∧ s.here.landingsIn = true) ∧
    (let l := { queued1 with stage := .running, ended := [0] }
     (serving [l]).pkg.launch 0 = some l ∧ l.stage = .running ∧ l.running = [] ∧ l.saved = [] ∧
      l.qent = false ∧ (serving [l]).pkg.farDone l = true) ∧
    (∀ a : Word, Calls (calling 1#64 a) 1 ∧ (calling 1#64 a).here.readS 4#6 = a ∧
      128 + 128 ≤ (calling 1#64 a).here.spsize ∧
      (calling 1#64 a).pkg.unacknowledged (calling 1#64 a).cur (calling 1#64 a).pkg.nextId = false ∧
      (calling 1#64 a).enginesOut (calling 1#64 a).cur (calling 1#64 a).here.sr.kernid.toNat
        (calling 1#64 a).pkg.nextId 5 = false ∧
      (calling 1#64 a).pkg.mayEnqueue ((calling 1#64 a).cur + 1) = true) ∧
    (Calls (calling 2#64 0#64) 2 ∧ ∃ l, (calling 2#64 0#64).pkg.launch (calling 2#64 0#64).here.sr.kernid.toNat = some l) ∧
    (let s := calling 3#64 65#64
     Calls s 3 ∧ (s.here.readS 4#6).toNat % 64 = 1 ∧ ownedBy (s.pkg.pair 1).owner s.here.sr.partid.toNat s.here.sr.regionid.toNat = true ∧
      (s.pkg.pair 1).high = [] ∧ (s.pkg.pair 1).low = []) ∧
    (let s := calling 4#64 2#64
     Calls s 4 ∧ (s.here.readS 4#6).toNat % 4096 = 2 ∧
      ownedBy (s.pkg.barrier 2).owner s.here.sr.partid.toNat s.here.sr.regionid.toNat = true) ∧
    Calls (calling 5#64 0#64) 5 := by
  refine ⟨⟨rfl, by decide +kernel⟩, ⟨rfl, by decide +kernel⟩,
    ⟨rfl, rfl, rfl, rfl, by decide, by decide +kernel, by decide +kernel, rfl, by decide +kernel, by decide, rfl, rfl,
      by decide⟩, ⟨rfl, rfl, by decide +kernel, by decide +kernel, rfl, by decide⟩, ⟨rfl, rfl, by decide⟩,
    ⟨rfl, rfl, by decide, rfl, rfl, by decide +kernel⟩,
    ⟨rfl, by decide +kernel, by decide +kernel, by decide +kernel, by decide +kernel, by decide +kernel, ?_⟩,
    ⟨rfl, by decide, by decide⟩, ⟨rfl, rfl, rfl, rfl, rfl, by decide +kernel⟩,
    fun _ => ⟨⟨rfl, rfl, ⟨rfl, rfl⟩, rfl⟩, rfl, Nat.le_of_ble_eq_true rfl, rfl, rfl, rfl⟩,
    ⟨⟨rfl, rfl, ⟨rfl, rfl⟩, rfl⟩, _, rfl⟩, ⟨⟨rfl, rfl, ⟨rfl, rfl⟩, rfl⟩, rfl, by decide, rfl, rfl⟩,
    ⟨⟨rfl, rfl, ⟨rfl, rfl⟩, rfl⟩, rfl, by decide⟩, ⟨rfl, rfl, ⟨rfl, rfl⟩, rfl⟩⟩
  exact read_of _ (by decide +kernel)


/-! Ports, management, the host. -/

/-- `n` big-endian bytes at an address. -/
def bytesFrom (a n v : Nat) : Memory := (beBytes n v).zipIdx.map fun b => (a + b.2, b.1)

def sigS : Nat := 0x22f585cd986abc14d779858bccdb7d1b069c51f2946174ed7a599182f7d14c7b
/-- The signature of an empty record with the same key and nonce. -/
def recS : Nat := 0x4ec896367a285e5b93b8dbadfd13fa16e1cac4b7eb6f2868a57d079e5488559a
def sigHash : List Byte := beBytes 32 0xb7ddb3d9b73e79cddebc9ea669373c284c7fcf1f0d8ddfd1797223001b9baf36

/-- A carrier whose firmware image passes the checks: an empty payload, signed with the key 1 and the nonce 1, so that
the public key is the curve's base point and `s` is the hash plus its first coordinate. -/
def signed : Carrier := { State.reset.pkg.carrier with
  sigR := p256Gx, sigS := recS
  flash := bytesFrom 0 4 0x31364658 ++ bytesFrom 16 32 p256Gx ++ bytesFrom 48 32 p256Gy ++ bytesFrom 192 32 p256Gx ++
    bytesFrom 224 32 sigS
  fuses := 0x9f0db5cbf5eed6fe24dff4d80f5d2f14803ebbb0c638c7ae362223ef7ddb75d8#320 }

/-- The signed bytes and the key. -/
def keyBytes : List Byte := beBytes 32 p256Gx ++ beBytes 32 p256Gy
def signedBytes : List Byte := beBytes 4 0x31364658 ++ List.replicate 12 0#8 ++ keyBytes ++ List.replicate 112 0#8

theorem sig_good : ecdsaVerify p256Gx p256Gy sigHash p256Gx sigS = true := by decide +kernel
theorem rec_good : ecdsaVerify p256Gx p256Gy (sha256 []) p256Gx recS = true := by decide +kernel
theorem hash_good : sha256 signedBytes = sigHash := by decide +kernel
theorem key_good : bytesNat (sha256 keyBytes) = fieldAt signed.fuses 0 256 := by decide +kernel
theorem flash_good : signed.flashBytes 0 192 = signedBytes ∧ signed.flashBytes 16 64 = keyBytes := by decide +kernel
theorem fields_good : signed.header 0 4 = 0x58463631 ∧ signed.header 80 112 = 0 ∧ signed.header 8 4 = 0 ∧
    fieldAt signed.fuses 256 32 = 0 ∧ beNat (signed.flashBytes 16 32) = p256Gx ∧
    beNat (signed.flashBytes 48 32) = p256Gy ∧ beNat (signed.flashBytes 192 32) = p256Gx ∧
    beNat (signed.flashBytes 224 32) = sigS := by decide +kernel

theorem signed_passes : signed.firmwareCode = 0 := by
  obtain ⟨a, b, c, d, e, f, g, h⟩ := fields_good
  have n : signed.flashBytes 256 0 = [] := rfl
  have r : signed.record = [] ∧ signed.sigR = p256Gx ∧ signed.sigS = recS := ⟨rfl, rfl, rfl⟩
  simp [Carrier.firmwareCode, Carrier.antiRollback, a, b, c, d, e, f, g, h, n, flash_good, hash_good, key_good, sig_good,
    r, rec_good]

/-- A package whose port 7 is in a state, named by dimension 6's entry. -/
def atPort (x : Port) : State := State.reset.modPkg fun p => { p with
  ports := [(7, x)], ptime := 250000000#64, routes := [(6, 0x4087#64)] }
def portIn (st : PortState) : Port := { Port.reset with state := st }

theorem wit_PortsMove :
    (∀ i src dst ns, portMove 7#5 i = some (src, dst, ns) →
      (7#5).toNat < 24 ∧ ((atPort (portIn src)).pkg.port (7#5).toNat).state = src ∧
      ((atPort (portIn src)).pkg.port (7#5).toNat).since + ns ≤ (atPort (portIn src)).pkg.ptime.toNat ∧
      (atPort (portIn src)).pkg.retopos = []) ∧
    (∃ i, portMove 7#5 i = some (.up, .failed, 0)) ∧
    (let s := atPort { Port.reset with dark := some 5 }
     (s.pkg.port 7).state = .dark ∧ (s.pkg.port 7).held = false ∧ (s.pkg.port 7).dark = some 5 ∧
      (s.pkg.port 7).since + 5 ≤ s.pkg.ptime.toNat ∧ s.pkg.retopos = []) ∧
    (let s := atPort (portIn .verify)
     (s.pkg.port 7).state = .verify ∧ s.pkg.retopos = [] ∧
      s.pkg.entryNaming (s.pkg.port 7).bank 7 = some (6, 0x4087#64)) := by
  refine ⟨fun i src dst ns h => ⟨by decide, rfl, ?_, rfl⟩, ⟨.linkErrorBudgetExceeded 7#5, rfl⟩,
    ⟨rfl, rfl, rfl, by decide, rfl⟩, ⟨rfl, rfl, by decide⟩⟩
  show 0 + ns ≤ 250000000
  have : ns ≤ 250000000 := by
    unfold portMove at h
    split at h <;> (try split at h) <;> simp_all <;> omega
  omega

/-- The management ring holds one command, in host memory at 0. -/
def asked (c : Nat) (l : List Partition) : State := (serving []).modPkg fun p => { p with
  bridge := { p.bridge with mgmt := { Ring.reset with size := 1, prod := 1 } }
  host := ((natBytes 64 c).zipIdx.map fun b => (b.2, b.1)).filter (·.2 != 0#8), partitions := l }

def relight3 : Nat := 2 + 8 * 2 ^ 64
def partnew1 : Nat := 3 + 2 ^ 32 + 2 ^ 48 + 256 * 2 ^ 128
def partend1 : Nat := 4 + 2 ^ 32
/-- One record: port 7, dimension 6, expecting package 4; for bank 0 or 1. -/
def retopo1 (bank : Nat) : Nat := 1 + 2 ^ 64 + bank * 2 ^ 72 + 7 * 2 ^ 128 + 6 * 2 ^ 136 + 4 * 2 ^ 144

theorem wit_ManagementCommands :
    ((asked 5 []).nextCommand = some 5#512 ∧ 4 < fieldAt 5#512 0 16) ∧
    (Commanded (asked 1 []) 1#512 ∧ fieldAt 1#512 0 16 = 1 ∧ retopoBad 1#512 = true) ∧
    (∀ b, b = 0 ∨ b = 1 → let s := asked (retopo1 b) []
      let c := BitVec.ofNat 512 (retopo1 b)
      Commanded s c ∧ fieldAt c 0 16 = 1 ∧ retopoBad c = false ∧
        (cmdAt c 9 1 == 1) = (if b = 0 then s.pkg.regs.rtact else !s.pkg.regs.rtact) ∧ s.pkg.regs.swaplk = false ∧
        (∀ r ∈ cmdRecs c, s.pkg.portBusy r.port = false) ∧ s.pkg.retopos = []) ∧
    (let s := asked relight3 []
     let c := BitVec.ofNat 512 relight3
     Commanded s c ∧ fieldAt c 0 16 = 2 ∧ fieldAt c 52 12 = 0 ∧ cmdAt c 11 1 = 0 ∧ cmdAt c 12 52 = 0 ∧
      fieldAt c 64 24 = 2 ^ 3 ∧ (s.pkg.port 3).state = .dark) ∧
    (let s := asked partnew1 [⟨2, 2, 16#24, 0#24, 0, true⟩]
     let c := BitVec.ofNat 512 partnew1
     s.nextCommand = some c ∧ fieldAt c 0 16 = 3 ∧ partitionGood s c ∧
      subcubePackages (fieldAt c 64 24) (fieldAt c 96 24) = [s.pkg.regs.pkgid.toNat] ∧
      s.pkg.bridgeStatus c = 0 ∧ ∀ x ∈ s.pkg.partitions, x.id ≠ (askedPartition c).id ∧
        subcubesMeet x.base.toNat x.mask.toNat (fieldAt c 64 24) (fieldAt c 96 24) = false ∧
        ((askedPartition c).fn = 0 ∨ x.fn ≠ (askedPartition c).fn)) ∧
    (let s := (asked partend1 [⟨1, 0, 0#24, 0#24, 0, true⟩]).modPkg fun p => { p with carried := [(1, 0, [0])] }
     let c := BitVec.ofNat 512 partend1
     s.nextCommand = some c ∧ fieldAt c 0 16 = 4 ∧ fieldAt c 48 464 = 0 ∧
      s.pkg.carried.find? (·.1 == fieldAt c 32 16) = some (fieldAt c 32 16, 0, [s.pkg.regs.pkgid.toNat]) ∧
      (∀ x ∈ s.pkg.partCmds, fieldAt x.bits 32 16 ≠ fieldAt c 32 16) ∧
      s.pkg.partitions.any (·.id == fieldAt c 32 16) = true ∧ (∀ l ∈ s.pkg.launches, l.part ≠ fieldAt c 32 16) ∧
      ∀ l ∈ s.pkg.garnet.locks, l.part = fieldAt c 32 16 → l.holders = []) := by
  refine ⟨by decide +kernel, ⟨⟨by decide +kernel, by decide +kernel⟩, by decide +kernel⟩, ?_,
    ⟨⟨by decide +kernel, by decide +kernel⟩, by decide +kernel⟩, ⟨by decide +kernel, by decide +kernel, ?_, by decide +kernel, by decide +kernel, ?_⟩, ?_⟩
  · rintro b (rfl | rfl) <;> exact ⟨⟨by decide +kernel, by decide +kernel⟩, by decide +kernel⟩
  · unfold partitionGood; decide +kernel
  · decide +kernel
  · exact ⟨by decide +kernel, by decide +kernel, by decide +kernel, by decide +kernel, fun x (h : x ∈ []) => absurd h (by simp),
      by decide +kernel, by decide +kernel,
      fun l (h : l ∈ []) => absurd h (by simp)⟩

/-- A package with a parent in time over dimension 4. -/
def timed (step : BitVec 4) : State := (atPort (portIn .up)).modPkg fun p => { p with
  sync := some ⟨5#64, 9#64, 11#64, 0#32⟩, regs := { p.regs with bootStep := step, gmid := 4#20 } }

/-- A package that has held its time since 0. -/
def heldSince (t : Word) : State := State.reset.modPkg fun p => { p with
  ptime := t, holdAt := 0, regs := { p.regs with hold := true } }

/-- A package in a step of bring-up, with the outcomes that the step is to meet. -/
def booting (step : BitVec 4) (selfTest : Bool) (c : Carrier) : State := State.reset.modPkg fun p => { p with
  boot := some ⟨selfTest, 2#12, 4#16, [], none⟩, carrier := c, regs := { p.regs with bootStep := step, gm := true } }

theorem wit_HostAndFirmwareSteps :
    (∀ step, (timed step).pkg.regs.gm = false ∧ (timed step).pkg.parentDim ≠ 31 ∧
      (timed step).pkg.regs.bootStep = step ∧ ∃ x, (timed step).pkg.sync = some x) ∧
    (100#32).toNat + (0xFFFFFF9B#32).toNat < 2 ^ 32 ∧
    (∀ step selfTest c, ∃ b, (booting step selfTest c).pkg.boot = some b ∧ b.selfTest = selfTest ∧
      (booting step selfTest c).pkg.regs.bootStep = step ∧ (booting step selfTest c).pkg.regs.gm = true ∧
      (booting step selfTest c).pkg.carrier = c) ∧
    (∀ ns, ns = 19999#64 ∨ ns = 20000#64 →
      (heldSince ns).pkg.regs.gm = false ∧ (heldSince ns).pkg.parentDim = 31 ∧ (heldSince ns).pkg.regs.hold = true ∧
      ((heldSince ns).pkg.holdAt + 20000 ≤ (heldSince ns).pkg.ptime.toNat ↔ ns = 20000#64)) ∧
    (State.reset.pkg.regs.gm = false ∧ State.reset.pkg.parentDim = 31 ∧ State.reset.pkg.regs.hold = false) ∧
    ((serving []).pkg.regs.bootStep = 8#4 ∧
      (serving []).pkg.bridge.winpkg.toNat = (serving []).pkg.regs.pkgid.toNat % 4 ∧
      (serving []).pkg.windowAt 0 (100#64).toNat + [1#8, 2#8].length ≤ 2 ^ 57 ∧ (serving []).pkg.badStacks = [] ∧
      (serving []).pkg.windowQ = [] ∧ ∀ line, (serving []).pkg.lineBad line = false) ∧
    (1 ≤ 1 ∧ 1 ≤ 16 ∧ State.reset.pkg.launches = []) ∧
    (State.reset.pkg.carrier.firmwareCode ≠ 0 ∧ signed.firmwareCode = 0) ∧
    (4 ≤ (0x800000000000000#64).toNat / 2 ^ 57 % 8 ∧ (0x800000000000000#64).toNat % 2 ^ 57 % 32 = 0 ∧
      State.reset.pkg.lineBad ((0x800000000000000#64).toNat % 2 ^ 57 / 128) = false) ∧
    State.reset.pkg.regs.attcmd.getLsbD 1 = false ∧
    (∃ r s, (s : State).pkg.report = some r) ∧ (2#3 &&& 6#3 ≠ 0#3) := by
  refine ⟨fun step => ⟨rfl, ?_, rfl, _, rfl⟩, by decide, fun _ _ _ => ⟨_, rfl, rfl, rfl, rfl, rfl⟩, ?_, ⟨rfl, by decide, by decide⟩, ⟨rfl, by decide, by decide, rfl, rfl, fun line => by simp [Pkg.lineBad, serving,
      State.modPkg, State.reset, Pkg.reset, Store.get]⟩, ⟨by decide, by decide, rfl⟩, ⟨by decide +kernel, signed_passes⟩,
    ⟨by decide, by decide, by decide⟩, rfl, ⟨⟨0#64, 0#64, []⟩, State.reset.modPkg fun p => { p with report := some ⟨0#64, 0#64, []⟩ },
      rfl⟩, by decide⟩
  · have : (timed step).pkg.parentDim = 6 := by
      have h : ∀ step : BitVec 4, (timed step).pkg.parentDim = 6 := by decide +kernel
      exact h step
    omega
  · rintro ns (rfl | rfl) <;> exact ⟨rfl, by decide, rfl, by decide⟩


/-! Ill-formed instructions: one for each check of `Instr.wf` (R185, R186, R244, R285 and the tables they name). -/

def sp0 : LSp := scratch false
def idx : LIdx := gather
def tr : TArgs := tra 0#6
def atom0 : LStrong := { strong with n := 0#6, op := 0#4 }
def red0 : LStrong := { atom0 with order := 0#2, ws := false }
def eng0 : LEng := { eng with mode := 0#5 }
def x0 : XArgs := { xargs with arg := 0#6, back := false, bit := 0#5, comb := 0#4, sw := false, r := 0#2 }

theorem test_wf_refuses_scalar : List.all [
    Instr.fcmp ⟨0#5, 1#4, 4#3, .reg 3#6, .reg 4#6⟩, .fcvt ⟨0#5, false, 5#6, .reg 3#6, 10#7⟩,
    .shw 0#5 2#2 0#2 (.reg 3#6) 8#4, .shw 0#5 3#2 0#2 (.reg 3#6) 7#4, .tidr 0#5 false 5#6 (.reg 3#6) 22#5,
    .tidr 0#5 false 5#6 (.reg 3#6) 6#5, .tidr 0#5 false 5#6 (.reg 3#6) 7#5, .tidw 0#5 2#5 (.reg 3#6) (.reg 4#6),
    .tidw 0#5 31#5 (.reg 3#6) (.reg 4#6), .agw 0#5 0#3 (.reg 3#6) 12#4, .loop 0#5 4#6 0#3 0#12, .bloop 0#5 4#6 0#12]
    (fun i => !i.wf) = true := by decide

theorem test_wf_refuses_memory : List.all [
    Instr.ld { access with land := 0#7 }, .ldro { access with land := 0#7 }, .st { access with ws := true, land := 0#7 },
    .st { access with land := 1#7 }, .ldsp { sp0 with sp := true }, .stsp { sp0 with ws := true },
    .vld { whole false with sp := true }, .vst { whole false with ws := true }, .vldx { idx with size := 3#2 },
    .vldx { idx with sp := true }, .vstx { idx with size := 3#2 }, .vstx { idx with ws := true },
    .atom { atom0 with op := 12#4 }, .atom { atom0 with size := 1#2 }, .atom { atom0 with op := 10#4, size := 3#2 },
    .atom { atom0 with n := 1#6 }, .atom { atom0 with arv := true }, .cas { strong with size := 0#2 },
    .cas { strong with op := 1#4 }, .cas { strong with arv := true }, .red { red0 with op := 12#4 }, .red { red0 with op := 9#4 },
    .red { red0 with n := 1#6 }, .red { red0 with ws := true }, .red { red0 with order := 1#2 },
    .red { red0 with arv := true, d := 5#6 }, .heapins { atom0 with op := 1#4 }, .heapins { atom0 with size := 0#2, n := 1#6 },
    .heapins { atom0 with size := 0#2, arv := true }, .heapins { atom0 with size := 1#2 }]
    (fun i => !i.wf) = true := by decide

theorem test_wf_refuses_engines : List.all [
    Instr.take { eng0 with mode := 1#5 }, .enqt { eng0 with mode := 1#5 }, .enqtClose eng0, .arrive { eng0 with mode := 2#5 },
    .arriveSet eng0, .barinit { eng0 with mode := 8#5 }, .bararv { eng0 with mode := 1#5, b := 0#6 },
    .bararv { eng0 with b := 1#6 }, .enql { eng0 with b := 1#6 }, .enql { eng0 with b := 0#6, mode := 1#5 },
    .lktxn { lock with mode := 1#3 }, .lkacq { lock with mode := 0#3 }, .lkup { lock with mode := 0#3 },
    .lkdn { lock with mode := 0#3 }, .lkrel { lock with mode := 1#3 }, .lkrelAll { lock with mode := 1#3, a := 0#6 },
    .lkrelAll { lock with mode := 0#3, a := 1#6 }, .lkabt { lock with mode := 1#3, a := 0#6 },
    .lkabt { lock with mode := 0#3, a := 1#6 }, .lkqry { lock with mode := 1#3 }, .lkqry { lock with mode := 0#3, s := 0#6 }]
    (fun i => !i.wf) = true := by decide

/-- A type field that R186 does not list for the instruction. -/
theorem test_wf_refuses_types : List.all [
    Instr.vadd { vec with ty := .e4m3 }, .vsub { vec with ty := .e5m2 }, .vfma { vec with ty := .i32 }, .vfms { vec with ty := .i32 }, .vmul { vec with ty := .e4m3 },
    .vmin { vec with ty := .e4m3 }, .vmax { vec with ty := .e4m3 }, .vabs { vecOne with ty := .z32 },
    .vneg { vecOne with ty := .z8 }, .vand { vec with ty := .f32 }, .vor { vec with ty := .f32 }, .vxor { vec with ty := .f32 },
    .vshl { vec with ty := .f16 }, .vshr { vec with ty := .f32 }, .vsra { vec with ty := .z32 },
    .vcmp ⟨0#5, 0#3, false, 0#3, 1#3, .reg 3#6, .reg 4#6, .bf16⟩, .vcmp ⟨0#5, 0#3, false, 6#3, 1#3, .reg 3#6, .reg 4#6, .f32⟩,
    .vsel { vec with ty := .e4m3 }, .vmov { vecOne with ty := .e4m3 },
    .vbcast ⟨0#5, 0#3, false, 5#6, .reg 3#6, .e4m3⟩, .viota vec, .vexp2 vecInt, .vlog2 vecInt,
    .vrcp vecInt, .vrsq vecInt, .vrsum { vecOne with ty := .e5m2 }, .vrmax { vecOne with ty := .e5m2 },
    .vrmin { vecOne with ty := .e5m2 }, .vargmax { vecOne with ty := .e5m2 }, .vscan { vecOne with ty := .e5m2 },
    .vcvt ⟨0#5, 0#3, false, 5#6, .reg 3#6, 31#5⟩, .vpack vec,
    .vunpk ⟨0#5, 0#3, false, 5#6, .reg 3#6, false, .f32⟩, .vout ⟨0#5, 0#3, 0#1, .reg 3#6, .e4m3⟩,
    .kand ⟨0#5, false, 8#6, 1#3, 2#3⟩, .kor ⟨0#5, false, 8#6, 1#3, 2#3⟩, .knot ⟨0#5, false, 8#6, 1#3, 0#3⟩,
    .knot ⟨0#5, false, 1#6, 1#3, 2#3⟩, .kpopc ⟨0#5, false, 5#6, 1#3, 2#3⟩, .vexts ⟨0#5, false, 5#6, .reg 3#6, .reg 4#6, .e4m3⟩,
    .vinss ⟨0#5, false, 5#6, .reg 3#6, .reg 4#6, .e4m3⟩, .vmulh vec, .vadds vec, .vsubs vec]
    (fun i => !i.wf) = true := by decide

theorem test_wf_refuses_units : List.all [
    Instr.mpush { mat with row := 1#11 } (.reg 3#6), .mpushw { mat with row := 1#11 }, .mswapw { mat with row := 1#11 },
    .texp { tr with fmt := 1#6 }, .tqnt { tr with fmt := 8#6 }, .tcvt { tr with fmt := 31#6 }, .ttrni { tr with fmt := 0#6 },
    .ttrni { tr with d := 0#6, fmt := 3#6 }, .ttrno { tr with fmt := 0#6 }, .ttrno { tr with s := 0#6, fmt := 5#6 },
    .xch { x0 with dim := 24#5 }, .xch { x0 with arg := 1#6 }, .xch { x0 with back := true }, .xch { x0 with comb := 1#4 },
    .xch { x0 with bit := 1#5 }, .xcb { x0 with comb := 9#4 }, .xcb { x0 with bit := 1#5 }, .xsib { x0 with comb := 1#4 },
    .xsib { x0 with bit := 24#5 }, .xring { x0 with dim := 1#5 }, .xring { x0 with dim := 0#5, comb := 1#4 },
    .xring { x0 with dim := 0#5, bit := 1#5 }, .xsend { x0 with comb := 1#4 }, .xsend { x0 with bit := 1#5 },
    .xrecv { x0 with comb := 1#4 }, .xrecv { x0 with bit := 1#5 }, .xfan { x0 with dim := 1#5 },
    .xfan { x0 with dim := 0#5, back := true }, .xbar { x0 with dim := 0#5 }, .xbar { x0 with dim := 0#5, ch := 0#6, bit := 1#5 },
    .xbarSwap { x0 with dim := 0#5 }, .chw { x0 with dim := 1#5 }, .chw { x0 with dim := 0#5, sw := true },
    .chw { x0 with dim := 0#5, r := 1#2 }]
    (fun i => !i.wf) = true := by decide

/-- The base terms of the lists above are well-formed: each check fails for the field it names. -/
theorem test_wf_accepts : List.all [Instr.ldsp sp0, .vld (whole false), .vldx idx, .atom atom0, .red red0, .take eng0,
    .vadd vec, .vabs vecOne, .viota { vec with ty := .i32 }, .mpushw mat, .tqnt tr, .xch x0, .xsend x0, .ttrno { tr with s := 0#6 }]
    Instr.wf = true := by decide


/-! Words written from the layouts of R161-R170 and the opcode maps R181-R189: value and low bit of each field. -/

def word (l : List (Nat × Nat)) : Nat := (l.map fun x => x.1 * 2 ^ x.2).sum

/-- R163, R181, R182, R200: `?p2 CMP.lt p4, s7, #-3`; `SRD s9, 0x013`; `PAND p3, p1, !p9`; `FADD s1, q2, s2`. -/
theorem test_words_scalar :
    decodeTableWord 32 (word [(0x16, 26), (2, 21), (4, 17), (2, 14), (7, 7), (0x7D, 0)]) =
      some (.cmp ⟨2#5, 4#4, 2#3, .reg 7#6, .imm 29#5⟩) ∧
    decodeTableWord 32 (word [(0x2C, 26), (9, 14), (0x13, 2)]) = some (.srd 0#5 false 9#6 0x13#12) ∧
    decodeTableWord 32 (word [(0x29, 26), (3, 14), (1, 7), (1, 4), (9, 0)]) =
      some (.pand ⟨0#5, 3#4, false, 1#4, true, 9#4⟩) ∧
    decodeTableWord 32 (word [(0x22, 26), (1, 14), (0x42, 7), (2, 0)]) =
      some (.fadd ⟨0#5, false, 1#6, .latch 2#3, .reg 2#6⟩) := by decide

/-- R164, R183: `WAIT.all s5`; `BRF` on `f3` set, offset 7. -/
theorem test_words_control :
    Slot.decode .c (word [(0x07, 26), (5, 15), (1, 14)]) = .ok (.wait 0#5 5#6 true) ∧
    Slot.decode .c (word [(0x08, 26), (3, 16), (1, 15), (7, 0)]) = .ok (.brf 0#5 3#5 true 7#15) := by decide

/-- R326, R269: the words of chapter 16; `CAS.d.acq.pkg`; `FENCE.sc.cube` by R273. -/
theorem test_words_memory :
    decodeTableWord 40 0x5C01805878 = some (.lkacq ⟨0#5, 6#6, 22#6, 3#5, 6#3⟩) ∧
    decodeTableWord 40 0x5805C05860 = some (.lktxn ⟨0#5, 23#6, 22#6, 3#5, 0#3⟩) ∧
    decodeTableWord 40 0x30030D0340 = some (.red ⟨0#5, false, 12#6, 13#6, 0#4, 0#6, false, 3#2, 2#3, 0#2, false⟩) := by decide

/-- R166, R187: the word of chapter 8. -/
theorem test_word_vcmp : Slot.decode .v0 0x40009050C0 =
    .ok (.vcmp ⟨0#5, 0#3, false, 2#3, 2#3, .reg 5#6, .reg 6#6, .f32⟩) := by decide

/-- R168, R169, R170: `MDRAIN` of shape 2 to `v5`, row 3; `TTRNI` of `v4` at 16 bits; the X words of chapter 15. -/
theorem test_words_units :
    Slot.decode .m0 (word [(0x06, 26), (2, 18), (5, 11), (3, 0)]) = .ok (.mdrain ⟨0#5, false, 2#2, 3#11⟩ (.reg 5#6)) ∧
    Slot.decode .t (word [(0x04, 26), (1, 18), (4, 6), (1, 0)]) = .ok (.ttrni ⟨0#5, false, 1#2, 0#6, 4#6, 1#6⟩) ∧
    decodeTableWord 48 0x0C0420940001 = some (.xsib ⟨0#5, false, 1#2, 1#5, 1#6, 5#5, 0#4, 0#6, false, 1#5⟩) ∧
    decodeTableWord 48 0x100801241200 = some (.xring ⟨0#5, false, 2#2, 0#5, 2#6, 9#5, 0#4, 18#6, false, 0#5⟩) := by decide

/-- R171, R181-R189: unassigned opcodes, a reserved bit of `SRD`, and an immediate in an M slot are refused. -/
theorem test_reserved_refused : List.all [(Slot.s0, 0xDC000000), (.c, 0x88000000), (.l, 0x7800000000), (.v0, 0xB400000000),
    (.m0, 0x20000000), (.t, 0x18000000), (.x, 0x280000000000), (.s0, 0xB0000001), (.m0, word [(0x04, 26), (0x60, 11)])]
    (fun x => match Slot.decode x.1 x.2 with
      | .error _ => true
      | .ok _ => false) = true := by decide

/-! Steps: what is due after one instruction, from the rules and examples of the spec. -/

/-- The value due, with the cycles to its landing and its flags. -/
def dueOf (o : Out) : List (Nat × Nat × Nat) := match o with
  | .next t => t.here.pipe.due.map fun x => (x.value.toNat, x.land - x.issue, x.status.toNat)
  | _ => []

def withS (l : Store Word) : State := onDie fun d => { d with regs.s := l }

/-- R193: addition wraps; a shift takes six bits of its amount. -/
theorem test_add_wraps : dueOf (exec (.add ⟨0#5, false, 5#6, .reg 3#6, .imm 1#5⟩) (withS [(3, 0xFFFFFFFFFFFFFFFF#64)])) =
    [(0, 1, 0)] := by decide +kernel
theorem test_shl_by_minus_one : dueOf (exec (.shl ⟨0#5, false, 5#6, .reg 5#6, .imm 31#5⟩) (withS [(5, 1#64)])) =
    [(0x8000000000000000, 1, 0)] := by decide +kernel

/-- R194: -2^63 / -1; division by zero sets `FPDZ` (bit 7). -/
theorem test_div_corner : dueOf (exec (.div two) (withS [(3, 0x8000000000000000#64), (4, 0xFFFFFFFFFFFFFFFF#64)])) =
    [(0x8000000000000000, 18, 0)] := by decide +kernel
theorem test_rem_zero : dueOf (exec (.rem two) (withS [(3, 7#64)])) = [(7, 18, 128)] := by decide +kernel

/-- R196: a field that would run past bit 63 is cut there; `SX` extends it. -/
theorem test_ext_cut : dueOf (exec (.ext two) (withS [(3, 0x8000000000000000#64), (4, 0x1FFE#64)])) =
    [(0xFFFFFFFFFFFFFFFE, 1, 0)] := by decide +kernel

/-- R197: the second step of the example. -/
theorem test_movh : dueOf (exec (.movh ⟨0#5, false, 5#6, 0x3F00#14⟩) (withS [(5, 7#64)])) = [(0x1FF00, 1, 0)] := by decide +kernel

/-- R15, R19: `DMAPLO` of the example: d0, d1, d2 are 4, 1, 6. -/
theorem test_dmap : dmap (BitVec.ofNat 1024 (word [(3, 704), (4, 832), (1, 837), (6, 842)])) 0 = 0xFFFFFFFFFFF9824#60 := by
  decide +kernel

/-- R87: 500 overflows E4M3; 464 is a tie that goes to 448. -/
theorem test_e4m3 : FFmt.e4m3.round .fixed (FVal.ofInt 500) = (0x7E, fSAT ||| fOVF ||| fINX) ∧
    (FFmt.e4m3.round .fixed (FVal.ofInt 464)).1 = 0x7E ∧ (FFmt.e4m3.round ⟨0, true⟩ (FVal.ofInt 500)).1 = 0x7F := by
  decide +kernel

/-- R84: the block of the example, 5, -2.6, 0.3 and zeros, as F32. -/
theorem test_quant : (quantBlock (([0x40A00000, 0xC0266666, 0x3E99999A].map f32v) ++ List.replicate 29 (f32v 0))) =
    ([8, 13, 1] ++ List.replicate 29 0, 0x7F, 0x4A, [0#10, fINX, fINX] ++ List.replicate 29 0#10) := by decide +kernel

/-- R100-R103: exact paths set no flag. -/
theorem test_transcendental : fexp2 (f32v 0x40400000) = (0x41000000, 0#10) ∧ flog (f32v 0x3E800000) = (0xC0000000, 0#10) ∧
    frcp (f32v 0xC1000000) = (0xBE000000, 0#10) ∧ frsq (f32v 0x40800000) = (0x3F000000, 0#10) ∧
    (frsq (f32v 0x41000000)).2 = fINX := by decide +kernel

/-- R272: the four inserts of the example, in a record of capacity 2. -/
theorem test_heap :
    heapInsert 2 [] 0x3F00000000000007 = (0, 0, [0x3F00000000000007]) ∧
    heapInsert 2 [0x3F00000000000007] 0x3F66666600000003 = (0, 0, [0x3F00000000000007, 0x3F66666600000003]) ∧
    heapInsert 2 [0x3F00000000000007, 0x3F66666600000003] 0x3F00000000000009 =
      (2, 0, [0x3F00000000000007, 0x3F66666600000003]) ∧
    heapInsert 2 [0x3F00000000000007, 0x3F66666600000003] 0x3F33333300000004 =
      (1, 7, [0x3F33333300000004, 0x3F66666600000003]) := by decide +kernel

/-- R302: the ring over `d0` and `d2` from rank 0 and from rank 5. -/
theorem test_ring : ringNeighbours 0 5 false = (1, 4) ∧ ringNeighbours 5 5 false = (4, 1) ∧ ringNeighbours 7 5 true = (3, 6) := by
  decide +kernel

/-- R362: the example of chapter 18: P at 0x100, J at 0x200, G at 0x300. -/
def regions3 : State := State.reset.modPkg fun p => { p with mem := [
  (0x100, 1), (0x110, 0xFF), (0x118, 0x68), (0x119, 0x0B), (0x120, 64), (0x130, 0x10), (0x131, 0x27),
  (0x200, 2), (0x209, 1), (0x210, 0x11), (0x218, 13), (0x230, 0x20), (0x231, 0x4E), (0x300, 3), (0x309, 2)] }

theorem test_effective : (regions3.effPrio 0x100, regions3.effPrio 0x200, regions3.effPrio 0x300) = (8, 11, 11) ∧
    regions3.effDies 0x300 = 64 ∧ Budget.locks.limit regions3 (regions3.chainOr 0x300) = 10000 := by decide +kernel

/-- R122: the check value of CRC-32C over the digits 1 to 9; R427: SHA-256 of `abc` (FIPS 180-4). -/
theorem test_crc : crc32c ((List.range 9).map fun i => BitVec.ofNat 8 (0x31 + i)) = 0xE3069283#32 := by decide +kernel
theorem test_sha : beNat (sha256 [0x61#8, 0x62#8, 0x63#8]) =
    0xba7816bf8f01cfea414140de5dae2223b00361a396177a9cb410ff61f20015ad := by decide +kernel


/-! Every slot instruction from a word that the spec's layouts give, each field with a value of its own. The six rows of
`KWR` share one word; which object it writes is read at issue (R354). -/

/-- The words of a list decode in a slot to its instructions. -/
def decodes (k : Slot) (l : List (Nat × Instr)) : Bool := l.all fun x => Slot.decode k x.1 == .ok x.2

/-- General S layout (R163): predicate 2, `WS`, destination 9, source A `q2`, source B `#5`. -/
def wordS (op : Nat) : Nat := word [(op, 26), (2, 21), (1, 20), (9, 14), (0x42, 7), (0x65, 0)]
def argsS : SArgs := ⟨2#5, true, 9#6, .latch 2#3, .imm 5#5⟩

theorem test_every_word_s_two : decodes .s0 ([(0x01, Instr.add), (0x02, .sub), (0x03, .and), (0x04, .or), (0x05, .xor),
    (0x06, .andn), (0x07, .shl), (0x08, .shr), (0x09, .sra), (0x0A, .rotr), (0x0B, .mul), (0x0C, .mulh), (0x0D, .mulhz),
    (0x0E, .div), (0x0F, .divz), (0x10, .rem), (0x11, .remz), (0x12, .min), (0x13, .max), (0x14, .minz), (0x15, .maxz),
    (0x17, .sel), (0x20, .ext), (0x21, .ins), (0x22, .fadd), (0x23, .fsub), (0x24, .fmul), (0x25, .fmin),
    (0x26, .fmax)].map fun x => (wordS x.1, x.2 argsS)) = true := by decide +kernel

/-- One source (R195, R208): source B zero. The privileged ones name registers (R354-R358). -/
def wordS1 (op : Nat) : Nat := word [(op, 26), (2, 21), (1, 20), (9, 14), (0x42, 7)]
def argsS1 : SOne := ⟨2#5, true, 9#6, .latch 2#3⟩

theorem test_every_word_s_one : decodes .s0 ([(0x1A, Instr.popc), (0x1B, .clz), (0x1C, .ctz), (0x1D, .brev), (0x1E, .gray),
    (0x1F, .igray), (0x34, .partner), (0x38, .krd)].map fun x => (wordS1 x.1, x.2 argsS1)) = true := by decide +kernel

theorem test_every_word_s_rest : decodes .s0 [
    (word [(0x00, 26), (2, 21)], .snop 2#5),
    (word [(0x16, 26), (2, 21), (4, 17), (6, 14), (7, 7), (0x7D, 0)], .cmp ⟨2#5, 4#4, 6#3, .reg 7#6, .imm 29#5⟩),
    (word [(0x27, 26), (2, 21), (4, 17), (3, 14), (7, 7), (8, 0)], .fcmp ⟨2#5, 4#4, 3#3, .reg 7#6, .reg 8#6⟩),
    (word [(0x18, 26), (2, 21), (1, 20), (9, 14), (0x2001, 0)], .movi ⟨2#5, true, 9#6, 0x2001#14⟩),
    (word [(0x19, 26), (2, 21), (1, 20), (9, 14), (0x2001, 0)], .movh ⟨2#5, true, 9#6, 0x2001#14⟩),
    (word [(0x28, 26), (2, 21), (1, 20), (9, 14), (7, 7), (6, 0)], .fcvt ⟨2#5, true, 9#6, .reg 7#6, 6#7⟩),
    (word [(0x29, 26), (2, 21), (3, 14), (1, 11), (1, 7), (0, 4), (9, 0)], .pand ⟨2#5, 3#4, true, 1#4, false, 9#4⟩),
    (word [(0x2A, 26), (2, 21), (3, 14), (0, 11), (1, 7), (1, 4), (9, 0)], .por ⟨2#5, 3#4, false, 1#4, true, 9#4⟩),
    (word [(0x2B, 26), (2, 21), (3, 14), (1, 11), (1, 7), (1, 4), (9, 0)], .pxor ⟨2#5, 3#4, true, 1#4, true, 9#4⟩),
    (word [(0x2C, 26), (2, 21), (1, 20), (9, 14), (0x813, 2)], .srd 2#5 true 9#6 0x813#12),
    (word [(0x2D, 26), (2, 21), (9, 14), (0x103, 2)], .swr 2#5 9#6 0x103#12),
    (word [(0x2E, 26), (2, 21), (1, 18), (2, 16), (7, 7), (9, 0)], .shw 2#5 1#2 2#2 (.reg 7#6) 9#4),
    (word [(0x2F, 26), (2, 21), (1, 20), (9, 14), (7, 7), (21, 0)], .tidr 2#5 true 9#6 (.reg 7#6) 21#5),
    (word [(0x30, 26), (2, 21), (3, 14), (7, 7), (8, 0)], .tidw 2#5 3#5 (.reg 7#6) (.reg 8#6)),
    (word [(0x31, 26), (2, 21), (5, 17), (7, 7), (11, 0)], .agw 2#5 5#3 (.reg 7#6) 11#4),
    (word [(0x32, 26), (2, 21), (7, 7)], .flgs ⟨2#5, .reg 7#6⟩), (word [(0x33, 26), (2, 21), (7, 7)], .flgc ⟨2#5, .reg 7#6⟩),
    (word [(0x39, 26), (2, 21), (7, 7), (8, 0)], .kwrDiestateFence ⟨2#5, .reg 7#6, .reg 8#6⟩),
    (word [(0x3A, 26), (2, 21), (7, 7), (8, 0)], .tlbinv ⟨2#5, .reg 7#6, .reg 8#6⟩),
    (word [(0x3B, 26), (2, 21), (7, 7)], .ctxsv ⟨2#5, .reg 7#6⟩), (word [(0x3C, 26), (2, 21), (7, 7)], .ctxrs ⟨2#5, .reg 7#6⟩),
    (word [(0x3D, 26), (2, 21), (7, 7)], .lkmw ⟨2#5, .reg 7#6⟩),
    (word [(0x3E, 26), (2, 21), (7, 7), (8, 0)], .rtbw ⟨2#5, .reg 7#6, .reg 8#6⟩)] = true := by decide +kernel

/-- R164, R183, R349. -/
theorem test_every_word_c : decodes .c [
    (word [(0x00, 26), (2, 21)], .cnop 2#5), (word [(0x01, 26), (2, 21), (0x1FFFFE, 0)], .br 2#5 0x1FFFFE#21),
    (word [(0x02, 26), (2, 21), (7, 15)], .jmp 2#5 7#6), (word [(0x03, 26), (2, 21), (9, 0)], .call 2#5 9#21),
    (word [(0x04, 26), (2, 21)], .ret 2#5), (word [(0x05, 26), (2, 21), (7, 15), (3, 12), (9, 0)], .loop 2#5 7#6 3#3 9#12),
    (word [(0x06, 26), (2, 21), (7, 15), (9, 0)], .bloop 2#5 7#6 9#12), (word [(0x07, 26), (2, 21), (7, 15)], .wait 2#5 7#6 false),
    (word [(0x08, 26), (2, 21), (3, 16), (9, 0)], .brf 2#5 3#5 false 9#15),
    (word [(0x09, 26), (2, 21), (0x4001, 0)], .brsw 2#5 0x4001#15), (word [(0x0A, 26), (2, 21)], .ifence 2#5),
    (word [(0x0B, 26), (2, 21), (0x8001, 0)], .trap 2#5 0x8001#16), (word [(0x0C, 26), (2, 21)], .tret 2#5),
    (word [(0x0D, 26), (2, 21), (0x8001, 0)], .halt 2#5 0x8001#16), (word [(0x0E, 26), (2, 21), (7, 15)], .mwait 2#5 7#6),
    (word [(0x0F, 26), (2, 21)], .sleept 2#5), (word [(0x10, 26), (2, 21)], .kcall 2#5), (word [(0x11, 26), (2, 21)], .brkpt 2#5),
    (word [(0x20, 26), (2, 21)], .eret 2#5), (word [(0x21, 26), (2, 21), (0, 16), (5, 0)], .kstopKill 2#5 5#16),
    (word [(0x21, 26), (2, 21), (1, 16), (5, 0)], .kstopFault 2#5 5#16),
    (word [(0x21, 26), (2, 21), (2, 16), (5, 0)], .kstopDesched 2#5 5#16)] = true := by decide +kernel

/-- R165, R265, R269, R273, R274: predicate 2, `WS` where there is one. -/
theorem test_every_word_l_memory : decodes .l [
    (word [(0x00, 34), (2, 29)], .lnop 2#5),
    (word [(0x01, 34), (2, 29), (1, 28), (5, 22), (4, 16), (0x3F, 10), (3, 8), (12, 1), (1, 0)],
      .ld ⟨2#5, true, 5#6, 4#6, 0x3F#6, 3#2, 12#7, true⟩),
    (word [(0x02, 34), (2, 29), (5, 22), (4, 16), (3, 10), (1, 8), (1, 0)], .st ⟨2#5, false, 5#6, 4#6, 3#6, 1#2, 0#7, true⟩),
    (word [(0x03, 34), (2, 29), (5, 22), (4, 16), (3, 10), (2, 8), (7, 1)], .ldro ⟨2#5, false, 5#6, 4#6, 3#6, 2#2, 7#7, false⟩),
    (word [(0x04, 34), (2, 29), (1, 28), (5, 22), (4, 16), (0x801, 4), (2, 2)], .ldsp ⟨2#5, true, 5#6, 4#6, 0x801#12, 2#2, false⟩),
    (word [(0x05, 34), (2, 29), (5, 22), (4, 16), (0x801, 4), (3, 2), (1, 1)], .stsp ⟨2#5, false, 5#6, 4#6, 0x801#12, 3#2, true⟩),
    (word [(0x06, 34), (2, 29), (1, 28), (5, 22), (4, 16), (0x2001, 2)], .vld ⟨2#5, true, 5#6, 4#6, 0x2001#14, false⟩),
    (word [(0x07, 34), (2, 29), (5, 22), (4, 16), (0x2001, 2), (1, 1)], .vst ⟨2#5, false, 5#6, 4#6, 0x2001#14, true⟩),
    (word [(0x08, 34), (2, 29), (1, 28), (5, 22), (4, 16), (6, 10), (1, 8), (3, 5)], .vldx ⟨2#5, true, 5#6, 4#6, 6#6, 1#2, 3#3, false⟩),
    (word [(0x09, 34), (2, 29), (5, 22), (4, 16), (6, 10), (2, 8), (3, 5), (1, 1)], .vstx ⟨2#5, false, 5#6, 4#6, 6#6, 2#2, 3#3, true⟩),
    (word [(0x0A, 34), (2, 29), (1, 28), (9, 22), (12, 16), (7, 12), (3, 8), (5, 5), (3, 3), (1, 0)],
      .atom ⟨2#5, true, 9#6, 12#6, 7#4, 0#6, false, 3#2, 5#3, 3#2, true⟩),
    (word [(0x0B, 34), (2, 29), (9, 22), (12, 16), (13, 10), (2, 8), (1, 5), (1, 3)],
      .cas ⟨2#5, false, 9#6, 12#6, 0#4, 13#6, false, 2#2, 1#3, 1#2, false⟩),
    (word [(0x0C, 34), (2, 29), (8, 22), (12, 16), (10, 12), (1, 11), (2, 8), (2, 5), (2, 3)],
      .red ⟨2#5, false, 8#6, 12#6, 10#4, 0#6, true, 2#2, 2#3, 2#2, false⟩),
    (word [(0x0D, 34), (2, 29), (9, 22), (12, 16), (2, 5)], .heapins ⟨2#5, false, 9#6, 12#6, 0#4, 0#6, false, 0#2, 2#3, 0#2, false⟩),
    (word [(0x0E, 34), (2, 29), (2, 5), (1, 2)], .fenceAcq ⟨2#5, 2#3, false⟩),
    (word [(0x0E, 34), (2, 29), (2, 5), (2, 2), (1, 1)], .fenceRel ⟨2#5, 2#3, true⟩),
    (word [(0x0E, 34), (2, 29), (3, 5), (3, 2)], .fenceAcqrel ⟨2#5, 3#3, false⟩),
    (word [(0x0E, 34), (2, 29), (5, 5), (4, 2)], .fenceSc ⟨2#5, 5#3, false⟩),
    (word [(0x0E, 34), (2, 29), (1, 1)], .fenceRo 2#5), (word [(0x0F, 34), (2, 29), (7, 16)], .mon 2#5 7#6),
    (word [(0x0F, 34), (2, 29), (7, 16), (1, 15)], .monOff 2#5 7#6), (word [(0x10, 34), (2, 29), (7, 16)], .copy 2#5 7#6)] =
    true := by decide +kernel

/-- R276, R278-R283, R326: registers 20, 21, 22, flag 3. -/
def wordE (op mode : Nat) : Nat := word [(op, 34), (2, 29), (20, 22), (21, 16), (22, 10), (3, 5), (mode, 0)]
def argsE (mode : BitVec 5) : LEng := ⟨2#5, 20#6, 21#6, 22#6, 3#5, mode⟩
def wordK (op a mode all : Nat) : Nat := word [(op, 34), (2, 29), (a, 22), (22, 10), (3, 5), (mode, 2), (all, 1)]
def argsK (a : BitVec 6) (mode : BitVec 3) : LLock := ⟨2#5, a, 22#6, 3#5, mode⟩

theorem test_every_word_l_engines : decodes .l [
    (wordE 0x11 0, .take (argsE 0#5)), (wordE 0x12 0, .enqt (argsE 0#5)), (wordE 0x12 1, .enqtClose (argsE 1#5)),
    (wordE 0x13 0, .arrive (argsE 0#5)), (wordE 0x13 1, .arriveSet (argsE 1#5)), (wordE 0x14 5, .barinit (argsE 5#5)),
    (word [(0x15, 34), (2, 29), (20, 22), (22, 10), (3, 5)], .bararv { argsE 0#5 with b := 0#6 }),
    (word [(0x1D, 34), (2, 29), (20, 22), (22, 10), (3, 5)], .enql { argsE 0#5 with b := 0#6 }),
    (wordK 0x16 20 0 0, .lktxn (argsK 20#6 0#3)), (wordK 0x17 20 7 0, .lkacq (argsK 20#6 7#3)),
    (wordK 0x18 20 6 0, .lkup (argsK 20#6 6#3)), (wordK 0x19 20 1 0, .lkdn (argsK 20#6 1#3)),
    (wordK 0x1A 20 0 0, .lkrel (argsK 20#6 0#3)), (wordK 0x1A 0 0 1, .lkrelAll (argsK 0#6 0#3)),
    (wordK 0x1B 0 0 0, .lkabt (argsK 0#6 0#3)), (wordK 0x1C 20 0 0, .lkqry (argsK 20#6 0#3))] = true := by decide +kernel

/-- R166, R167, R221: predicate 2, mask 3, `WS`, destination 9, sources `v7` and `q2`. -/
def wordV (op a b ty : Nat) : Nat := word [(op, 34), (2, 29), (3, 26), (1, 25), (9, 19), (a, 12), (b, 5), (ty, 0)]
def argsV (ty : VType) : VArgs := ⟨2#5, 3#3, true, 9#6, .reg 7#6, .latch 2#3, ty⟩
def argsV1 (ty : VType) : VOne := ⟨2#5, 3#3, true, 9#6, .reg 7#6, ty⟩

theorem test_every_word_v_two : decodes .v0 ([(0x01, Instr.vadd), (0x02, .vsub), (0x03, .vmul), (0x06, .vmin), (0x07, .vmax),
    (0x0A, .vand), (0x0B, .vor), (0x0C, .vxor), (0x0D, .vshl), (0x0E, .vshr), (0x0F, .vsra), (0x11, .vsel), (0x14, .viota),
    (0x1E, .vperm), (0x1F, .vrotl), (0x21, .vpack), (0x2A, .vmulh), (0x2B, .vadds), (0x2C, .vsubs)].map fun x =>
      (wordV x.1 7 0x42 0x09, x.2 (argsV .i16))) = true ∧
    decodes .v1 ([(0x04, Instr.vfma), (0x05, .vfms)].map fun x => (wordV x.1 7 0x42 0, x.2 (argsV .f32))) = true := by
  decide +kernel

theorem test_every_word_v_one : decodes .v0 ([(0x08, Instr.vabs), (0x09, .vneg), (0x12, .vmov), (0x15, .vexp2), (0x16, .vlog2),
    (0x17, .vrcp), (0x18, .vrsq), (0x19, .vrsum), (0x1A, .vrmax), (0x1B, .vrmin), (0x1C, .vargmax), (0x1D, .vscan)].map fun x =>
      (wordV x.1 7 0 0x01, x.2 (argsV1 .bf16))) = true := by decide +kernel

theorem test_every_word_v_rest : decodes .v0 [
    (word [(0x00, 34), (2, 29)], .vnop 2#5),
    (word [(0x10, 34), (2, 29), (3, 26), (1, 25), (4, 22), (5, 19), (7, 12), (8, 5)],
      .vcmp ⟨2#5, 3#3, true, 4#3, 5#3, .reg 7#6, .reg 8#6, .f32⟩),
    (wordV 0x13 0x7F 0 0x09, .vbcast ⟨2#5, 3#3, true, 9#6, .imm 31#5, .i16⟩),
    (wordV 0x20 7 0 0x1E, .vcvt ⟨2#5, 3#3, true, 9#6, .reg 7#6, 0x1E#5⟩),
    (wordV 0x22 7 0x61 0x01, .vunpk ⟨2#5, 3#3, true, 9#6, .reg 7#6, true, .bf16⟩),
    (word [(0x23, 34), (2, 29), (3, 26), (1, 19), (7, 12)], .vout ⟨2#5, 3#3, 1#1, .reg 7#6, .f32⟩),
    (word [(0x24, 34), (2, 29), (1, 25), (1, 19), (2, 12), (3, 5)], .kand ⟨2#5, true, 1#6, 2#3, 3#3⟩),
    (word [(0x25, 34), (2, 29), (1, 25), (1, 19), (2, 12), (3, 5)], .kor ⟨2#5, true, 1#6, 2#3, 3#3⟩),
    (word [(0x26, 34), (2, 29), (1, 25), (1, 19), (2, 12)], .knot ⟨2#5, true, 1#6, 2#3, 0#3⟩),
    (word [(0x27, 34), (2, 29), (1, 25), (9, 19), (2, 12)], .kpopc ⟨2#5, true, 9#6, 2#3, 0#3⟩),
    (word [(0x28, 34), (2, 29), (1, 25), (9, 19), (7, 12), (6, 5), (0x09, 0)], .vexts ⟨2#5, true, 9#6, .reg 7#6, .reg 6#6, .i16⟩),
    (word [(0x29, 34), (2, 29), (1, 25), (9, 19), (7, 12), (6, 5), (0x09, 0)], .vinss ⟨2#5, true, 9#6, .reg 7#6, .reg 6#6, .i16⟩)] =
    true := by decide +kernel

/-- R168, R251; R169. -/
theorem test_every_word_m_t : decodes .m0 [
    (word [(0x00, 26), (2, 21)], .mnop 2#5),
    (word [(0x01, 26), (2, 21), (1, 20), (3, 18), (0x4A, 11)], .mpush ⟨2#5, true, 3#2, 0#11⟩ (.port 2#2)),
    (word [(0x02, 26), (2, 21), (1, 20), (3, 18)], .mpushw ⟨2#5, true, 3#2, 0#11⟩),
    (word [(0x03, 26), (2, 21), (1, 20), (3, 18)], .mswapw ⟨2#5, true, 3#2, 0#11⟩),
    (word [(0x04, 26), (2, 21), (3, 18), (5, 11), (0x401, 0)], .mmul ⟨2#5, false, 3#2, 0x401#11⟩ (.reg 5#6)),
    (word [(0x05, 26), (2, 21), (3, 18), (0x42, 11), (0x401, 0)], .macc ⟨2#5, false, 3#2, 0x401#11⟩ (.latch 2#3)),
    (word [(0x06, 26), (2, 21), (3, 18), (0x41, 11), (0x401, 0)], .mdrain ⟨2#5, false, 3#2, 0x401#11⟩ (.port 1#1)),
    (word [(0x07, 26), (2, 21), (3, 18), (0x401, 0)], .mclr ⟨2#5, false, 3#2, 0x401#11⟩)] = true ∧
    decodes .t [
    (word [(0x00, 26), (2, 21)], .tnop 2#5),
    (word [(0x01, 26), (2, 21), (1, 20), (3, 18), (9, 12), (7, 6)], .texp ⟨2#5, true, 3#2, 9#6, 7#6, 0#6⟩),
    (word [(0x02, 26), (2, 21), (3, 18), (9, 12), (7, 6), (5, 0)], .tqnt ⟨2#5, false, 3#2, 9#6, 7#6, 5#6⟩),
    (word [(0x03, 26), (2, 21), (3, 18), (9, 12), (7, 6), (30, 0)], .tcvt ⟨2#5, false, 3#2, 9#6, 7#6, 30#6⟩),
    (word [(0x04, 26), (2, 21), (3, 18), (7, 6), (6, 0)], .ttrni ⟨2#5, false, 3#2, 0#6, 7#6, 6#6⟩),
    (word [(0x05, 26), (2, 21), (3, 18), (9, 12), (1, 0)], .ttrno ⟨2#5, false, 3#2, 9#6, 0#6, 1#6⟩)] = true := by decide +kernel

/-- R170, R285: predicate 2, `SW`, shape register 3, channel 8, flag 6. -/
def wordX (op : Nat) (l : List (Nat × Nat)) : Nat := word ([(op, 42), (2, 37), (1, 36), (3, 34), (8, 23), (6, 18)] ++ l)
def argsX : XArgs := ⟨2#5, true, 3#2, 0#5, 8#6, 6#5, 0#4, 0#6, false, 0#5⟩

theorem test_every_word_x : decodes .x [
    (word [(0x00, 42), (2, 37)], .xnop 2#5), (wordX 0x01 [(23, 29)], .xch { argsX with dim := 23#5 }),
    (wordX 0x02 [(5, 29), (8, 14)], .xcb { argsX with dim := 5#5, comb := 8#4 }),
    (wordX 0x03 [(5, 29), (23, 0)], .xsib { argsX with dim := 5#5, bit := 23#5 }),
    (wordX 0x04 [(9, 8), (1, 7)], .xring { argsX with arg := 9#6, back := true }),
    (wordX 0x05 [(5, 29)], .xsend { argsX with dim := 5#5 }), (wordX 0x06 [(5, 29)], .xrecv { argsX with dim := 5#5 }),
    (wordX 0x07 [(10, 8)], .xfan { argsX with arg := 10#6 }),
    (word [(0x08, 42), (2, 37), (1, 36), (3, 34), (6, 18), (11, 8)], .xbar { argsX with ch := 0#6, arg := 11#6 }),
    (word [(0x08, 42), (2, 37), (1, 36), (3, 34), (6, 18), (11, 8), (1, 6)], .xbarSwap { argsX with ch := 0#6, arg := 11#6 }),
    (word [(0x09, 42), (2, 37), (8, 23), (6, 18), (12, 8)], .chw { argsX with sw := false, r := 0#2, arg := 12#6 })] = true := by
  decide +kernel

end Sys2Proof.Tests
end

section
/-! PROOFS. The integer, bit and field instructions of chapter 09 (R192-R199): the machine's word operations compute the
integers and bits that the rules name, and a slot that executes schedules exactly that result. -/
namespace Sys2Proof.Claims
open Sys2Proof.Machine

/-! Words given bit by bit. -/

/-- The number with the bits below `n` that a predicate holds of. -/
def bitSum (f : Nat → Bool) (n : Nat) : Nat := (((List.range n).filter f).map (2 ^ ·)).sum

theorem ofBits_eq_bitSum (f : Nat → Bool) : ofBits f = BitVec.ofNat 64 (bitSum f 64) := rfl

theorem bitSum_succ (f : Nat → Bool) (n : Nat) :
    bitSum f (n + 1) = bitSum f n + if f n then 2 ^ n else 0 := by
  unfold bitSum
  rw [List.range_succ, List.filter_append, List.map_append, List.sum_append]
  cases h : f n <;> simp [h]

theorem bitSum_lt (f : Nat → Bool) (n : Nat) : bitSum f n < 2 ^ n := by
  induction n with
  | zero => simp [bitSum]
  | succ n ih =>
    rw [bitSum_succ, Nat.pow_succ]
    split <;> omega

theorem testBit_bitSum (f : Nat → Bool) (n i : Nat) : (bitSum f n).testBit i = (decide (i < n) && f i) := by
  induction n with
  | zero => simp [bitSum]
  | succ n ih =>
    by_cases hi : n < i
    · have hlt : bitSum f (n + 1) < 2 ^ i := (bitSum_lt f (n + 1)).trans_le (Nat.pow_le_pow_right (by omega) hi)
      simp [Nat.testBit_lt_two_pow hlt, Nat.not_lt.2 hi]
    · have high : bitSum f (n + 1) = 2 ^ n * (if f n then 1 else 0) + bitSum f n := by
        rw [bitSum_succ, Nat.add_comm]; split <;> simp
      rw [high, Nat.testBit_two_pow_mul_add _ (bitSum_lt f n)]
      rcases (Nat.le_of_not_lt hi).lt_or_eq with hlt | rfl
      · simp [hlt, ih, Nat.lt_succ_of_lt hlt]
      · cases f i <;> simp

@[simp] theorem getLsbD_ofBits (f : Nat → Bool) (i : Nat) : (ofBits f).getLsbD i = (decide (i < 64) && f i) := by
  rw [ofBits_eq_bitSum, BitVec.getLsbD_ofNat, testBit_bitSum]; simp

/-- A word is the one that `ofBits` makes when its bits are. -/
theorem eq_ofBits {w : Word} {f : Nat → Bool} (h : ∀ i < 64, w.getLsbD i = f i) : w = ofBits f :=
  BitVec.eq_of_getLsbD_eq fun i hi => by rw [h i hi, getLsbD_ofBits, decide_eq_true hi, Bool.true_and]

/-! The formulas of R193 and R194. -/

/-- A word is the one of an integer that it reads as. -/
theorem eq_ofInt {w : Word} {z : Int} (h : w.toInt = z) : w = BitVec.ofInt 64 z := by rw [← h, BitVec.ofInt_toInt]

/-- A word is the one of every integer congruent to what it reads as. -/
theorem eq_ofInt_of_bmod {w : Word} {z : Int} (h : w.toInt = z.bmod (2 ^ 64)) : w = BitVec.ofInt 64 z :=
  BitVec.eq_of_toInt_eq (by rw [h, BitVec.toInt_ofInt])

/-- A word is the one of every number congruent to its own. -/
theorem eq_ofNat {w : Word} {n : Nat} (h : w.toNat = n % 2 ^ 64) : w = BitVec.ofNat 64 n :=
  BitVec.eq_of_toNat_eq (by rw [h, BitVec.toNat_ofNat])

theorem add_eq_ofNat (a b : Word) : a + b = BitVec.ofNat 64 (a.toNat + b.toNat) := eq_ofNat (BitVec.toNat_add a b)

theorem sub_eq_ofInt (a b : Word) : a - b = BitVec.ofInt 64 (a.toInt - b.toInt) := eq_ofInt_of_bmod BitVec.toInt_sub

theorem and_eq_ofBits (a b : Word) : a &&& b = ofBits fun i => a.getLsbD i && b.getLsbD i :=
  eq_ofBits fun _ _ => BitVec.getLsbD_and

theorem or_eq_ofBits (a b : Word) : a ||| b = ofBits fun i => a.getLsbD i || b.getLsbD i :=
  eq_ofBits fun _ _ => BitVec.getLsbD_or

theorem xor_eq_ofBits (a b : Word) : a ^^^ b = ofBits fun i => a.getLsbD i != b.getLsbD i :=
  eq_ofBits fun _ _ => BitVec.getLsbD_xor

theorem andn_eq_ofBits (a b : Word) : a &&& ~~~b = ofBits fun i => a.getLsbD i && !b.getLsbD i :=
  eq_ofBits fun i hi => by simp [hi]

theorem shl_eq_ofNat (a b : Word) : a <<< amount b = BitVec.ofNat 64 (a.toNat * 2 ^ (b.toNat % 64)) :=
  eq_ofNat (by rw [BitVec.toNat_shiftLeft, Nat.shiftLeft_eq, amount])

theorem shr_eq_ofNat (a b : Word) : a >>> amount b = BitVec.ofNat 64 (a.toNat / 2 ^ (b.toNat % 64)) := by
  apply eq_ofNat
  rw [BitVec.toNat_ushiftRight, Nat.shiftRight_eq_div_pow, amount]
  exact (Nat.mod_eq_of_lt (lt_of_le_of_lt (Nat.div_le_self _ _) a.isLt)).symm

theorem sra_eq_ofInt (a b : Word) : a.sshiftRight (amount b) = BitVec.ofInt 64 (a.toInt / 2 ^ (b.toNat % 64)) := by
  rw [BitVec.sshiftRight_eq, Int.shiftRight_eq_div_pow, amount]; norm_cast

theorem rotr_eq_ofBits (a b : Word) :
    a.rotateRight (amount b) = ofBits fun i => a.getLsbD ((i + b.toNat) % 64) := by
  refine eq_ofBits fun i hi => ?_
  have hr : amount b < 64 := Nat.mod_lt _ (by omega)
  have hb : (i + b.toNat) % 64 = (i + amount b) % 64 := (Nat.add_mod_mod i b.toNat 64).symm
  rw [BitVec.getLsbD_rotateRight, Nat.mod_eq_of_lt hr, hb]
  by_cases hw : i < 64 - amount b
  · simp [hw, Nat.mod_eq_of_lt (show i + amount b < 64 by omega), Nat.add_comm]
  · have : (i + amount b) % 64 = i - (64 - amount b) := by omega
    simp [hw, hi, this]

theorem min_eq_ofInt (a b : Word) : (if b.slt a then b else a) = BitVec.ofInt 64 (min a.toInt b.toInt) := by
  apply eq_ofInt
  simp only [BitVec.slt_iff_toInt_lt]
  split <;> omega

theorem max_eq_ofInt (a b : Word) : (if a.slt b then b else a) = BitVec.ofInt 64 (max a.toInt b.toInt) := by
  apply eq_ofInt
  simp only [BitVec.slt_iff_toInt_lt]
  split <;> omega

theorem minz_eq_ofNat (a b : Word) : (if b.ult a then b else a) = BitVec.ofNat 64 (min a.toNat b.toNat) := by
  apply eq_ofNat
  simp only [BitVec.ult_iff_lt, BitVec.lt_def]
  split <;> omega

theorem maxz_eq_ofNat (a b : Word) : (if a.ult b then b else a) = BitVec.ofNat 64 (max a.toNat b.toNat) := by
  apply eq_ofNat
  simp only [BitVec.ult_iff_lt, BitVec.lt_def]
  split <;> omega

theorem mul_eq_ofInt (a b : Word) : a * b = BitVec.ofInt 64 (a.toInt * b.toInt) :=
  eq_ofInt_of_bmod (BitVec.toInt_mul a b)

theorem sdiv_eq_ofInt (a b : Word) : a.sdiv b = BitVec.ofInt 64 (a.toInt.tdiv b.toInt) :=
  eq_ofInt_of_bmod (BitVec.toInt_sdiv a b)

theorem srem_eq_ofInt (a b : Word) : a.srem b = BitVec.ofInt 64 (a.toInt.tmod b.toInt) :=
  eq_ofInt (BitVec.toInt_srem a b)

/-! Bit counts and Gray codes (R195). -/

theorem countBits_append (a : Word) (l m : List Nat) : countBits a (l ++ m) = countBits a l + countBits a m := by
  simp [countBits]

theorem popcount_eq_countBits (a : Word) (n : Nat) : popcount a.toNat n = countBits a (List.range n) := by
  induction n with
  | zero => rfl
  | succ n ih =>
    have one : countBits a [n] = if a.toNat.testBit n then 1 else 0 := by
      rw [BitVec.testBit_toNat]; cases h : a.getLsbD n <;> simp [countBits, h]
    rw [popcount, List.range_succ, countBits_append, ih, one, Nat.add_comm]

theorem clearRun_cons (a : Word) (i : Nat) (l : List Nat) :
    clearRun a (i :: l) = if a.getLsbD i then 0 else clearRun a l + 1 := by
  cases h : a.getLsbD i <;> simp [clearRun, h]

/-- The run of clear bits ends at the first set one. -/
theorem clearRun_map_range {a : Word} {g : Nat → Nat} {n j : Nat} (hj : j < n) (hset : a.getLsbD (g j) = true)
    (hclear : ∀ k < j, a.getLsbD (g k) = false) : clearRun a ((List.range n).map g) = j := by
  have first : ((List.range n).map g).findIdx (fun i => !!a.getLsbD i) = j :=
    (List.findIdx_eq (by simpa using hj)).2
      ⟨by simpa using hset, fun k hk => by simpa using hclear k hk⟩
  rw [clearRun, List.takeWhile_eq_take_findIdx_not, List.length_take, first]
  simpa using hj.le

theorem clearRun_zero (l : List Nat) : clearRun 0#64 l = l.length := by
  rw [clearRun, List.takeWhile_eq_self_iff.2 (by simp)]

theorem leadingZeros_eq_clearRun (a : Word) :
    leadingZeros a.toNat = clearRun a ((List.range 64).map (63 - ·)) := by
  by_cases ha : a.toNat = 0
  · have : a = 0#64 := BitVec.eq_of_toNat_eq ha
    rw [this, clearRun_zero]; simp [leadingZeros]
  · have hlog : a.toNat.log2 < 64 := (Nat.log2_lt ha).2 a.isLt
    rw [leadingZeros, if_neg ha, eq_comm]
    refine clearRun_map_range (by omega) ?_ fun k hk => ?_
    · rw [show 63 - (63 - a.toNat.log2) = a.toNat.log2 by omega]
      exact Nat.testBit_log2 ha
    · exact Nat.testBit_lt_two_pow ((Nat.log2_lt ha).1 (by omega))

theorem trailingZeros_eq_clearRun (a : Word) (n : Nat) (hn : n ≤ 64) :
    trailingZeros a.toNat n = 64 - n + clearRun a (List.range' (64 - n) n) := by
  induction n with
  | zero => rfl
  | succ n ih =>
    rw [trailingZeros, ih (by omega), List.range'_succ, clearRun_cons, BitVec.testBit_toNat,
      show 64 - (n + 1) = 63 - n by omega, show 63 - n + 1 = 64 - n by omega]
    split <;> omega

theorem reverse_eq_ofBits (a : Word) : a.reverse = ofBits fun i => a.getLsbD (63 - i) :=
  eq_ofBits fun i hi => by simp only [BitVec.getLsbD_reverse, BitVec.getMsbD_eq_getLsbD, hi, decide_true, Bool.true_and]

theorem gray_eq_ofBits (a : Word) : a ^^^ (a >>> 1) = ofBits fun i => a.getLsbD i != a.getLsbD (i + 1) :=
  eq_ofBits fun i _ => by rw [BitVec.getLsbD_xor, BitVec.getLsbD_ushiftRight, Nat.add_comm]

/-- The parity of `n` bits from bit `i` up. -/
def parity (a : Word) (i n : Nat) : Bool := countBits a ((List.range n).map (i + ·)) % 2 == 1

theorem parity_one (a : Word) (i : Nat) : parity a i 1 = a.getLsbD i := by
  cases h : a.getLsbD i <;> simp [parity, countBits, List.range_succ, h]

theorem parity_add (a : Word) (i m n : Nat) : parity a i (m + n) = (parity a i m != parity a (i + m) n) := by
  have cut : (List.range (m + n)).map (i + ·) =
      (List.range m).map (i + ·) ++ (List.range n).map (i + m + ·) := by
    simp [List.range_add, Nat.add_assoc]
  simp only [parity, cut, countBits_append]
  rcases Nat.mod_two_eq_zero_or_one (countBits a ((List.range m).map (i + ·))) with hm | hm <;>
    rcases Nat.mod_two_eq_zero_or_one (countBits a ((List.range n).map (i + m + ·))) with hn | hn <;>
    simp [Nat.add_mod, hm, hn]

/-- No bit above bit 63 is set. -/
theorem parity_beyond (a : Word) (n : Nat) {i : Nat} (hi : 64 ≤ i) : parity a i n = false := by
  have : countBits a ((List.range n).map (i + ·)) = 0 := by
    simp [countBits, BitVec.getLsbD_of_ge, Nat.le_add_right_of_le hi]
  simp [parity, this]

/-- One stage of `IGRAY` doubles the bits that each parity counts. -/
theorem parity_stage {a w : Word} {n : Nat} (h : ∀ i, w.getLsbD i = parity a i n) (i : Nat) :
    (w ^^^ (w >>> n)).getLsbD i = parity a i (n + n) := by
  rw [BitVec.getLsbD_xor, BitVec.getLsbD_ushiftRight, h, h, parity_add, Nat.add_comm n i]

theorem getLsbD_ungray (a : Word) (i : Nat) : (ungray a).getLsbD i = parity a i 64 :=
  have b := parity_stage fun i => (parity_one a i).symm
  have d := parity_stage (parity_stage b)
  parity_stage (parity_stage (parity_stage d)) i

theorem ungray_eq_ofBits (a : Word) :
    ungray a = ofBits fun i => countBits a ((List.range (64 - i)).map (i + ·)) % 2 == 1 :=
  eq_ofBits fun i hi => by
    calc (ungray a).getLsbD i = parity a i (64 - i + i) := by rw [getLsbD_ungray, Nat.sub_add_cancel hi.le]
      _ = parity a i (64 - i) := by rw [parity_add, parity_beyond a i (by omega), Bool.bne_false]

/-! Fields and immediates (R196, R197). -/

theorem bitLength_pos (b : Word) : 0 < bitLength b := by unfold bitLength lowBit; omega

theorem lowBit_add_bitLength_le (b : Word) : lowBit b + bitLength b ≤ 64 := by unfold bitLength lowBit; omega

theorem bitsAt_lt (v lo n : Nat) : bitsAt v lo n < 2 ^ n := Nat.mod_lt _ (Nat.two_pow_pos n)

theorem testBit_bitsAt (a : Word) (lo n i : Nat) :
    (bitsAt a.toNat lo n).testBit i = (decide (i < n) && a.getLsbD (lo + i)) := by
  rw [bitsAt, Nat.testBit_mod_two_pow, Nat.testBit_div_two_pow, Nat.add_comm, BitVec.testBit_toNat]

/-- Sign extension of a number is that of the bit vector it makes. -/
theorem wordOf_sextInt {n x : Nat} (hn : 0 < n) (hx : x < 2 ^ n) :
    wordOf (sextInt x n) = (BitVec.ofNat n x).signExtend 64 := by
  have half : x < 2 ^ (n - 1) ↔ 2 * x < 2 ^ n := by
    obtain ⟨m, rfl⟩ := Nat.exists_eq_add_of_lt hn
    rw [Nat.zero_add, Nat.add_sub_cancel, Nat.pow_succ]; omega
  simp [wordOf, BitVec.signExtend, BitVec.toInt, sextInt, Nat.mod_eq_of_lt hx, half]

theorem extractField_eq_extracted (a b : Word) : extractField a b = extracted a b := by
  refine eq_ofBits fun i hi => ?_
  have hpos := bitLength_pos b
  change (if b.getLsbD 12 then wordOf (sextInt (bitsAt a.toNat (lowBit b) (bitLength b)) (bitLength b))
    else BitVec.ofNat 64 (bitsAt a.toNat (lowBit b) (bitLength b))).getLsbD i = _
  rw [wordOf_sextInt hpos (bitsAt_lt ..)]
  have top : lowBit b + (bitLength b - 1) = lowBit b + bitLength b - 1 := by omega
  cases hs : b.getLsbD 12
  · rw [if_neg Bool.false_ne_true, BitVec.getLsbD_ofNat, testBit_bitsAt]
    by_cases hin : i < bitLength b <;> simp [hi, hin]
  · rw [if_pos rfl, BitVec.getLsbD_signExtend, BitVec.msb_eq_getLsbD_last, BitVec.getLsbD_ofNat, BitVec.getLsbD_ofNat,
      testBit_bitsAt, testBit_bitsAt, top]
    by_cases hin : i < bitLength b <;> simp [hi, hin, hpos]

theorem getLsbD_putBits {w : Nat} (v : BitVec w) (lo n x : Nat) {i : Nat} (hi : i < w) :
    (putBits v lo n x).getLsbD i = if lo ≤ i ∧ i < lo + n then x.testBit (i - lo) else v.getLsbD i := by
  simp only [putBits, BitVec.getLsbD_or, BitVec.getLsbD_and, BitVec.getLsbD_not, BitVec.getLsbD_ofNat,
    Nat.testBit_mul_two_pow, Nat.testBit_two_pow_sub_one, Nat.testBit_mod_two_pow, hi]
  by_cases hlo : lo ≤ i
  · by_cases hn : i - lo < n
    · simp [hlo, hn, show i < lo + n by omega]
    · simp [hlo, hn, show ¬ i < lo + n by omega]
  · simp [hlo]

theorem insertField_eq_inserted (d a b : Word) : insertField d a b = inserted d a b := by
  refine eq_ofBits fun i hi => ?_
  change (putBits d (lowBit b) (bitLength b) (bitsAt a.toNat 0 (bitLength b))).getLsbD i = _
  rw [getLsbD_putBits d _ _ _ hi]
  split
  · next h =>
    rw [testBit_bitsAt, Nat.zero_add, decide_eq_true (by omega), Bool.true_and]
  · rfl

theorem shiftLeft_or_eq_ofNat (a : Word) (i : BitVec 14) :
    (a <<< 14) ||| i.setWidth 64 = BitVec.ofNat 64 (a.toNat * 2 ^ 14 + i.toNat) := by
  refine BitVec.eq_of_getLsbD_eq fun j hj => ?_
  rw [BitVec.getLsbD_ofNat, Nat.mul_comm, Nat.testBit_two_pow_mul_add _ i.isLt, BitVec.getLsbD_or,
    BitVec.getLsbD_shiftLeft, BitVec.getLsbD_setWidth, BitVec.testBit_toNat, BitVec.testBit_toNat]
  by_cases hlow : j < 14
  · simp [hj, hlow]
  · simp [hj, hlow, BitVec.getLsbD_of_ge i j (by omega)]

/-! Scalar results. -/

theorem withTwo_scalarDone (a b : SSrc) (s : State) (lat : Nat) (ws : Bool) (d : BitVec 6)
    (f : Word → Word → Word) (g : Word → Word → BitVec 10) :
    (withTwo a b s fun u v s => .next (s.mod (·.emitS lat ws d (f u v) (g u v)))) =
      .next (scalarDone s [a, b] lat ws d (f (s.here.src a) (s.here.src b)) (g (s.here.src a) (s.here.src b))) := by
  simp [withTwo, scalarDone, noted]

theorem withOne_scalarDone (a : SSrc) (s : State) (lat : Nat) (ws : Bool) (d : BitVec 6) (f : Word → Word) :
    (withOne a s fun u s => .next (s.mod (·.emitS lat ws d (f u) 0#10))) =
      .next (scalarDone s [a] lat ws d (f (s.here.src a)) 0#10) := by
  simp [withOne, scalarDone, noted]

theorem binary_executes {lat : Nat} {x : SArgs} {s : State} (f : Word → Word → Word)
    (h : s.here.executes x.p = true) : binary lat x f s =
      .next (scalarDone s [x.a, x.b] lat x.ws x.d (f (s.here.src x.a) (s.here.src x.b)) 0#10) :=
  (guarded_executes _ h).trans (withTwo_scalarDone ..)

theorem unary_executes {x : SOne} {s : State} (f : Word → Word) (h : s.here.executes x.p = true) :
    unary x f s = .next (scalarDone s [x.a] 1 x.ws x.d (f (s.here.src x.a)) 0#10) :=
  (guarded_executes _ h).trans (withOne_scalarDone ..)

theorem dividing_executes {x : SArgs} {s : State} (zero : Word → Word) (f : Word → Word → Word)
    (h : s.here.executes x.p = true) : dividing x zero f s =
      .next (scalarDone s [x.a, x.b] 18 x.ws x.d
        (if s.here.src x.b = 0#64 then zero (s.here.src x.a) else f (s.here.src x.a) (s.here.src x.b))
        (if s.here.src x.b = 0#64 then 128#10 else 0#10)) :=
  (guarded_executes _ h).trans (withTwo_scalarDone ..)

theorem binary_congr {lat : Nat} {x : SArgs} {f g : Word → Word → Word} {s : State} (h : ∀ a b, f a b = g a b) :
    binary lat x f s = binary lat x g s := by rw [funext₂ h]

theorem dividing_congr {x : SArgs} {f g : Word → Word → Word} {s : State} (zero : Word → Word)
    (h : ∀ a b, f a b = g a b) : dividing x zero f s = dividing x zero g s := by rw [funext₂ h]

/-- The instructions of `integerRule` are two-source instructions with the function of their rule. -/
theorem exec_eq_binary {i : Instr} {x : SArgs} {lat : Nat} {f : Word → Word → Word}
    (h : integerRule i = some (x, lat, f)) (s : State) : exec i s = binary lat x f s := by
  unfold integerRule at h
  split at h <;> cases h
  · exact binary_congr add_eq_ofNat
  · exact binary_congr sub_eq_ofInt
  · exact binary_congr and_eq_ofBits
  · exact binary_congr or_eq_ofBits
  · exact binary_congr xor_eq_ofBits
  · exact binary_congr andn_eq_ofBits
  · exact binary_congr shl_eq_ofNat
  · exact binary_congr shr_eq_ofNat
  · exact binary_congr sra_eq_ofInt
  · exact binary_congr rotr_eq_ofBits
  · exact binary_congr min_eq_ofInt
  · exact binary_congr max_eq_ofInt
  · exact binary_congr minz_eq_ofNat
  · exact binary_congr maxz_eq_ofNat
  · exact binary_congr mul_eq_ofInt
  · rfl
  · rfl

/-- The instructions of `divisionRule` are divisions with the functions of their rule. -/
theorem exec_eq_dividing {i : Instr} {x : SArgs} {zero : Word → Word} {f : Word → Word → Word}
    (h : divisionRule i = some (x, zero, f)) (s : State) : exec i s = dividing x zero f s := by
  unfold divisionRule at h
  split at h <;> cases h
  · exact dividing_congr _ sdiv_eq_ofInt
  · exact dividing_congr _ fun _ _ => BitVec.udiv_def
  · exact dividing_congr _ srem_eq_ofInt
  · exact dividing_congr _ fun _ _ => BitVec.umod_def

/-- Settles O1: each instruction is the shared two-source or dividing operation with the integer formula of its
rule, and a slot that executes schedules exactly that operation's result. -/
theorem integerResults : Obligations.IntegerResults := by
  refine ⟨fun i x lat f s hi he => ?_, fun i x zero f s hi he => ⟨fun hz => ?_, fun hz => ?_⟩⟩
  · rw [exec_eq_binary hi, binary_executes f he]
  · rw [exec_eq_dividing hi, dividing_executes zero f he, if_pos hz, if_pos hz]
  · rw [exec_eq_dividing hi, dividing_executes zero f he, if_neg hz, if_neg hz]

theorem unary_congr {x : SOne} {f g : Word → Word} {s : State} (h : ∀ a, f a = g a) :
    unary x f s = unary x g s := by rw [funext h]

/-- The instructions of `bitRule` are one-source instructions with the function of their rule. -/
theorem exec_eq_unary {i : Instr} {x : SOne} {f : Word → Word} (h : bitRule i = some (x, f)) (s : State) :
    exec i s = unary x f s := by
  unfold bitRule at h
  split at h <;> cases h
  · exact unary_congr fun a => congrArg _ (popcount_eq_countBits a 64)
  · exact unary_congr fun a => congrArg _ (leadingZeros_eq_clearRun a)
  · exact unary_congr fun a => by rw [trailingZeros_eq_clearRun a 64 le_rfl, List.range_eq_range']; simp
  · exact unary_congr reverse_eq_ofBits
  · exact unary_congr gray_eq_ofBits
  · exact unary_congr ungray_eq_ofBits

theorem exec_ext {x : SArgs} {s : State} (h : s.here.executes x.p = true) : exec (.ext x) s =
    .next (scalarDone s [x.a, x.b] 1 x.ws x.d (extracted (s.here.src x.a) (s.here.src x.b)) 0#10) := by
  rw [← extractField_eq_extracted]
  exact binary_executes extractField h

/-- The destination that `INS` reads is untouched by the notes of its operands. -/
theorem exec_ins {x : SArgs} {s : State} (h : s.here.executes x.p = true) : exec (.ins x) s =
    .next (scalarDone s [x.a, x.b] 1 x.ws x.d
      (inserted (s.here.readS x.d) (s.here.src x.a) (s.here.src x.b)) 0#10) := by
  rw [← insertField_eq_inserted]
  change execIns x s = _
  rw [execIns, guarded_executes _ h]
  simp [withTwo, scalarDone, noted]

theorem exec_movi {x : SImm} {s : State} (h : s.here.executes x.p = true) : exec (.movi x) s =
    .next (scalarDone s [] 1 x.ws x.d (BitVec.ofInt 64 x.i.toInt) 0#10) := by
  change execMovi x s = _
  rw [execMovi, guarded_executes _ h]
  rfl

theorem exec_movh {x : SImm} {s : State} (h : s.here.executes x.p = true) : exec (.movh x) s =
    .next (scalarDone s [] 1 x.ws x.d (BitVec.ofNat 64 ((s.here.readS x.d).toNat * 2 ^ 14 + x.i.toNat)) 0#10) := by
  rw [← shiftLeft_or_eq_ofNat]
  change execMovh x s = _
  rw [execMovh, guarded_executes _ h]
  rfl

theorem exec_sel {x : SArgs} {s : State} (h : s.here.iss.wait = false) : exec (.sel x) s =
    .next (scalarDone s [x.a, x.b] 1 x.ws x.d
      (if s.here.predicate x.p then s.here.src x.a else s.here.src x.b) 0#10) :=
  (if_neg (by simp [h])).trans
    (withTwo_scalarDone x.a x.b s 1 x.ws x.d (fun a b => if s.here.predicate x.p then a else b) fun _ _ => 0#10)

/-- Settles O2: each one-source bit instruction is the shared operation with the function of its rule; `EXT`, `INS`,
the immediates and `SEL` by the lemma of each. -/
theorem bitAndFieldResults : Obligations.BitAndFieldResults := by
  refine ⟨fun i x f s hi he => ?_, fun _ _ => exec_ext, fun _ _ => exec_ins, fun _ _ => exec_movi,
    fun _ _ => exec_movh, fun _ _ => exec_sel⟩
  rw [exec_eq_unary hi, unary_executes f he]

end Sys2Proof.Claims
end

section
/-! PROOFS. The vectors of chapter 10 (R55, R60, R221-R223): an operand that may be read is read, and a register is known by
its elements, each of them by its bits. -/
namespace Sys2Proof.Claims
open Sys2Proof.Machine

/-! Operands. -/

/-- What the die holds after the first read of a port by a bundle: the vector given up, and noted for the bundle (R222). -/
def popped (d : Die) (j : BitVec 2) (x : InPort) (v : Vec) : Die :=
  { d with tab.inp := Store.set none d.tab.inp j.toNat (some x.pop), iss.popped := d.iss.popped ++ [(j.toNat, v)] }

/-- A port is read outside handler state: again in its bundle, or for the first time, armed with a vector present. -/
theorem portVector_cases {j : BitVec 2} {s t : State} {v : Vec} (h : portVector j s = some (v, t)) :
    s.here.handler = false ∧
    ((∃ n, s.here.iss.popped.find? (·.1 == j.toNat) = some (n, v) ∧ t = s) ∨
     (s.here.iss.popped.find? (·.1 == j.toNat) = none ∧ ∃ x, Store.get none s.here.tab.inp j.toNat = some x ∧
       x.armed = true ∧ x.drained = false ∧ x.ready s.pkg.clk = some v ∧ t = s.put (popped s.here j x v))) := by
  simp only [portVector] at h
  split at h
  · cases h
  next hh =>
    refine ⟨by simpa using hh, ?_⟩
    split at h
    next e he => cases h; exact .inl ⟨e.1, he, rfl⟩
    next he =>
      split at h
      · cases h
      next x hx =>
        split at h
        · cases h
        next hr =>
          obtain ⟨u, hu, hut⟩ := Option.map_eq_some_iff.1 h
          cases hut
          rw [not_or, Bool.not_eq_true, Bool.not_eq_false] at hr
          exact .inr ⟨he, x, hx, hr.2, hr.1, hu, rfl⟩

theorem withPort_eq_of_portVector {j : BitVec 2} {s t : State} {v : Vec} (k : Vec → State → Out)
    (h : portVector j s = some (v, t)) : withPort j s k = k v t := by
  obtain ⟨hh, ⟨n, hf, rfl⟩ | ⟨hf, x, hx, ha, hd, hr, rfl⟩⟩ := portVector_cases h
  · simp [withPort, hh, hf]
  · simp [withPort, hh, hf, hx, ha, hd, hr, popped]

theorem withV_eq_of_vecOperand {ty : VType} {a : VSrc} {s t : State} {v : Vec} (k : Vec → State → Out)
    (h : vecOperand ty s a = some (v, t)) : withV ty a s k = k v t := by
  cases a with
  | reg r => cases h; rfl
  | imm i => cases h; rfl
  | latch q => cases h; rfl
  | port j => exact withPort_eq_of_portVector k h

/-- A port that no bundle has popped yet may be named when it is armed and not drained; one that the bundle has
popped, always. -/
theorem portIllegal_port {s : State} {j : BitVec 2} : portIllegal s (.port j) = false ↔ s.here.handler = false ∧
    ((∃ e ∈ s.here.iss.popped, e.1 = j.toNat) ∨
      ∃ x, Store.get none s.here.tab.inp j.toNat = some x ∧ x.armed = true ∧ x.drained = false) := by
  simp only [portIllegal, Bool.or_eq_false_iff, Bool.and_eq_false_iff, Bool.not_eq_false', List.any_eq_true,
    Option.any_eq_true, beq_iff_eq, Bool.and_eq_true, Bool.not_eq_true']

theorem portIllegal_of_vecOperand {ty : VType} {b : VSrc} {s t : State} {v : Vec}
    (h : vecOperand ty s b = some (v, t)) : portIllegal s b = false := by
  cases b with
  | reg r => rfl
  | imm i => rfl
  | latch q => rfl
  | port j =>
    obtain ⟨hh, ⟨n, hf, -⟩ | ⟨-, x, hx, ha, hd, -⟩⟩ := portVector_cases h
    · exact portIllegal_port.2 ⟨hh, .inl ⟨_, List.mem_of_find?_eq_some hf, by simpa using List.find?_some hf⟩⟩
    · exact portIllegal_port.2 ⟨hh, .inr ⟨x, hx, ha, hd⟩⟩

/-- The read of one port makes no other readable. -/
theorem portIllegal_of_popped {s : State} {j : BitVec 2} {x : InPort} {v : Vec} {b : VSrc}
    (hj : portIllegal s (.port j) = false) (hb : portIllegal (s.put (popped s.here j x v)) b = false) :
    portIllegal s b = false := by
  cases b with
  | reg r => rfl
  | imm i => rfl
  | latch q => rfl
  | port i =>
    by_cases hij : i = j
    · rw [hij]; exact hj
    have hne : i.toNat ≠ j.toNat := fun e => hij (BitVec.eq_of_toNat_eq e)
    rw [portIllegal_port, State.put_here] at hb
    refine portIllegal_port.2 ⟨hb.1, hb.2.imp (fun ⟨e, he, hei⟩ => ⟨e, ?_, hei⟩) fun ⟨y, hy, hu⟩ => ⟨y, ?_, hu⟩⟩
    · refine (List.mem_append.1 he).resolve_right fun hm => hne ?_
      rw [← hei, List.mem_singleton.1 hm]
    · rwa [popped, Store.get_set_other _ _ _ hne] at hy

/-- What may be named after the first operand is read could be named before. -/
theorem portIllegal_before {ty : VType} {a b : VSrc} {s t : State} {v : Vec} (h : vecOperand ty s a = some (v, t))
    (hb : portIllegal t b = false) : portIllegal s b = false := by
  cases a with
  | reg r => cases h; exact hb
  | imm i => cases h; exact hb
  | latch q =>
    cases h
    cases b with
    | port i => simpa [portIllegal, Die.handler] using hb
    | reg _ | imm _ | latch _ => rfl
  | port j =>
    obtain ⟨-, ⟨n, -, rfl⟩ | ⟨-, x, -, -, -, -, rfl⟩⟩ := portVector_cases h
    · exact hb
    · exact portIllegal_of_popped (portIllegal_of_vecOperand (ty := ty) h) hb

theorem withVV_eq_of_vecOperands {ty : VType} {a b : VSrc} {s t : State} {u v : Vec} (k : Vec → Vec → State → Out)
    (h : vecOperands ty s a b = some (u, v, t)) : withVV ty a b s k = k u v t := by
  obtain ⟨⟨u', r⟩, ha, h⟩ := Option.bind_eq_some_iff.1 h
  obtain ⟨⟨v', t'⟩, hb, he⟩ := Option.map_eq_some_iff.1 h
  cases he
  rw [withVV, portIllegal_before ha (portIllegal_of_vecOperand hb), if_neg Bool.false_ne_true,
    withV_eq_of_vecOperand _ ha, withV_eq_of_vecOperand _ hb]

/-! Elements. -/

theorem vWidth_pos (ty : VType) : 0 < vWidth ty := by cases ty <;> decide
theorem vWidth_dvd_lane (ty : VType) : vWidth ty ∣ 32 := by cases ty <;> decide
theorem vWidth_dvd (ty : VType) : vWidth ty ∣ 16384 := (vWidth_dvd_lane ty).trans (by decide)

theorem element_lt (w : Nat) (v : Vec) (e : Nat) : element w v e < 2 ^ w := Nat.mod_lt _ (Nat.two_pow_pos w)

theorem elems_eq (w : Nat) (v : Vec) : elems w v = (List.range (16384 / w)).map (element w v) := rfl

theorem elems_zip (w : Nat) (a b : Vec) :
    (elems w a).zip (elems w b) = (List.range (16384 / w)).map fun e => (element w a e, element w b e) := by
  rw [elems_eq, elems_eq, List.zip_map']

theorem testBit_element (w : Nat) (v : Vec) (e j : Nat) :
    (element w v e).testBit j = (decide (j < w) && v.getLsbD (w * e + j)) := by
  rw [element, Nat.testBit_mod_two_pow, Nat.testBit_div_two_pow, Nat.add_comm, BitVec.testBit_toNat]

/-- Elements count up to their width. -/
theorem packNat_congr {w : Nat} {l : List Nat} {f g : Nat → Nat} (h : ∀ e ∈ l, f e % 2 ^ w = g e % 2 ^ w) :
    packNat w (l.map f) = packNat w (l.map g) := by
  induction l with
  | nil => rfl
  | cons x rest ih =>
    simp only [List.map_cons, packNat, h x (by simp), ih fun e he => h e (List.mem_cons_of_mem _ he)]

theorem pack_congr {w n : Nat} {f g : Nat → Nat} (h : ∀ e < n, f e % 2 ^ w = g e % 2 ^ w) :
    pack w ((List.range n).map f) = pack w ((List.range n).map g) :=
  congrArg (BitVec.ofNat 16384) (packNat_congr fun e he => h e (List.mem_range.1 he))

theorem testBit_packNat {w : Nat} (hw : 0 < w) (l : List Nat) (i : Nat) :
    (packNat w l).testBit i = (l.getD (i / w) 0).testBit (i % w) := by
  induction l generalizing i with
  | nil => simp [packNat]
  | cons x rest ih =>
    rw [packNat, Nat.add_comm, Nat.testBit_two_pow_mul_add _ (Nat.mod_lt _ (Nat.two_pow_pos w))]
    split
    next hi => rw [Nat.div_eq_of_lt hi, Nat.mod_eq_of_lt hi, Nat.testBit_mod_two_pow, decide_eq_true hi]; rfl
    next hi =>
      have hle : w ≤ i := Nat.le_of_not_lt hi
      rw [ih, Nat.div_eq_sub_div hw hle, List.getD_cons_succ, Nat.mod_eq_sub_mod hle]

theorem getLsbD_pack {w : Nat} (hw : 0 < w) (hd : w ∣ 16384) (f : Nat → Nat) {i : Nat} (hi : i < 16384) :
    (pack w ((List.range (16384 / w)).map f)).getLsbD i = (f (i / w)).testBit (i % w) := by
  have hin : i / w < 16384 / w := Nat.div_lt_div_of_lt_of_dvd hd hi
  rw [pack, BitVec.getLsbD_ofNat, testBit_packNat hw, decide_eq_true hi, Bool.true_and,
    List.getD_eq_getElem _ _ (by simpa using hin), List.getElem_map, List.getElem_range]

/-- A register is the one of its elements when each bit is that of its place in its element. -/
theorem eq_pack {w : Nat} {v : Vec} {f : Nat → Nat} (hw : 0 < w) (hd : w ∣ 16384)
    (h : ∀ i < 16384, v.getLsbD i = (f (i / w)).testBit (i % w)) :
    v = pack w ((List.range (16384 / w)).map f) :=
  BitVec.eq_of_getLsbD_eq fun i hi => by rw [h i hi, getLsbD_pack hw hd f hi]

/-- Two results write the same element with the same flags. -/
def SameElement (w : Nat) (p q : Flagged) : Prop := p.1 % 2 ^ w = q.1 % 2 ^ w ∧ p.2 = q.2

theorem SameElement.of_eq {w : Nat} {p q : Flagged} (h : p = q) : SameElement w p q := h ▸ ⟨rfl, rfl⟩

theorem emitElems_perElement_congr {w : Nat} {f g : Nat → Flagged} (d : Die) (lat : Nat) (ws : Bool) (dest : Dest)
    (m : Mask) (h : ∀ e, SameElement w (f e) (g e)) :
    d.emitElems lat ws dest m w (perElement w f) = d.emitElems lat ws dest m w (perElement w g) := by
  have flags : (perElement w f).map (·.2) = (perElement w g).map (·.2) := by
    simp only [perElement, List.map_map]
    exact List.map_congr_left fun e _ => (h e).2
  have values : pack w ((perElement w f).map (·.1)) = pack w ((perElement w g).map (·.1)) := by
    simp only [perElement, List.map_map]
    exact pack_congr fun e _ => (h e).1
  rw [Die.emitElems, flags, values, Die.emitElems]

end Sys2Proof.Claims
end

section
/-! PROOFS. Vector arithmetic (R224-R226, R232): the machine's function on two elements is the formula of its rule, and a slot
that executes schedules it on every element. -/
namespace Sys2Proof.Claims
open Sys2Proof.Machine

/-! Elements as integers. -/

/-- An element as an integer of a type (R223). -/
theorem intOf_eq_elemInt {ty : VType} {x : Nat} (hx : x < 2 ^ vWidth ty) :
    intOf (vSigned ty) (vWidth ty) x = elemInt ty x := by
  simp only [intOf, elemInt, Nat.mod_eq_of_lt hx]

/-- The pattern of an element's integer is the element. -/
theorem patOf_elemInt {ty : VType} {x : Nat} (hx : x < 2 ^ vWidth ty) : patOf (vWidth ty) (elemInt ty x) = x := by
  have hz : ((x : Int) % 2 ^ vWidth ty).toNat = x := by
    have cast : (x : Int) % 2 ^ vWidth ty = (x % 2 ^ vWidth ty : Nat) := by norm_cast
    rw [cast, Int.toNat_natCast, Nat.mod_eq_of_lt hx]
  unfold patOf elemInt
  split
  · rw [Int.sub_emod_right, hz]
  · exact hz

theorem vFmt_width {ty : VType} {f : FFmt} (h : vFmt ty = some f) : vWidth ty = f.width := by
  cases ty <;> cases h <;> rfl

/-! The formulas of R224 and R225. -/

theorem typedOp_eq_floatOr {ty : VType} (fop : Rule → FVal → FVal → FVal × BitVec 10) (iop : Int → Int → Int) (r : Rule)
    {a b : Nat} (ha : a < 2 ^ vWidth ty) (hb : b < 2 ^ vWidth ty) :
    typedOp ty fop iop r a b = floatOr ty r (fop r) (fun i j => wrapped ty (iop i j)) a b := by
  cases hf : vFmt ty with
  | some f => rw [typedOp, floatOr, hf]
  | none => rw [typedOp, floatOr, hf, ← intOf_eq_elemInt ha, ← intOf_eq_elemInt hb]; rfl

theorem patOf_intHi (ty : VType) :
    patOf (vWidth ty) (intHi (vSigned ty) (vWidth ty)) = (intHi (vSigned ty) (vWidth ty)).toNat := by
  cases ty <;> rfl

theorem clamped_eq_clampInt (ty : VType) (i : Int) :
    clamped ty i = (patOf (vWidth ty) (clampInt (intLo (vSigned ty) (vWidth ty)) (intHi (vSigned ty) (vWidth ty)) i).1,
      (clampInt (intLo (vSigned ty) (vWidth ty)) (intHi (vSigned ty) (vWidth ty)) i).2) := by
  change (if i < intLo (vSigned ty) (vWidth ty) then (patOf (vWidth ty) (intLo (vSigned ty) (vWidth ty)), fSAT)
    else if intHi (vSigned ty) (vWidth ty) < i then ((intHi (vSigned ty) (vWidth ty)).toNat, fSAT)
    else (patOf (vWidth ty) i, 0#10)) = _
  rw [← patOf_intHi, clampInt]
  split_ifs <;> rfl

theorem saturated_eq_clamped {ty : VType} (iop : Int → Int → Int) {a b : Nat} (ha : a < 2 ^ vWidth ty)
    (hb : b < 2 ^ vWidth ty) : saturated ty iop a b = clamped ty (iop (elemInt ty a) (elemInt ty b)) := by
  rw [clamped_eq_clampInt, ← intOf_eq_elemInt ha, ← intOf_eq_elemInt hb]; rfl

theorem minElem_float {ty : VType} {f : FFmt} (hf : vFmt ty = some f) (a b : Nat) : minElem ty a b = f.minPat a b := by
  rw [minElem, hf]

theorem maxElem_float {ty : VType} {f : FFmt} (hf : vFmt ty = some f) (a b : Nat) : maxElem ty a b = f.maxPatOf a b := by
  rw [maxElem, hf]

theorem minElem_integer {ty : VType} (hf : vFmt ty = none) {a b : Nat} (ha : a < 2 ^ vWidth ty)
    (hb : b < 2 ^ vWidth ty) : minElem ty a b = patOf (vWidth ty) (min (elemInt ty a) (elemInt ty b)) := by
  rw [min_comm, min_def_lt, apply_ite (patOf _), patOf_elemInt ha, patOf_elemInt hb, minElem, hf,
    ← intOf_eq_elemInt ha, ← intOf_eq_elemInt hb]

theorem maxElem_integer {ty : VType} (hf : vFmt ty = none) {a b : Nat} (ha : a < 2 ^ vWidth ty)
    (hb : b < 2 ^ vWidth ty) : maxElem ty a b = patOf (vWidth ty) (max (elemInt ty a) (elemInt ty b)) := by
  rw [max_def_lt, apply_ite (patOf _), patOf_elemInt ha, patOf_elemInt hb, maxElem, hf,
    ← intOf_eq_elemInt ha, ← intOf_eq_elemInt hb]

theorem shiftSigned_eq {ty : VType} {a : Nat} (ha : a < 2 ^ vWidth ty) (b : Nat) :
    (patOf (vWidth ty) (intOf true (vWidth ty) a / 2 ^ shiftBy ty b), 0#10) =
      wrapped ty ((if 2 ^ (vWidth ty - 1) ≤ a then (a : Int) - 2 ^ vWidth ty else a) / 2 ^ (b % vWidth ty)) := by
  simp only [intOf, Nat.mod_eq_of_lt ha, true_and]; rfl

/-- Adding the sign bit modulo the width turns it (R224). -/
theorem flipSign_eq {f : FFmt} {a : Nat} (ha : a < 2 ^ f.width) :
    (if a < f.signBit then a + f.signBit else a - f.signBit) = (a + f.signBit) % (2 * f.signBit) := by
  have hw : 0 < f.width := by cases f <;> decide
  rw [← Nat.two_pow_pred_mul_two hw] at ha
  change a < f.signBit * 2 at ha
  split
  · rw [Nat.mod_eq_of_lt (by omega)]
  · rw [show a + f.signBit = a - f.signBit + 2 * f.signBit by omega, Nat.add_mod_right, Nat.mod_eq_of_lt (by omega)]

theorem signOp_float {ty : VType} {t : FFmt} (hf : vFmt ty = some t) (f : Nat → Nat → Nat) (i : Int → Int) (a : Nat) :
    signOp ty f i a = (if (t.dec a).isNan then t.nanPat else f t.signBit a, 0#10) := by
  rw [signOp, hf]

theorem signOp_integer {ty : VType} (hf : vFmt ty = none) (f : Nat → Nat → Nat) (i : Int → Int) {a : Nat}
    (ha : a < 2 ^ vWidth ty) : signOp ty f i a = wrapped ty (i (elemInt ty a)) := by
  rw [signOp, hf, ← intOf_eq_elemInt ha]; rfl

/-! Slots on elements. -/

theorem elementwise_executes {lat : Nat} {x : VArgs} {g f : Rule → Nat → Nat → Flagged} {s t : State} {a b : Vec}
    (he : s.here.executes x.p = true) (ho : vecOperands x.ty s x.a x.b = some (a, b, t))
    (hf : ∀ r p q, p < 2 ^ vWidth x.ty → q < 2 ^ vWidth x.ty → SameElement (vWidth x.ty) (g r p q) (f r p q)) :
    elementwise lat x g s = .next (t.put (t.here.emitElems lat x.ws (t.here.vDest x.d) (t.here.readK x.k) (vWidth x.ty)
      (perElement (vWidth x.ty) fun e => f t.here.rule (element (vWidth x.ty) a e) (element (vWidth x.ty) b e)))) := by
  simp only [elementwise, guarded_executes _ he, withVV_eq_of_vecOperands _ ho, elems_zip, List.map_map]
  exact congrArg (fun d => (.next (t.put d) : Out))
    (emitElems_perElement_congr _ _ _ _ _ fun e => hf _ _ _ (element_lt ..) (element_lt ..))

theorem elementwiseOne_executes {lat : Nat} {x : VOne} {g f : Nat → Flagged} {s t : State} {a : Vec}
    (he : s.here.executes x.p = true) (ho : vecOperand x.ty s x.a = some (a, t))
    (hf : ∀ p < 2 ^ vWidth x.ty, g p = f p) :
    elementwiseOne lat x g s = .next (t.put (t.here.emitElems lat x.ws (t.here.vDest x.d) (t.here.readK x.k) (vWidth x.ty)
      (perElement (vWidth x.ty) fun e => f (element (vWidth x.ty) a e)))) := by
  simp only [elementwiseOne, guarded_executes _ he, withV_eq_of_vecOperand _ ho, elems_eq, List.map_map]
  exact congrArg (fun d => (.next (t.put d) : Out))
    (emitElems_perElement_congr _ _ _ _ _ fun e => .of_eq (hf _ (element_lt ..)))

/-- The instructions of `laneRule` act on elements with the function of their rule. -/
theorem exec_eq_elementwise {i : Instr} {x : VArgs} {lat : Nat} {f : Rule → Nat → Nat → Flagged}
    (h : laneRule i = some (x, lat, f)) : ∃ g, (∀ s, exec i s = elementwise lat x g s) ∧
      ∀ r a b, a < 2 ^ vWidth x.ty → b < 2 ^ vWidth x.ty → SameElement (vWidth x.ty) (g r a b) (f r a b) := by
  unfold laneRule at h
  split at h <;> cases h
  -- `VADD`, `VSUB`, `VMUL`, `VMULH`
  case h_1 | h_2 | h_3 | h_4 =>
    exact ⟨_, fun _ => rfl, fun _ _ _ ha hb => .of_eq (typedOp_eq_floatOr _ _ _ ha hb)⟩
  -- `VADDS`, `VSUBS`
  case h_5 =>
    exact ⟨fun _ => saturated x.ty (· + ·), fun _ => rfl, fun _ _ _ ha hb => .of_eq (saturated_eq_clamped _ ha hb)⟩
  case h_6 =>
    exact ⟨fun _ => saturated x.ty (· - ·), fun _ => rfl, fun _ _ _ ha hb => .of_eq (saturated_eq_clamped _ ha hb)⟩
  -- `VMIN`, `VMAX`
  case h_7 =>
    refine ⟨fun _ a b => (minElem x.ty a b, 0#10), fun _ => rfl, fun _ a b ha hb => .of_eq ?_⟩
    cases hf : vFmt x.ty with
    | some f => exact congrArg (·, 0#10) (minElem_float hf a b)
    | none => exact congrArg (·, 0#10) (minElem_integer hf ha hb)
  case h_8 =>
    refine ⟨fun _ a b => (maxElem x.ty a b, 0#10), fun _ => rfl, fun _ a b ha hb => .of_eq ?_⟩
    cases hf : vFmt x.ty with
    | some f => exact congrArg (·, 0#10) (maxElem_float hf a b)
    | none => exact congrArg (·, 0#10) (maxElem_integer hf ha hb)
  -- `VAND`, `VOR`, `VXOR`, `VSHR`; `VSHL`, whose product the rule cuts; `VSRA`
  case h_9 | h_10 | h_11 | h_13 => exact ⟨_, fun _ => by rfl, fun _ _ _ _ _ => .of_eq rfl⟩
  case h_12 =>
    exact ⟨fun _ a b => (a * 2 ^ shiftBy x.ty b, 0#10), fun _ => rfl, fun _ _ _ _ _ => ⟨(Nat.mod_mod _ _).symm, rfl⟩⟩
  case h_14 =>
    exact ⟨fun _ a b => (patOf (vWidth x.ty) (intOf true (vWidth x.ty) a / 2 ^ shiftBy x.ty b), 0#10), fun _ => rfl,
      fun _ _ b ha _ => .of_eq (shiftSigned_eq ha b)⟩

/-- The instructions of `laneRuleOne` act on elements with the function of their rule. -/
theorem exec_eq_elementwiseOne {i : Instr} {x : VOne} {lat : Nat} {f : Nat → Flagged}
    (h : laneRuleOne i = some (x, lat, f)) : ∃ g, (∀ s, exec i s = elementwiseOne lat x g s) ∧
      ∀ a < 2 ^ vWidth x.ty, g a = f a := by
  unfold laneRuleOne at h
  split at h <;> cases h
  -- `VABS`, `VNEG`; `VMOV` and the transcendentals are the rule's own functions
  case h_1 =>
    refine ⟨_, fun _ => rfl, fun a ha => ?_⟩
    cases hf : vFmt x.ty with
    | some t => exact signOp_float hf _ _ a
    | none => rw [signOp_integer hf _ _ ha, Int.natCast_natAbs]
  case h_2 =>
    refine ⟨_, fun _ => rfl, fun a ha => ?_⟩
    cases hf : vFmt x.ty with
    | some t => rw [signOp_float hf, flipSign_eq (vFmt_width hf ▸ ha)]
    | none => rw [signOp_integer hf _ _ ha]
  all_goals exact ⟨_, fun _ => rfl, fun _ _ => rfl⟩

theorem fused_executes {x : VArgs} {neg : Bool} {fmt : FFmt} {s t : State} {a b : Vec} (hf : vFmt x.ty = some fmt)
    (he : s.here.executes x.p = true) (ho : vecOperands x.ty s x.a x.b = some (a, b, t)) :
    fused x neg s = .next (t.put (t.here.emitElems 4 x.ws (t.here.vDest x.d) (t.here.readK x.k) (vWidth x.ty)
      (perElement (vWidth x.ty) fun e => fusedElement fmt t.here.rule neg (element (vWidth x.ty) a e)
        (element (vWidth x.ty) b e) (element (vWidth x.ty) (s.here.readV x.d) e)))) := by
  simp only [fused, guarded_executes _ he, withVV_eq_of_vecOperands _ ho, elems_eq, List.zip_map', List.map_map, hf]
  rfl

theorem exec_eq_fused {i : Instr} {x : VArgs} {neg : Bool} (h : fusedRule i = some (x, neg)) (s : State) :
    exec i s = fused x neg s := by
  unfold fusedRule at h
  split at h <;> cases h <;> rfl

/-- Settles O27: each instruction is the shared operation on elements with a function that agrees with its rule on every
element, and a slot that executes schedules exactly that operation's result. -/
theorem laneResults : Obligations.LaneResults := by
  refine ⟨fun i x lat f s t a b hi he ho => ?_, fun i x lat f s t a hi he ho => ?_,
    fun i x neg fmt s t a b hi hf he ho => ?_⟩
  · obtain ⟨g, hg, hgf⟩ := exec_eq_elementwise hi
    rw [hg, elementwise_executes he ho hgf]
  · obtain ⟨g, hg, hgf⟩ := exec_eq_elementwiseOne hi
    rw [hg, elementwiseOne_executes he ho hgf]
  · rw [exec_eq_fused hi, fused_executes hf he ho]

end Sys2Proof.Claims
end

section
/-! PROOFS. The arrangement of vectors and masks (R187, R226-R228, R236, R237): each move of bits, bit by bit, is the
arrangement of elements that its rule gives. -/
namespace Sys2Proof.Claims
open Sys2Proof.Machine

/-! Bits of arranged registers. -/

/-- A bit of a register is that of its place in its element. -/
theorem testBit_element_at {w : Nat} (hw : 0 < w) (v : Vec) (i : Nat) :
    (element w v (i / w)).testBit (i % w) = v.getLsbD i := by
  rw [testBit_element, decide_eq_true (Nat.mod_lt i hw), Bool.true_and, Nat.div_add_mod]

/-- A bit and its element lie in the same lane (R55). -/
theorem lane_of_bit {w : Nat} (hw : 0 < w) (hd : w ∣ 32) (i : Nat) : w * (i / w) / 32 = i / 32 := by
  obtain ⟨k, hk⟩ := hd
  rw [hk, Nat.mul_div_mul_left _ _ hw, Nat.div_div_eq_div_mul]

theorem getLsbD_spread (m : Mask) {i : Nat} (hi : i < 16384) : (spread m).getLsbD i = m.getLsbD (i / 32) := by
  unfold spread
  split
  next h => rw [h, BitVec.getLsbD_allOnes, BitVec.getLsbD_allOnes, decide_eq_true hi, decide_eq_true (by omega)]
  · rw [show List.range 512 = List.range (16384 / 32) from rfl, getLsbD_pack (by decide) (by decide) _ hi]
    split
    next h => rw [h, show 0xFFFFFFFF = 2 ^ 32 - 1 from rfl, Nat.testBit_two_pow_sub_one, decide_eq_true (by omega)]
    next h => rw [Nat.zero_testBit, Bool.eq_false_of_not_eq_true h]

theorem getLsbD_merge (m : Mask) (new old : Vec) {i : Nat} (hi : i < 16384) :
    (merge m new old).getLsbD i = if m.getLsbD (i / 32) then new.getLsbD i else old.getLsbD i := by
  unfold merge
  split
  next h => rw [h, BitVec.getLsbD_allOnes, decide_eq_true (by omega), if_pos rfl]
  · rw [BitVec.getLsbD_or, BitVec.getLsbD_and, BitVec.getLsbD_and, BitVec.getLsbD_not, getLsbD_spread m hi,
      decide_eq_true hi]
    cases m.getLsbD (i / 32) <;> simp

theorem merge_eq_pack {w : Nat} (hw : 0 < w) (hd : w ∣ 32) (m : Mask) (a b : Vec) :
    merge m a b = pack w ((List.range (16384 / w)).map fun e =>
      element w (if m.getLsbD (w * e / 32) then a else b) e) :=
  eq_pack hw (hd.trans (by decide)) fun i hi => by
    rw [testBit_element_at hw, lane_of_bit hw hd, getLsbD_merge m a b hi, apply_ite (BitVec.getLsbD · i)]

theorem getLsbD_rotateRight_eq_mod {n : Nat} (v : BitVec n) {r i : Nat} (hr : r < n) (hi : i < n) :
    (v.rotateRight r).getLsbD i = v.getLsbD ((r + i) % n) := by
  rw [BitVec.getLsbD_rotateRight, Nat.mod_eq_of_lt hr]
  by_cases h : i < n - r
  · rw [decide_eq_true h, cond_true, Nat.mod_eq_of_lt (by omega)]
  · rw [decide_eq_false h, cond_false, decide_eq_true hi, Bool.true_and, Nat.mod_eq_sub_mod (by omega),
      Nat.mod_eq_of_lt (by omega), show i - (n - r) = r + i - n by omega]

/-- A rotation by whole elements turns the elements (R228). -/
theorem rotateRight_eq_pack {w : Nat} (hw : 0 < w) (hd : w ∣ 16384) (v : Vec) (r : Nat) :
    v.rotateRight (w * (r % (16384 / w))) =
      pack w ((List.range (16384 / w)).map fun e => element w v ((e + r) % (16384 / w))) :=
  eq_pack hw hd fun i hi => by
    have hn : w * (16384 / w) = 16384 := Nat.mul_div_cancel' hd
    have hr : w * (r % (16384 / w)) < w * (16384 / w) :=
      Nat.mul_lt_mul_of_pos_left (Nat.mod_lt r (Nat.div_pos (Nat.le_of_dvd (by decide) hd) hw)) hw
    have place : (w * (r % (16384 / w)) + i) % 16384 = w * ((i / w + r) % (16384 / w)) + i % w := by
      rw [← hn, Nat.mod_mul, hn, Nat.mul_add_mod, Nat.mul_add_div hw, Nat.mod_add_mod, Nat.add_comm r, Nat.add_comm]
    rw [getLsbD_rotateRight_eq_mod v (hr.trans_eq hn) hi, place, testBit_element, decide_eq_true (Nat.mod_lt i hw),
      Bool.true_and]

/-- Bits replaced at an element's place replace that element (R227). -/
theorem putBits_eq_pack {w : Nat} (hw : 0 < w) (hd : w ∣ 16384) (v : Vec) (k x : Nat) :
    putBits v (w * k) w x = pack w ((List.range (16384 / w)).map fun e =>
      if e = k then x % 2 ^ w else element w v e) :=
  eq_pack hw hd fun i hi => by
    have inside : w * k ≤ i ∧ i < w * k + w ↔ i / w = k := by
      rw [Nat.div_eq_iff hw, Nat.mul_comm k]; omega
    rw [getLsbD_putBits v _ _ _ hi, ← testBit_element_at hw v i]
    simp only [inside]
    split
    next h =>
      have hi : i - w * k = i % w := by rw [← h, Nat.mod_def]
      rw [hi, Nat.testBit_mod_two_pow, decide_eq_true (Nat.mod_lt i hw), Bool.true_and]
    · rfl

theorem splat_eq_pack (w x : Nat) : splat w x = pack w ((List.range (16384 / w)).map fun _ => x % 2 ^ w) := by
  rw [splat, count, ← List.length_range (n := 16384 / w), ← List.map_const', List.length_range]
  exact pack_congr fun _ _ => (Nat.mod_mod _ _).symm

theorem zipIdx_map_range {α : Type} (f : Nat → α) (n : Nat) :
    ((List.range n).map f).zipIdx = (List.range n).map fun e => (f e, e) :=
  List.ext_getElem (by simp) (by simp)

/-! Masks and counts. -/

theorem testBit_bitsOf (l : List Bool) (i : Nat) : (bitsOf l).testBit i = l.getD i false := by
  induction l generalizing i with
  | nil => simp [bitsOf]
  | cons b rest ih => cases i <;> cases b <;> simp [bitsOf, ih, Nat.testBit_succ, Nat.add_mul_div_left]

theorem bitsOf_map_range (f : Nat → Bool) (n : Nat) : bitsOf ((List.range n).map f) = bitSum f n := by
  refine Nat.eq_of_testBit_eq fun i => ?_
  rw [testBit_bitsOf, testBit_bitSum]
  by_cases h : i < n <;> simp [h]

theorem onesIn_eq_length (v n : Nat) : onesIn v n = ((List.range n).filter v.testBit).length := by
  induction n with
  | zero => rfl
  | succ n ih =>
    have last : onesIn v (n + 1) = if v.testBit n then onesIn v n + 1 else onesIn v n := by
      simp [onesIn, List.range_succ]
    rw [last, ih, List.range_succ, List.filter_append]
    cases h : v.testBit n <;> simp [h]

theorem wordOf_element {ty : VType} {e : Nat} (he : e < 2 ^ vWidth ty) :
    (if vSigned ty then wordOf (sextInt e (vWidth ty)) else BitVec.ofNat 64 e) = BitVec.ofInt 64 (elemInt ty e) := by
  unfold elemInt
  cases vSigned ty
  · simp
  · simp only [wordOf, sextInt, Nat.mod_eq_of_lt he, if_true, true_and, ← not_lt, ite_not]

/-! Slots that arrange elements. -/

/-- The result of a two-source arrangement: an element for each place. -/
def arranged (t : State) (x : VArgs) (lat : Nat) (m : Mask) (f : Nat → Nat) : Out :=
  .next (t.put (t.here.emitV lat x.ws (t.here.vDest x.d) m
    (pack (vWidth x.ty) ((List.range (16384 / vWidth x.ty)).map f)) []))

section
variable {x : VArgs} {s t : State} {a b : Vec} (he : s.here.executes x.p = true)
  (ho : vecOperands x.ty s x.a x.b = some (a, b, t))
include he ho

theorem exec_vsel : exec (.vsel x) s = arranged t x 2 (BitVec.allOnes 512) fun e =>
    element (vWidth x.ty) (if (t.here.readK x.k).getLsbD (vWidth x.ty * e / 32) then a else b) e := by
  change execVsel x s = _
  simp only [execVsel, guarded_executes _ he, withVV_eq_of_vecOperands _ ho,
    merge_eq_pack (vWidth_pos x.ty) (vWidth_dvd_lane x.ty)]
  rfl

theorem exec_vperm : exec (.vperm x) s = arranged t x 4 (t.here.readK x.k) fun e =>
    element (vWidth x.ty) a (element (vWidth x.ty) b e % (16384 / vWidth x.ty)) := by
  change execVperm x s = _
  simp only [execVperm, guarded_executes _ he, withVV_eq_of_vecOperands _ ho, elems_eq, List.map_map]
  rfl

theorem exec_vrotl : exec (.vrotl x) s = arranged t x 4 (t.here.readK x.k) fun e =>
    element (vWidth x.ty) a ((e + element (vWidth x.ty) b 0) % (16384 / vWidth x.ty)) := by
  have first : element (vWidth x.ty) b 0 = b.toNat % 2 ^ vWidth x.ty := by simp [element]
  change execVrotl x s = _
  simp only [execVrotl, guarded_executes _ he, withVV_eq_of_vecOperands _ ho, count,
    rotateRight_eq_pack (vWidth_pos x.ty) (vWidth_dvd x.ty), first, arranged]

theorem exec_viota : exec (.viota x) s = arranged t x 2 (t.here.readK x.k) fun e =>
    (element (vWidth x.ty) a e + e * element (vWidth x.ty) b e) % 2 ^ vWidth x.ty := by
  change execViota x s = _
  simp only [execViota, guarded_executes _ he, withVV_eq_of_vecOperands _ ho, elems_zip, zipIdx_map_range, List.map_map,
    arranged]
  rw [pack_congr fun e _ => (Nat.mod_mod _ _).symm]
  rfl

end

theorem exec_vcmp {x : VCmpArgs} {s t : State} {a b : Vec} (he : s.here.executes x.p = true)
    (ho : vecOperands x.ty s x.a x.b = some (a, b, t)) :
    exec (.vcmp x) s = .next (t.put (t.here.emitV 2 x.ws (Die.kDest x.d) (t.here.readK x.k)
      (BitVec.ofNat 16384 (bitSum (fun e => vcmpTest x.ty x.c.toNat (element 32 a e) (element 32 b e)) 512)) [])) := by
  change execVcmp x s = _
  simp only [execVcmp, guarded_executes _ he, withVV_eq_of_vecOperands _ ho, elems_zip, List.map_map, bitsOf_map_range]
  rfl

theorem exec_vbcast {x : VBcastArgs} {s : State} (he : s.here.executes x.p = true) :
    exec (.vbcast x) s = .next ((readDone s [x.a]).put ((readDone s [x.a]).here.emitV 2 x.ws
      ((readDone s [x.a]).here.vDest x.d) ((readDone s [x.a]).here.readK x.k) (pack (vWidth x.ty)
        ((List.range (16384 / vWidth x.ty)).map fun _ => (s.here.src x.a).toNat % 2 ^ vWidth x.ty)) [])) := by
  change execVbcast x s = _
  rw [execVbcast, guarded_executes _ he, ← splat_eq_pack]
  rfl

theorem exec_vexts {x : VExtArgs} {s t : State} {a : Vec} (he : s.here.executes x.p = true)
    (ho : vecOperand x.ty s x.a = some (a, t)) :
    exec (.vexts x) s = .next (scalarDone t [x.b] 3 x.ws x.d (BitVec.ofInt 64 (elemInt x.ty
      (element (vWidth x.ty) a ((t.here.src x.b).toNat % (16384 / vWidth x.ty))))) 0#10) := by
  change execVexts x s = _
  rw [execVexts, guarded_executes _ he, withV_eq_of_vecOperand _ ho, ← wordOf_element (element_lt ..)]
  simp [withOne, scalarDone, noted, element, count]

theorem exec_vinss {x : VInsArgs} {s : State} (he : s.here.executes x.p = true) :
    exec (.vinss x) s = .next ((readDone s [x.a, x.b]).put ((readDone s [x.a, x.b]).here.emitV 3 x.ws
      ((readDone s [x.a, x.b]).here.vDest x.d) (BitVec.allOnes 512) (pack (vWidth x.ty)
        ((List.range (16384 / vWidth x.ty)).map fun e =>
          if e = (s.here.src x.b).toNat % (16384 / vWidth x.ty) then (s.here.src x.a).toNat % 2 ^ vWidth x.ty
          else element (vWidth x.ty) (s.here.readV x.d) e)) [])) := by
  change execVinss x s = _
  rw [execVinss, guarded_executes _ he, ← putBits_eq_pack (vWidth_pos x.ty) (vWidth_dvd x.ty)]
  rfl

/-- The instructions of `maskRule` are mask operations with the function of their rule. -/
theorem exec_eq_maskOp {i : Instr} {x : KArgs} {f : Mask → Mask → Mask} (h : maskRule i = some (x, f)) (s : State) :
    exec i s = maskOp x f s := by
  unfold maskRule at h
  split at h <;> cases h <;> rfl

theorem maskOp_executes {x : KArgs} {s : State} (f : Mask → Mask → Mask) (he : s.here.executes x.p = true) :
    maskOp x f s = .next (s.put (s.here.emitV 2 x.ws (Die.kDest (x.d.setWidth 3)) (BitVec.allOnes 512)
      (BitVec.ofNat 16384 (f (s.here.readK x.a) (s.here.readK x.b)).toNat) [])) := by
  rw [maskOp, guarded_executes _ he, BitVec.ofNat_toNat]
  rfl

theorem exec_kpopc {x : KArgs} {s : State} (he : s.here.executes x.p = true) :
    exec (.kpopc x) s = .next (scalarDone s [] 2 x.ws x.d
      (BitVec.ofNat 64 (((List.range 512).filter fun i => (s.here.readK x.a).getLsbD i).length)) 0#10) := by
  change execKpopc x s = _
  simp only [execKpopc, guarded_executes _ he, onesIn_eq_length]
  rfl

/-- An output port that may take a vector takes it (R60, R236). -/
theorem sendOut_ready {y lat : Nat} {s : State} {o : OutPort} (v : Vec) (k : State → Out)
    (h : OutReady s.here y lat o) : sendOut y lat v s k = k (s.put (sentTo s.here y lat o v)) := by
  obtain ⟨hh, ho, ha, hd, hn, hq⟩ := h
  have free : (s.here.tab.outq.any fun q => q.port == y && q.land == s.here.now + lat && !q.landed) = false := by
    simpa [List.any_eq_false] using hq
  simp only [sendOut, ho]
  rw [if_neg (by simp [hh, ha, hd, hn]), if_neg (by simp [free])]
  rfl

theorem exec_vout {x : VOutArgs} {s t : State} {a : Vec} {o : OutPort} (he : s.here.executes x.p = true)
    (ho : vecOperand x.ty s x.a = some (a, t)) (hr : OutReady t.here x.y.toNat 2 o) :
    exec (.vout x) s = .next (t.put ((sentTo t.here x.y.toNat 2 o (merge (t.here.readK x.k) a 0#16384)).emitV 2 false .none
      (BitVec.allOnes 512) (merge (t.here.readK x.k) a 0#16384) [])) := by
  change execVout x s = _
  rw [execVout, guarded_executes _ he, withV_eq_of_vecOperand _ ho]
  simp only [sendOut_ready _ _ hr, State.put_mod]
  rfl

/-- Settles O28, by the lemma of each instruction. -/
theorem vectorArrangement : Obligations.VectorArrangement :=
  ⟨⟨fun _ _ _ _ _ => exec_vcmp,
    fun _ _ _ _ _ he ho => ⟨exec_vsel he ho, exec_vperm he ho, exec_vrotl he ho, exec_viota he ho⟩⟩,
   fun _ _ => exec_vbcast, fun _ _ _ _ => exec_vexts, fun _ _ => exec_vinss,
   fun _ _ f s hi he => (exec_eq_maskOp hi s).trans (maskOp_executes f he), fun _ _ => exec_kpopc,
   fun _ _ _ _ _ => exec_vout⟩

end Sys2Proof.Claims
end
